-- ==== Sys2Proof/Word.lean ====
section
/-!
DEFINITION. The word types of the block: the 32-bit word of a Sheave register and of a BAR0 register, the
128-bit value of an accumulator, and the byte (R8, R93, R97).
-/
set_option autoImplicit false

namespace Sys2Proof

/-- A byte of any memory of the device. -/
abbrev Byte := BitVec 8
/-- A data or address register, a descriptor dword, a BAR0 register (R93, R571). -/
abbrev Word := BitVec 32
/-- The value of an accumulator; byte 0 is its least significant byte (R97). -/
abbrev Quad := BitVec 128

end Sys2Proof
end

