-- ==== Sys2Proof/Machine/SMap.lean ====
section
/-!
DEFINITION. Sparse tables in one canonical form: the keys strictly rise and no entry equals the value that an
unlisted key reads as. Equal tables are equal data.
-/
set_option autoImplicit false

namespace Sys2Proof.Machine

/-- A sparse table from keys (addresses, indices) to values. -/
abbrev SMap (α : Type) := List (Nat × α)

/-- The value at key `k`; `d` is what an unlisted key reads as. -/
def SMap.get {α : Type} (d : α) : SMap α → Nat → α
  | [], _ => d
  | (a, v) :: m, k => if k = a then v else SMap.get d m k

/-- The table without an entry for `k`. -/
def SMap.del {α : Type} (m : SMap α) (k : Nat) : SMap α := m.filter fun e => e.1 != k

/-- Insert an entry in key order, replacing the entry of an equal key. -/
def SMap.ins {α : Type} (k : Nat) (v : α) : SMap α → SMap α
  | [] => [(k, v)]
  | (a, w) :: m =>
    if k < a then (k, v) :: (a, w) :: m
    else if k = a then (k, v) :: m
    else (a, w) :: SMap.ins k v m

/-- Write one entry, keeping the canonical form: writing what an unlisted key reads as removes the entry. -/
def SMap.put {α : Type} [DecidableEq α] (d : α) (m : SMap α) (k : Nat) (v : α) : SMap α :=
  if v = d then SMap.del m k else SMap.ins k v m

/-- Change the entry at one key. -/
def SMap.upd {α : Type} [DecidableEq α] (d : α) (m : SMap α) (k : Nat) (f : α → α) : SMap α :=
  SMap.put d m k (f (SMap.get d m k))

/-- The canonical form, above a lower bound for the keys. -/
def SMap.wfFrom {α : Type} [DecidableEq α] (d : α) : Nat → SMap α → Bool
  | _, [] => true
  | b, (a, v) :: m => decide (b ≤ a) && decide (v ≠ d) && SMap.wfFrom d (a + 1) m

/-- The canonical form. -/
def SMap.wf {α : Type} [DecidableEq α] (d : α) (m : SMap α) : Bool := SMap.wfFrom d 0 m

/-- Bytes of a byte table from `a` on. -/
def SMap.bytes (m : SMap Byte) (a n : Nat) : List Byte := (List.range n).map fun i => SMap.get 0 m (a + i)

/-- Write a byte string from `a` on. -/
def SMap.putBytes (m : SMap Byte) (a : Nat) : List Byte → SMap Byte
  | [] => m
  | b :: bs => SMap.putBytes (SMap.put 0 m a b) (a + 1) bs

/-- The entries of a run of consecutive keys from `a` on. -/
def SMap.run {α : Type} [DecidableEq α] (d : α) : Nat → List α → SMap α
  | _, [] => []
  | a, v :: vs => if v = d then SMap.run d (a + 1) vs else (a, v) :: SMap.run d (a + 1) vs

/-- Write a run of consecutive keys from `a` on at once. -/
def SMap.putRun {α : Type} [DecidableEq α] (d : α) (m : SMap α) (a : Nat) (vs : List α) : SMap α :=
  (m.filter fun e => decide (e.1 < a)) ++ SMap.run d a vs ++ m.filter fun e => decide (a + vs.length ≤ e.1)

/-- Keep the entries whose key satisfies `p`; the others read as unlisted. -/
def SMap.keep {α : Type} (p : Nat → Bool) (m : SMap α) : SMap α := m.filter fun e => p e.1

/-- Zero (unlist) the keys from `a` to `a + n - 1`. -/
def SMap.clear {α : Type} (m : SMap α) (a n : Nat) : SMap α := m.filter fun e => !(decide (a ≤ e.1) && decide (e.1 < a + n))

end Sys2Proof.Machine
end

