-- ==== Sys2Proof/Machine/Bits.lean ====
section
/-!
DEFINITION. Bits, bytes and byte strings: little-endian fields of the device (R8), byte strings in the order of
their standard (R9), ceiling division of the two clocks (R32, R88, R113).
-/
set_option autoImplicit false

namespace Sys2Proof.Machine

/-- `n` bytes of `v`, least significant first (R8). -/
def leBytes (n v : Nat) : List Byte := (List.range n).map fun i => BitVec.ofNat 8 (v >>> (8 * i))

/-- The number that little-endian bytes hold. -/
def leNat : List Byte → Nat
  | [] => 0
  | b :: bs => b.toNat + 256 * leNat bs

/-- `n` bytes of `v`, most significant first. -/
def beBytes (n v : Nat) : List Byte := (leBytes n v).reverse

/-- The number that big-endian bytes hold. -/
def beNat (bs : List Byte) : Nat := leNat bs.reverse

/-- Bits `[lo + w - 1 : lo]` of a number. -/
def bitsOf (v lo w : Nat) : Nat := (v >>> lo) % 2 ^ w

/-- Bit `i` of a number. -/
def bitOf (v i : Nat) : Bool := v.testBit i

/-- A number with bits `[lo + w - 1 : lo]` replaced. -/
def setBits (v lo w x : Nat) : Nat := v - (bitsOf v lo w) * 2 ^ lo + (x % 2 ^ w) * 2 ^ lo

/-- One bit set. -/
def orBit (v i : Nat) : Nat := v ||| 2 ^ i

/-- One bit cleared. -/
def clrBit (v i : Nat) : Nat := v &&& (v ^^^ 2 ^ i)

/-- The ceiling of a quotient. -/
def ceilDiv (a b : Nat) : Nat := (a + b - 1) / b

/-- A byte string padded with zeros, or cut, to `n` bytes. -/
def fitBytes (n : Nat) (bs : List Byte) : List Byte := (bs ++ List.replicate (n - bs.length) 0).take n

/-- XOR of two byte strings, as long as the shorter. -/
def xorBytes (a b : List Byte) : List Byte := List.zipWith (· ^^^ ·) a b

/-- Bytes `a` to `a + n - 1` of a string. -/
def cut (bs : List Byte) (a n : Nat) : List Byte := (bs.drop a).take n

/-- The bytes of an accumulator value, byte 0 first (R97). -/
def quadBytes (q : Quad) : List Byte := leBytes 16 q.toNat

/-- An accumulator value from up to 16 bytes, byte 0 first (R97). -/
def bytesQuad (bs : List Byte) : Quad := BitVec.ofNat 128 (leNat (bs.take 16))

/-- A byte string given as a hexadecimal number of `n` bytes, first byte most significant. -/
def hexBytes (n v : Nat) : List Byte := beBytes n v

/-- Cut a byte string into blocks of `n` bytes; the last may be shorter. -/
def blocksAux (n : Nat) : Nat → List Byte → List (List Byte)
  | 0, _ => []
  | fuel + 1, bs => if bs.isEmpty then [] else bs.take n :: blocksAux n fuel (bs.drop n)

/-- Cut a byte string into blocks of `n` bytes; the last may be shorter. -/
def blocks (n : Nat) (bs : List Byte) : List (List Byte) := blocksAux n bs.length bs

/-- The ASCII bytes of a text. -/
def ascii (t : String) : List Byte := t.toList.map fun c => BitVec.ofNat 8 c.toNat

/-- Fabric time at which Sheave cycle `c` reaches a unit: ⌈1.25 c⌉ (R113). -/
def fabricOf (c : Nat) : Nat := ceilDiv (5 * c) 4

/-- Sheave cycle from which a result of fabric time `r` is readable: ⌈0.8 r⌉ (R114, R88). -/
def sheaveOf (r : Nat) : Nat := ceilDiv (4 * r) 5

/-- A counter that wraps at `2^w`. -/
def wrapInc (w v : Nat) : Nat := (v + 1) % 2 ^ w

/-- A counter that saturates at `m`. -/
def satInc (m v : Nat) : Nat := min m (v + 1)

/-- Replace or append at the end: the first element satisfying `p` is changed by `f`. -/
def updFirst {α : Type} (p : α → Bool) (f : α → α) : List α → List α
  | [] => []
  | x :: xs => if p x then f x :: xs else x :: updFirst p f xs

end Sys2Proof.Machine
end

