-- ==== Sys2Proof/Machine/Crc.lean ====
section
/-!
DEFINITION. The CRCs of Table 14.6 (R440, R441), a byte at a time and a bit at a time.
-/
set_option autoImplicit false

namespace Sys2Proof.Machine

/-- The parameters of a CRC. A reflected one shifts right with its polynomial reversed. -/
structure CrcPar where
  w    : Nat
  poly : Nat
  init : Nat
  refl : Bool
  out  : Nat

/-- CRC-32C. -/
def crc32cPar : CrcPar := ⟨32, 0x82F63B78, 0xFFFFFFFF, true, 0xFFFFFFFF⟩
/-- CRC-32/ISO-HDLC. -/
def crc32Par : CrcPar := ⟨32, 0xEDB88320, 0xFFFFFFFF, true, 0xFFFFFFFF⟩
/-- CRC-16/IBM-3740. -/
def crc16Par : CrcPar := ⟨16, 0x1021, 0xFFFF, false, 0⟩
/-- CRC-64/ECMA-182. -/
def crc64Par : CrcPar := ⟨64, 0x42F0E1EBA9EA3693, 0, false, 0⟩

/-- The CRC of POLY (Table 14.6). -/
def crcPar (poly : Nat) : CrcPar :=
  match poly % 4 with
  | 0 => crc32cPar
  | 1 => crc32Par
  | 2 => crc16Par
  | _ => crc64Par

/-- One bit of a CRC register. -/
def crcBit (p : CrcPar) (v : Nat) : Nat :=
  if p.refl then (if v % 2 = 1 then v / 2 ^^^ p.poly else v / 2)
  else (if v.testBit (p.w - 1) then (v * 2) % 2 ^ p.w ^^^ p.poly else v * 2)

/-- One byte of a CRC register. -/
def crcByte (p : CrcPar) (v : Nat) (b : Byte) : Nat :=
  let x := if p.refl then v ^^^ b.toNat else v ^^^ (b.toNat * 2 ^ (p.w - 8))
  crcBit p (crcBit p (crcBit p (crcBit p (crcBit p (crcBit p (crcBit p (crcBit p x)))))))

/-- A CRC register after more bytes. -/
def crcRun (p : CrcPar) (v : Nat) (bs : List Byte) : Nat := bs.foldl (crcByte p) v

/-- The CRC of a byte string. -/
def crc (p : CrcPar) (bs : List Byte) : Nat := crcRun p p.init bs ^^^ p.out

/-- The CRC of a byte string and a fold word, little-endian (R441). -/
def crcFold (p : CrcPar) (bs : List Byte) (fold : Nat) : Nat := crc p (bs ++ leBytes 4 fold)

/-- CRC-32C with a fold word, as the fixed instances use it (Table 14.7). -/
def crc32c (bs : List Byte) (fold : Nat) : Nat := crcFold crc32cPar bs fold

end Sys2Proof.Machine
end

