-- ==== Sys2Proof/Syntax.lean ====
section
/-!
DEFINITION. The commands of the block: one constructor per row of spec/opcode_table.json, with the operands its
rule says the event carries (notes/assumptions/2.md). The mnemonic of a row stands in the docstring of its
constructor. A command that reports a physical event (an injected check failure, an ECC error, a card or a field)
carries that event as an operand.
-/
set_option autoImplicit false

namespace Sys2Proof

/-- What executes an instruction: logical Sheave `l` of yard `y`, or Naris (R124). -/
inductive Exec where
  | sheave (y : Fin 64) (l : Fin 16)
  | naris
  deriving DecidableEq, Repr

/-- The condition field (Table 3.5); code 0b1111 selects the extended group and is no condition. -/
inductive Cond where
  | eq | mi | cs | vs | hi | ge | gt | ne | pl | cc | vc | ls | lt | le | al
  deriving DecidableEq, Repr

/-- The MC field of the extended group (R103); `m3` is the value 11. -/
inductive MC where
  | always | qm | qn | m3
  deriving DecidableEq, Repr

/-- An error that the executing Sheave's own checking detects in the instruction (Table 4.3, R135), or a fault that the yard's
GHASH unit or rill detects of itself while it serves the instruction (Table 4.4). -/
inductive Chk where
  | none | regDmr | aluResidue | iramParity | dramParity | ymemUe | ymemCe | unit
  deriving DecidableEq, Repr

/-- What the sequencer meets as it reads at egress: nothing, a corrected or an uncorrectable yard memory error (R135), or a fault
of its own (Table 4.4). -/
inductive SeqErr where
  | none | ce | ue | unit
  deriving DecidableEq, Repr

/-- What every conditional-group instruction carries: who executes it, its condition, the value of its reserved
bits (0 in an assigned encoding, R105), and an error its checking finds. -/
structure CHdr where
  ex   : Exec
  cond : Cond
  rsv  : BitVec 24
  chk  : Chk
  deriving DecidableEq, Repr

/-- What every extended-group instruction carries, with MC in place of the condition. -/
structure XHdr where
  ex  : Exec
  mc  : MC
  rsv : BitVec 24
  chk : Chk
  deriving DecidableEq, Repr

/-- The second operand of ADDA and SUBA (Table 3.7): an immediate or a data register. -/
inductive AOp where
  | imm (v : BitVec 12)
  | reg (r : Fin 16)
  deriving DecidableEq, Repr

/-- What a failed host read was for (R328). -/
inductive ReadTarget where
  | entry (ring : Fin 4096)
  | input (item : Nat)
  deriving DecidableEq, Repr

/-- What host software has written into the configuration registers of the endpoint when its link is up (Table 10.2): payload
and read request sizes, Relaxed Ordering, extended and 10-bit tags, the completion timeout, MSI-X Enable and Function Mask. -/
structure PcieCfg where
  mps        : Fin 3 := 0
  mrrs       : Fin 6 := 0
  relaxed    : Bool := false
  extTag     : Bool := false
  tenBitTag  : Bool := false
  timeout    : Fin 16 := 0
  timeoutOff : Bool := false
  msixEn     : Bool := false
  msixMask   : Bool := false
  deriving DecidableEq, Repr

/-- The bases that host software has written into the three BARs (R323). -/
structure PcieBars where
  bar0 : BitVec 64 := 0
  bar2 : BitVec 64 := 0
  bar4 : BitVec 64 := 0
  deriving DecidableEq, Repr

/-- A transfer between the dies: its direction (`up` toward the compute die), sequence number and bytes (R17). -/
structure DieTransfer where
  up   : Bool
  seq  : Word
  data : List Byte
  deriving DecidableEq, Repr

/-- The data of a register write: 4 B, or the two halves of an 8 B write (R324). -/
structure RegData where
  lo : Word
  hi : Option Word := none
  deriving DecidableEq, Repr

/-- Why the link to the host is lost (R329). -/
inductive LinkLoss where
  | busMasterOff | d3hot | linkDown
  deriving DecidableEq, Repr

/-- What a BNE or PU operation's checks find at its result time: nothing, a failed output check (R215, R245) with the
residue flags that stand set by physical lane (R216), an uncorrectable or a corrected memory error (R195, R227), or a state-check
failure of a logical Keccak core that serves a PU command, detected in a fabric cycle of the frame (R176, R226). -/
inductive BneFlt where
  | none | output (flags : BitVec 34) | ue | ce | keccak (core : Fin 64) (cyc : Nat)
  deriving DecidableEq, Repr

/-- The continuous health test that a cell fails (R410), or an estimator alarm (R411). -/
inductive CellTest where
  | rct | apt | est
  deriving DecidableEq, Repr

/-- An entry as the twin sends it: the attributes and counters of its head row and its material. -/
structure TwinEntry where
  alg     : Nat
  klen    : Nat
  usage   : Nat
  part    : Nat
  exportF : Nat
  persist : Bool
  packed  : Bool
  system  : Bool
  rows    : Nat
  kbits   : Nat
  pubexp  : Nat
  tr31    : List (BitVec 8)
  useLimit : Nat
  notAfter : Nat
  material : List (BitVec 8)
  deriving DecidableEq, Repr

/-- A write record of the twin (R395). -/
inductive MirrorRec where
  | create (handle : BitVec 32) (e : TwinEntry)
  | delete (handle : BitVec 32)
  | restrict (handle : BitVec 32) (usage limit notAfter : Nat)
  deriving DecidableEq, Repr

/-- The twin's configuration as RESYNC_CFG adopts it (R403): per partition its P_STATE, bit Q and resource fields, the slot
ownership and the class bindings. -/
structure TwinConfig where
  parts   : List (Nat × Nat × Bool × List Nat)
  owner   : List (Nat × Nat)
  binding : List (Nat × Nat)
  deriving DecidableEq, Repr, Inhabited

/-- A mirrored command of the twin (R397): a partition command with its resource fields, an ADMIT COMMIT with its
shadow tables, an export that ended. -/
inductive TwinCmd where
  | part (op : Fin 16) (p : Fin 256) (q : Bool) (res : List Nat)
  | commit (owner binding : List (Nat × Nat))
  | exported (p : Fin 256)
  deriving DecidableEq, Repr

/-- What the monitors of the always-on domain find in one evaluation cycle (R499, R502, R503). `sensors` bit `s` is
the condition of source `s` as its analogue monitor reports it, for the sources that are neither cases, loops,
temperatures nor VBAT; a temperature is in units of 0.25 °C; `drop` tells that VBAT fell below 2.0 V within 1 ms;
the rails are a rail code and its reading in mV. -/
structure TamperIn where
  cases   : BitVec 8
  sensors : BitVec 37
  tempSd  : Int
  tempCd  : Int
  vbat    : Fin 65536
  vhold   : Fin 65536
  drop    : Bool
  railCd  : BitVec 8 × BitVec 16
  railSd  : BitVec 8 × BitVec 16
  deriving DecidableEq, Repr

/-- A card as the port meets it at insertion (R522 to R528): which CMD8 it answers (0 none), the write-protect tab,
DAT_BUS_WIDTH of its SD_STATUS after ACMD6, bits [379:376] of the switch status of CMD6, whether VDD_CARD is 3.3 V, and the ATR it
gives in each class. -/
structure CardIn where
  cmd8   : Fin 3
  wp     : Bool
  busWidth : Fin 4
  hsFn   : Fin 16
  v33    : Bool
  atrB   : Option (List Byte)
  atrA   : Option (List Byte)
  deriving DecidableEq, Repr

/-- How the card port's part of a block write goes (R527). -/
inductive SdEnd where
  | done (busyMs : Nat)
  | removedBefore
  | removedAfter
  deriving DecidableEq, Repr

/-- A custodian APDU (Table 18.6). -/
inductive Apdu where
  | select | info | auth
  deriving DecidableEq, Repr

/-- A tag in the field of a reader scan (R531 to R533): its UID of 4, 7 or 10 bytes, whether its SAK shows
ISO/IEC 14443-4, and its answers to INFO and AUTH. -/
structure TagIn where
  uid  : List Byte
  iso4 : Bool
  info : List Byte
  auth : List Byte
  deriving DecidableEq, Repr

/-- One card of a COMP_WRITE (R543): the custodian named, the end of the write, whether the tab protects it, and
the block read back. -/
structure CompCard where
  custodian : Fin 256
  wp        : Bool
  done      : SdEnd
  back      : List Byte
  deriving DecidableEq, Repr

/-- The commands (spec/opcode_table.json). -/
inductive Instr where
  /-- `POWER_ON` -/ | powerOn
  /-- `DOMAIN_COLD_START` -/ | domainColdStart
  /-- `PERST_N_ASSERT` : its length in ns -/ | perstNAssert (ns : Nat)
  /-- `PERST_N_RELEASE` -/ | perstNRelease
  /-- `POWER_DOWN` -/ | powerDown
  /-- `MAIN_POWER_LOSS` -/ | mainPowerLoss
  /-- `MAIN_POWER_RETURN` -/ | mainPowerReturn
  /-- `FLASH_CONTROLLER_READY` -/ | flashControllerReady
  /-- `SEED_READY` -/ | seedReady
  /-- `DIE_LINK_REKEY` -/ | dieLinkRekey
  /-- `BOOT_KNOWN_ANSWER_TESTS` : the units that fail, as retirement kind and physical unit -/ | bootKnownAnswerTests (failed : List (Fin 16 × Fin 128))
  /-- `YARD_RILL_INSTANTIATE` -/ | yardRillInstantiate (y : Fin 64)
  /-- `SPRING_START_RETRY` : the cells that pass their startup test -/ | springStartRetry (pass : BitVec 10)
  /-- `BOOT_COMPLETE` : µs since the release of PERST_N -/ | bootComplete (us : Word)
  /-- `DIE_LINK_TRANSFER` : the transfer, and what the link flips -/ | dieLinkTransfer (x : DieTransfer) (err : List Byte)
  /-- `FRAME_TICK` -/ | frameTick
  /-- `SLOT_START` : slot `s` of yard `y` -/ | slotStart (y s : Fin 64)
  /-- `EGRESS_START` : what the sequencer meets as it reads (R135, R136) -/ | egressStart (y s : Fin 64) (err : SeqErr)
  /-- `HELD_COMPLETION_RELEASE` : the last acknowledgement for item `item` arrives -/ | heldCompletionRelease (item : Nat)
  /-- `AUDIT_FOLD` -/ | auditFold
  /-- `INT_CYCLE_MESSAGE` -/ | intCycleMessage
  /-- `MSIX_UNMASK` -/ | msixUnmask (v : Fin 2048)
  /-- `SQ_TAIL` : a write of `v` to doorbell slot `j` of partition `p` -/ | sqTail (p : Fin 256) (j : Fin 64) (v : Word)
  /-- `CQ_HEAD` -/ | cqHead (p : Fin 256) (j : Fin 64) (v : Word)
  /-- `REVOKE` -/ | revoke (p : Fin 256) (j : Fin 64) (v : Word)
  /-- `DB_UNASSIGNED` : a write at offset `off` of doorbell page `p` -/ | dbUnassigned (p : Fin 256) (off : Fin 4096)
  /-- `ENTRY_FETCH` -/ | entryFetch (ring : Fin 4096)
  /-- `ENTRY_ARRIVAL` : the dwords that the host's memory held at the entry -/ | entryArrival (ring : Fin 4096) (dw : Vector Word 16)
  /-- `INPUT_READ_COMPLETE` : the input bytes of item `item` -/ | inputReadComplete (item : Nat) (data : List Byte)
  /-- `HOST_READ_ERROR` -/ | hostReadError (tgt : ReadTarget)
  /-- `LINK_LOST` -/ | linkLost (cause : LinkLoss)
  /-- `LINK_UP` : the link as it trained, and the configuration and BARs that the host has written -/ | linkUp (width speed : Fin 16) (cfg : PcieCfg) (bars : PcieBars)
  /-- `BAR_UNSUPPORTED_ACCESS` -/ | barUnsupportedAccess (bar off size : Nat) (write : Bool)
  /-- `RING_CREATE` -/ | ringCreate
  /-- `RING_DELETE` -/ | ringDelete
  /-- `RING_STOP` -/ | ringStop
  /-- `RING_RESET` -/ | ringReset
  /-- `SETINT` -/ | setint
  /-- `HERR_FRAME_READ` : by the manager or by Naris -/ | herrFrameRead (byNaris : Bool)
  /-- `STAGE` -/ | stage (src : Fin 2)
  /-- `RIG_STAGE_DONE` -/ | rigStageDone
  /-- `ACTIVATE` -/ | activate (src : Fin 2)
  /-- `RIG_LOAD` -/ | rigLoad
  /-- `RIG_LOAD_DONE` -/ | rigLoadDone
  /-- `COMMIT` -/ | commit
  /-- `ADMIT_ENABLE` -/ | admitEnable (en : Bool)
  /-- `LOAD` -/ | load
  /-- `FSYNC_IN_EDGE` : `phase` is own tick minus the edge, in ns, before FSYNC_SKEW -/ | fsyncInEdge (phase : Int)
  /-- `ALIGN_LOST` : `twin` when the twin is declared lost -/ | alignLost (twin : Bool)
  /-- `TICK_STEP` -/ | tickStep
  /-- `ADD` -/ | add (h : CHdr) (f : Bool) (dd dn dm : Fin 16)
  /-- `ADDC` -/ | addc (h : CHdr) (f : Bool) (dd dn dm : Fin 16)
  /-- `SUB` -/ | sub (h : CHdr) (f : Bool) (dd dn dm : Fin 16)
  /-- `SUBC` -/ | subc (h : CHdr) (f : Bool) (dd dn dm : Fin 16)
  /-- `AND` -/ | and (h : CHdr) (f : Bool) (dd dn dm : Fin 16)
  /-- `OR` -/ | or (h : CHdr) (f : Bool) (dd dn dm : Fin 16)
  /-- `XOR` -/ | xor (h : CHdr) (f : Bool) (dd dn dm : Fin 16)
  /-- `ANDN` -/ | andn (h : CHdr) (f : Bool) (dd dn dm : Fin 16)
  /-- `NOT` -/ | not (h : CHdr) (f : Bool) (dd dm : Fin 16)
  /-- `MOV` -/ | mov (h : CHdr) (f : Bool) (dd dm : Fin 16)
  /-- `CMP` -/ | cmp (h : CHdr) (dn dm : Fin 16)
  /-- `TST` -/ | tst (h : CHdr) (dn dm : Fin 16)
  /-- `SHL` -/ | shl (h : CHdr) (f : Bool) (dd dn : Fin 16) (sh : Fin 32)
  /-- `SHR` -/ | shr (h : CHdr) (f : Bool) (dd dn : Fin 16) (sh : Fin 32)
  /-- `SAR` -/ | sar (h : CHdr) (f : Bool) (dd dn : Fin 16) (sh : Fin 32)
  /-- `ROR` -/ | ror (h : CHdr) (f : Bool) (dd dn : Fin 16) (sh : Fin 32)
  /-- `SHLV` -/ | shlv (h : CHdr) (f : Bool) (dd dn dm : Fin 16)
  /-- `SHRV` -/ | shrv (h : CHdr) (f : Bool) (dd dn dm : Fin 16)
  /-- `SARV` -/ | sarv (h : CHdr) (f : Bool) (dd dn dm : Fin 16)
  /-- `RORV` -/ | rorv (h : CHdr) (f : Bool) (dd dn dm : Fin 16)
  /-- `CLZ` -/ | clz (h : CHdr) (f : Bool) (dd dm : Fin 16)
  /-- `BSWAP` -/ | bswap (h : CHdr) (f : Bool) (dd dm : Fin 16)
  /-- `ADDI` -/ | addi (h : CHdr) (f : Bool) (dd dn : Fin 16) (imm : BitVec 12)
  /-- `SUBI` -/ | subi (h : CHdr) (f : Bool) (dd dn : Fin 16) (imm : BitVec 12)
  /-- `ANDI` -/ | andi (h : CHdr) (f : Bool) (dd dn : Fin 16) (imm : BitVec 12)
  /-- `ORI` -/ | ori (h : CHdr) (f : Bool) (dd dn : Fin 16) (imm : BitVec 12)
  /-- `XORI` -/ | xori (h : CHdr) (f : Bool) (dd dn : Fin 16) (imm : BitVec 12)
  /-- `CMPI` -/ | cmpi (h : CHdr) (dn : Fin 16) (imm : BitVec 12)
  /-- `TSTI` -/ | tsti (h : CHdr) (dn : Fin 16) (imm : BitVec 12)
  /-- `LDI` -/ | ldi (h : CHdr) (dd : Fin 16) (imm : BitVec 16)
  /-- `LDIH` -/ | ldih (h : CHdr) (dd : Fin 16) (imm : BitVec 16)
  /-- `LD` (LDH, LDB, LDH.S, LDB.S by SZ and SX) -/ | ld (h : CHdr) (sz : BitVec 2) (sx : Bool) (dt : Fin 16) (ab : Fin 8) (off : BitVec 12)
  /-- `ST` -/ | st (h : CHdr) (sz : BitVec 2) (dt : Fin 16) (ab : Fin 8) (off : BitVec 12)
  /-- `LDA` -/ | lda (h : CHdr) (at' ab : Fin 8) (off : BitVec 12)
  /-- `STA` -/ | sta (h : CHdr) (at' ab : Fin 8) (off : BitVec 12)
  /-- `LEA` -/ | lea (h : CHdr) (ad ab : Fin 8) (mode : BitVec 2) (imm : BitVec 16)
  /-- `ADDA` -/ | adda (h : CHdr) (ad src : Fin 8) (op : AOp)
  /-- `SUBA` -/ | suba (h : CHdr) (ad src : Fin 8) (op : AOp)
  /-- `MOVA` -/ | mova (h : CHdr) (ad : Fin 8) (dm : Fin 16)
  /-- `MOVD` -/ | movd (h : CHdr) (dd : Fin 16) (src : Fin 8)
  /-- `MUL` -/ | mul (h : CHdr) (dd dn dm : Fin 16)
  /-- `MULU` -/ | mulu (h : CHdr) (dd dn dm : Fin 16)
  /-- `MULS` -/ | muls (h : CHdr) (dd dn dm : Fin 16)
  /-- `MACU` -/ | macu (h : CHdr) (dd dn dm : Fin 16)
  /-- `TLI` -/ | tli (h : CHdr) (dd : Fin 16) (ab : Fin 8) (ds : Fin 16)
  /-- `QLD` -/ | qld (h : CHdr) (qt : Fin 4) (ab : Fin 8) (off : BitVec 12)
  /-- `QST` -/ | qst (h : CHdr) (qt : Fin 4) (ab : Fin 8) (off : BitVec 12)
  /-- `QCLR` -/ | qclr (h : CHdr) (qd : Fin 4)
  /-- `QMOV` -/ | qmov (h : CHdr) (qd qa : Fin 4)
  /-- `QXOR` -/ | qxor (h : CHdr) (qd qa qb : Fin 4)
  /-- `QEQ` -/ | qeq (h : CHdr) (qa qb : Fin 4) (lenM1 : Fin 16)
  /-- `QCMP` -/ | qcmp (h : CHdr) (qa qb : Fin 4)
  /-- `QINS` -/ | qins (h : CHdr) (qd : Fin 4) (dm : Fin 16) (lane : Fin 4)
  /-- `QEXT` -/ | qext (h : CHdr) (dd : Fin 16) (qa lane : Fin 4)
  /-- `B` -/ | b (h : CHdr) (off : BitVec 24)
  /-- `BL` -/ | bl (x : XHdr) (off : BitVec 22)
  /-- `B_QM` -/ | bqm (x : XHdr) (off : BitVec 22)
  /-- `BR` -/ | br (x : XHdr) (dm : Fin 16)
  /-- `BLR` -/ | blr (x : XHdr) (dm : Fin 16)
  /-- `QKEY` -/ | qkey (x : XHdr) (qd : Fin 4) (dh : Fin 16) (use : BitVec 4)
  /-- `PUTD` -/ | putd (x : XHdr) (dn : Fin 16) (ab : Fin 8) (off : BitVec 12)
  /-- `PUTQ` -/ | putq (x : XHdr) (qn : Fin 4) (ab : Fin 8) (off : BitVec 12)
  /-- `GETD` -/ | getd (x : XHdr) (dn : Fin 16) (ab : Fin 8) (off : BitVec 12)
  /-- `GETQ` -/ | getq (x : XHdr) (qn : Fin 4) (ab : Fin 8) (off : BitVec 12)
  /-- `POST` -/ | post (x : XHdr) (ds dl dr : Fin 16)
  /-- `CARRY` -/ | carry (x : XHdr)
  /-- `HALT` -/ | halt (x : XHdr)
  /-- `SRR` -/ | srr (x : XHdr) (dd : Fin 16) (sr : BitVec 8)
  /-- `SRW` -/ | srw (x : XHdr) (sr : BitVec 8) (ds : Fin 16)
  /-- `ERET` -/ | eret (x : XHdr)
  /-- `WFI` -/ | wfi (x : XHdr)
  /-- `SYNC` -/ | sync (x : XHdr)
  /-- `NARIS_INTERRUPT` -/ | narisInterrupt
  /-- `LOCKSTEP_MISMATCH` -/ | lockstepMismatch
  /-- `ENC` : PUTQ of `qn` to ENC of logical pair `u` -/ | enc (x : XHdr) (u : Fin 32) (qn : Fin 4)
  /-- `DEC` : PUTQ of `qn` to DEC of logical pair `u` -/ | dec (x : XHdr) (u : Fin 32) (qn : Fin 4)
  /-- `MAC_START` : PUTD of `dn` to MAC_START -/ | macStart (x : XHdr) (u : Fin 32) (dn : Fin 16)
  /-- `MAC_BLK` -/ | macBlk (x : XHdr) (u : Fin 32) (qn : Fin 4)
  /-- `MAC_LAST` -/ | macLast (x : XHdr) (u : Fin 32) (qn : Fin 4)
  /-- `MAC_LASTP` -/ | macLastp (x : XHdr) (u : Fin 32) (qn : Fin 4)
  /-- `CIPHER_RESULT` : the operation of logical pair `u` with the earliest result time reaches it; bit `i` of `bad` is a check-core mismatch of its block `i` (R159, R160) -/ | cipherResult (u : Fin 32) (bad : BitVec 2)
  /-- `PIN_FORMAT_GO` -/ | pinFormatGo (x : XHdr) (u : Fin 32) (dn : Fin 16)
  /-- `FINAL` : PUTD of `dn` to FINAL of a core; `sha2` selects the core kind -/ | hashFinal (x : XHdr) (sha2 : Bool) (u : Fin 64) (dn : Fin 16)
  /-- `HASH_RESULT` : `bad` is a state-check failure at that fabric cycle of the frame (R176) -/ | hashResult (sha2 : Bool) (u : Fin 64) (bad : Option Nat)
  /-- `INIT` -/ | ghInit (x : XHdr) (dn : Fin 16)
  /-- `X` -/ | ghX (x : XHdr) (qn : Fin 4)
  /-- `FOLD` -/ | ghFold (x : XHdr) (dn : Fin 16)
  /-- `CVU_CMP` -/ | cvuCmp (x : XHdr) (dn : Fin 16)
  /-- `RILL_BUFFER_REFILL` -/ | rillBufferRefill (y : Fin 64) (l : Fin 16)
  /-- `QKEY_RESULT` : the oldest QKEY request ends; `bad` when a row of it fails its CHECK (R263) -/ | qkeyResult (bad : Bool)
  /-- `ROW_RESTORE` -/ | rowRestore (row : Fin 131072)
  /-- `SCRUB_ROW` : `bad` when the row's CHECK fails -/ | scrubRow (bad : Bool)
  /-- `BNE_LOAD` -/ | bneLoad (x : XHdr) (dn : Fin 16)
  /-- `BNE_STORE` -/ | bneStore (x : XHdr) (dn : Fin 16)
  /-- `BNE_CLEAR` -/ | bneClear (x : XHdr) (dn : Fin 16)
  /-- `KLOAD` : `bad` is the row of the entry that fails its CHECK -/ | kload (x : XHdr) (dn : Fin 16) (bad : Option (Fin 32))
  /-- `KSTORE_SLOTS` -/ | kstoreSlots (x : XHdr) (dn : Fin 16)
  /-- `KSTORE_IMPORT` -/ | kstoreImport (x : XHdr) (dn : Fin 16)
  /-- `KSTORE_GENERATE` -/ | kstoreGenerate (x : XHdr) (dn : Fin 16)
  /-- `KSTORE_PUBLIC` -/ | kstorePublic (x : XHdr) (dn : Fin 16)
  /-- `KSTORE_DELETE` -/ | kstoreDelete (x : XHdr) (dn : Fin 16)
  /-- `KSTORE_RESTRICT` -/ | kstoreRestrict (x : XHdr) (dn : Fin 16)
  /-- `MODADD` -/ | modadd (x : XHdr) (dn : Fin 16)
  /-- `MODSUB` -/ | modsub (x : XHdr) (dn : Fin 16)
  /-- `MODMUL` -/ | modmul (x : XHdr) (dn : Fin 16)
  /-- `MODINV` -/ | modinv (x : XHdr) (dn : Fin 16)
  /-- `MODEXP` -/ | modexp (x : XHdr) (dn : Fin 16)
  /-- `RSA_PUB` -/ | rsaPub (x : XHdr) (dn : Fin 16)
  /-- `RSA_HALF` -/ | rsaHalf (x : XHdr) (dn : Fin 16)
  /-- `RSA_FINISH` -/ | rsaFinish (x : XHdr) (dn : Fin 16)
  /-- `EC_KEYGEN` -/ | ecKeygen (x : XHdr) (dn : Fin 16)
  /-- `ECDSA_SIGN` -/ | ecdsaSign (x : XHdr) (dn : Fin 16)
  /-- `ECDSA_VERIFY` -/ | ecdsaVerify (x : XHdr) (dn : Fin 16)
  /-- `ECDH` -/ | ecdh (x : XHdr) (dn : Fin 16)
  /-- `EC_PUBCHK` -/ | ecPubchk (x : XHdr) (dn : Fin 16)
  /-- `ED_KEYGEN` -/ | edKeygen (x : XHdr) (dn : Fin 16)
  /-- `ED_SIGN` -/ | edSign (x : XHdr) (dn : Fin 16)
  /-- `ED_VERIFY` -/ | edVerify (x : XHdr) (dn : Fin 16)
  /-- `X_KEYGEN` -/ | xKeygen (x : XHdr) (dn : Fin 16)
  /-- `X25519` -/ | x25519 (x : XHdr) (dn : Fin 16)
  /-- `PKLOAD` : `bad` as in KLOAD -/ | pkload (x : XHdr) (dn : Fin 16) (bad : Option (Fin 32))
  /-- `PKSTORE` -/ | pkstore (x : XHdr) (dn : Fin 16)
  /-- `PCLEAR` -/ | pclear (x : XHdr) (dn : Fin 16)
  /-- `MLDSA_KEYGEN` -/ | mldsaKeygen (x : XHdr) (dn : Fin 16)
  /-- `MLDSA_SIGN` -/ | mldsaSign (x : XHdr) (dn : Fin 16)
  /-- `MLDSA_SIGN_CONT` -/ | mldsaSignCont (x : XHdr) (dn : Fin 16)
  /-- `MLDSA_VERIFY` -/ | mldsaVerify (x : XHdr) (dn : Fin 16)
  /-- `MLKEM_KEYGEN` -/ | mlkemKeygen (x : XHdr) (dn : Fin 16)
  /-- `MLKEM_ENCAPS` -/ | mlkemEncaps (x : XHdr) (dn : Fin 16)
  /-- `MLKEM_DECAPS` -/ | mlkemDecaps (x : XHdr) (dn : Fin 16)
  /-- `BNE_RESULT` : the oldest BNE or PU operation of logical Sheave `l` of yard `y` reaches its result time; `flt` is what its output check or memory check finds -/ | bneResult (y : Fin 64) (l : Fin 16) (flt : BneFlt)
  /-- `STALE_RESULT_DISCARD` : a result of a unit reaches the sequencer of yard `y` under an old tag -/ | staleResultDiscard (y : Fin 64)
  /-- `OPM_READ` -/ | opmRead
  /-- `OPM_READ_DONE` -/ | opmReadDone
  /-- `AGING_MEASURE` : the margin read at physical Sheave `p` of yard `y`, in ps -/ | agingMeasure (y : Fin 64) (p : Fin 17) (ps : Fin 1023)
  /-- `SWAP` -/ | swap (y : Fin 64) (l : Fin 16) (retire : Bool)
  /-- `SWAP_CANCEL` -/ | swapCancel (y : Fin 64)
  /-- `POOL_RETIRE` : KIND and LUNIT as written -/ | poolRetire (kind : Fin 16) (unit : Fin 128)
  /-- `POOL_CANCEL` -/ | poolCancel (kind : Fin 16) (unit : Fin 128)
  /-- `PRELOAD_DONE` -/ | preloadDone (y : Fin 64)
  /-- `INSPECT` -/ | inspect
  /-- `CLEAT_DELETE` -/ | cleatDelete
  /-- `CLEAT_RESTRICT` -/ | cleatRestrict
  /-- `FLUSH` -/ | flush
  /-- `VAULT_SECTOR_PROGRAM` -/ | vaultSectorProgram
  /-- `VAULT_READBACK` : `ok` is false when the read-back fails -/ | vaultReadback (ok : Bool)
  /-- `VAULT_RELOAD` -/ | vaultReload
  /-- `PART_CREATE` : `q` is bit Q of PART_CMD -/ | partCreate (q : Bool)
  /-- `QUIESCE` -/ | quiesce
  /-- `RESUME` -/ | resume
  /-- `PART_RESET` -/ | partReset
  /-- `DESTROY` -/ | destroy
  /-- `DIRTY_START` -/ | dirtyStart
  /-- `DIRTY_SWAP` -/ | dirtySwap
  /-- `DIRTY_SYNC` -/ | dirtySync
  /-- `DIRTY_STOP` -/ | dirtyStop
  /-- `DIRTY_MERGE` : one word of the merge; `old` is what the host's bitmap word holds -/ | dirtyMerge (old : BitVec 64)
  /-- `EXPORT` : `hostOk` is false where a host write of the blob fails -/ | exportBlob (hostOk : Bool)
  /-- `IMPORT` : the bytes read from BLOB_ADDR, or none where a read fails -/ | importBlob (blob : Option (List Byte))
  /-- `STAY_ENABLE` -/ | stayEnable (en : Bool)
  /-- `LINK_TRAIN` : lanes that trained at each rate, the twin's limits, protocol versions and the latency in ns -/ | linkTrain (fast slow : Fin 16) (twinLanes twinRate : Fin 4) (versions : List Nat) (lat : Fin 65536)
  /-- `LINK_RETRAIN` : the lanes that trained at each rate, the latency in ns, and the number that the receiver expects -/ | linkRetrain (fast slow : Fin 16) (lat : Fin 65536) (expect : Word)
  /-- `HELLO` : fingerprint, rig hash and the whole frame as received -/ | hello (fp rig frame : List Byte)
  /-- `KEM` : ek or c as received, and the whole frame -/ | kem (body frame : List Byte)
  /-- `AUTH` : the bytes of the certificate and its signature, the signature over the transcript, and the twin's configuration digest and mode -/ | auth (cert certSig sig digest : List Byte) (mode : Fin 16)
  /-- `PAIRING_RETRY` -/ | pairingRetry
  /-- `LINK_FRAME_RX` : a frame with its header fields its CRC and tag as found; `rej` where NAK refuses the mirrored write before ACK_SEQ (R396) -/ | linkFrameRx (typ : Fin 16) (seq ackSeq : Word) (nak rej crcOk tagOk : Bool)
  /-- `ACK` -/ | ack
  /-- `HEARTBEAT` -/ | heartbeat
  /-- `HEARTBEAT_RX` : the frame it closes, the twin's digest, DEPART, and the fabric cycle of its arrival -/ | heartbeatRx (frame : Nat) (digest : List Byte) (depart : Bool) (cyc : Nat)
  /-- `HEARTBEAT_MISS` -/ | heartbeatMiss
  /-- `TWIN_LOST` -/ | twinLost
  /-- `CLEAT_WR` : one write record of a message, and its frame's SEQ -/ | cleatWr (rec : MirrorRec) (seq : Word)
  /-- `CONFIG` : a mirrored command of the twin, accepted in frame `m` -/ | config (m : Nat) (cmd : TwinCmd)
  /-- `RIG` : the twin's rig hash and proposed TAKE_FRAME -/ | rig (hash : List Byte) (take : Nat)
  /-- `CPL_REC` -/ | cplRec (ring : Fin 4096) (part : Fin 256) (status : Fin 256) (seq frame : Word) (flags : Fin 8)
  /-- `HEAD` -/ | head (part : Fin 256) (headFrame : Nat) (h : List Byte)
  /-- `RESYNC` : the twin's summary and row for one logical row -/ | resync (row : Fin 131072) (gen : Fin 32768) (e : Option TwinEntry)
  /-- `RESYNC_DONE` -/ | resyncDone
  /-- `RETRAIN` -/ | retrain
  /-- `RESYNC_CFG` -/ | resyncCfg (c : TwinConfig)
  /-- `DUP_CLEAR` -/ | dupClear
  /-- `DUP_HOLD_EXPIRY` -/ | dupHoldExpiry
  /-- `CELL_FAIL` : cell and failing test -/ | cellFail (c : Fin 10) (test : CellTest)
  /-- `ESTIMATOR_WINDOW` : ones and adjacent pairs of ones in the window of cell `c` -/ | estimatorWindow (c : Fin 10) (n1 n11 : Fin 65537)
  /-- `CONDITIONING_CALL` : `ok` false where the conditioner's state check fails; `spoiled` where a cell failed during the collection -/ | conditioningCall (ok spoiled : Bool)
  /-- `SUSPENDED_CELL_TEST` -/ | suspendedCellTest (c : Fin 10) (pass : Bool)
  /-- `HEALTH_CLEAR` -/ | healthClear
  /-- `HEALTH_FAIL_TIMEOUT` -/ | healthFailTimeout
  /-- `RILL_RESEED` -/ | rillReseed (r : Fin 324)
  /-- `SEED_ARRIVAL` -/ | seedArrival (r : Fin 324)
  /-- `RILL_REFUSING` -/ | rillRefusing (r : Fin 324)
  /-- `TESTPAT_EN` -/ | testpatEn (en : Bool) (pattern : Fin 65536)
  /-- `ART_COMMIT` -/ | artCommit
  /-- `ERR_FRAME_READ` -/ | errFrameRead (byNaris : Bool)
  /-- `HGO` : GO of CVU instance `h` -/ | hgo (h : Fin 16)
  /-- `HOST_CVU_DONE` : the bytes read, or none where a read fails -/ | hostCvuDone (h : Fin 16) (data : Option (List Byte))
  /-- `FLASH_READ` : `ue` and `ce` are the first unit with an uncorrectable and with a corrected error -/ | flashRead (byNaris : Bool) (ue ce : Option Nat)
  /-- `PROGRAM` -/ | program (byNaris : Bool)
  /-- `ERASE` : `jfail` where the ERASE_BEGIN record cannot be written -/ | erase (byNaris : Bool) (jfail : Bool)
  /-- `FLASH_CHECK` -/ | flashCheck (byNaris : Bool)
  /-- `REMAP` -/ | remap (byNaris : Bool)
  /-- `FLASH_OP_DONE` : the operation ends after `us` µs -/ | flashOpDone (us : Fin 65536)
  /-- `ROM_FLASH_SERVICE` -/ | romFlashService
  /-- `OPTION_GENERATION_WRITE` : `ok` false where the read-back fails -/ | optionGenerationWrite (ok : Bool)
  /-- `MODE_REQ` -/ | modeReq (m : Fin 16)
  /-- `MODE_CHANGE` -/ | modeChange
  /-- `MODE_CHANGE_WIPE` -/ | modeChangeWipe
  /-- `RESET` : a write of `v` to RESET of the GLOBAL page -/ | reset (v : Word)
  /-- `RECOVERY_WINDOW_END` -/ | recoveryWindowEnd
  /-- `FW_STAGE` -/ | fwStage (src : Fin 2)
  /-- `FW_ACTIVATE` -/ | fwActivate (src : Fin 2)
  /-- `CONFIRM` -/ | confirm
  /-- `RAISE_FW` -/ | raiseFw
  /-- `RAISE_RIG` -/ | raiseRig
  /-- `ATTEST` : the bits of ATT_CMD beside GO -/ | attest (kemExt term : Bool)
  /-- `TAMPER_EVAL` -/ | tamperEval (t : TamperIn)
  /-- `LOOP_SAMPLE` : loop `n` senses level `b` -/ | loopSample (n : Fin 16) (b : Bool)
  /-- `BANK_ERASE_AFTER_CLEAR` -/ | bankEraseAfterClear
  /-- `APPLY` -/ | applyPolicy
  /-- `TEST_GO` : the source as written -/ | testGo (src : Fin 64)
  /-- `TEST_END` : whether the monitor asserted -/ | testEnd (pass : Bool)
  /-- `SET` -/ | rtcSet
  /-- `XTAL32_START` -/ | xtal32Start
  /-- `WITNESS_RECORD_WRITE` -/ | witnessRecordWrite
  /-- `CARD_INSERT` -/ | cardInsert (c : CardIn)
  /-- `CARD_REMOVE` -/ | cardRemove
  /-- `SD_BLOCK_READ` : block, CRC errors met, ms taken, the block's bytes, and where in Naris RAM they go -/ | sdBlockRead (blk : Word) (crcErrs ms : Nat) (data : List Byte) (buf : Fin 262144)
  /-- `SD_BLOCK_WRITE` : block, the tab, CRC errors met, where in Naris RAM its bytes stand, and how the write ends -/ | sdBlockWrite (blk : Word) (wp : Bool) (crcErrs : Nat) (buf : Fin 262144) (e : SdEnd)
  /-- `ICC_ACTIVATION` : the ATR in class B and in class A, and the repetitions of its worst character -/ | iccActivation (atrB atrA : Option (List Byte)) (reps : Nat)
  /-- `APDU_EXCHANGE` : the APDU, the response with SW, and the repetitions of its worst character -/ | apduExchange (cmd : Apdu) (resp : List Byte) (reps : Nat)
  /-- `OPEN` -/ | qOpen
  /-- `CLOSE` -/ | qClose
  /-- `SCAN` : the tags that the field reaches -/ | scan (tags : List TagIn)
  /-- `QUORUM_TIMEOUT` -/ | quorumTimeout
  /-- `CUSTODIANS` -/ | custodians
  /-- `RIG_KEY` -/ | rigKey
  /-- `MEMBERS` -/ | members
  /-- `DOMAIN_GEN` -/ | domainGen
  /-- `DOMAIN_IMPORT` -/ | domainImport
  /-- `DOMAIN_EXPORT` -/ | domainExport
  /-- `COMP_WRITE` : the cards in the order of their insertion -/ | compWrite (cards : List CompCard)
  /-- `COMP_LOAD` : the blocks read, in the order of the cards' insertion -/ | compLoad (blocks : List (List Byte))
  /-- `CER_COMMIT` -/ | cerCommit
  /-- `ABANDON` -/ | abandon
  /-- `FIELD_ON` : the field strength in mA/m -/ | fieldOn (ma : Fin 65536)
  /-- `WREAD` -/ | wread (blk : Fin 65536) (crcOk : Bool)
  /-- `WSTAMP` : the field strength and VBAT at the end bit -/ | wstamp (blk : Fin 65536) (data : Vector Byte 16) (ma vbat : Fin 65536) (crcOk : Bool)
  /-- `HLTA` -/ | hlta
  /-- `HOST_BUSY_RETRY` : whether the retry wins the arbiter -/ | hostBusyRetry (won : Bool)
  /-- `LATCHED_LO_READ` : a read of the _LO register at BAR0 offset `off` -/ | latchedLoRead (byNaris : Bool) (off : Fin 1048576)
  /-- `INT_FORCE` : a write of `v` to INT_FORCE of the page or yard block at BAR0 offset `blk` × 256 -/ | intForce (blk : Fin 4096) (v : Word)
  /-- `LOCK` : a write of `v` to LOCK of that block -/ | lockPage (blk : Fin 4096) (v : Word)
  /-- `REGISTER_WRITE` : a write to offset `off` of BAR0, BAR2 or BAR4 -/ | registerWrite (byNaris : Bool) (bar : Fin 6) (off : Nat) (v : RegData)
  /-- `FIELD_LOSS` : whether the 5 ms after it stay without a field -/ | fieldLoss (quiet : Bool)
  /-- `REQA` : WUPA where `wupa` -/ | picReqa (wupa : Bool)
  /-- `ANTICOLLISION` : the UID bits known to the reader, in transmission order -/ | picAnticoll (known : List Bool)
  /-- `SELECT` : the UID and BCC sent, and whether CRC_A matches -/ | picSelect (uid : List Byte) (crcOk : Bool)
  /-- `FLT_FRAME_READ` -/ | fltFrameRead (byNaris : Bool)
  /-- `RTC_SEC_READ` -/ | rtcSecRead (byNaris : Bool)
  /-- `READER_FIELD_TIMEOUT` -/ | readerFieldTimeout
  deriving DecidableEq, Repr

end Sys2Proof
end

