-- ==== Sys2Proof/Config.lean ====
section
/-!
DEFINITION. What an implementation fixes and what the spec leaves open: opaque constants with no body, so that no proof
can see a value. Every draw of randomness is one of these applied to a counter of the state (notes/assumptions/5.md).
-/
set_option autoImplicit false

namespace Sys2Proof.Config

/-- Byte `i` of the `n`-th random draw (rills, the storage-die sampler, R409 to R416). -/
opaque randByte (n i : Nat) : Byte

/-- The `n`-th value that the spec leaves open, as a number. -/
opaque freeNat (n : Nat) : Nat

/-- The `n`-th value that the spec leaves open, as a word. -/
opaque freeWord (n : Nat) : Word

/-! What the outside answers to a command that is sent as a write of its register (notes/assumptions/38.md): the host to the write
and to the read of a blob, the twin with its configuration, the tokens in the field, and the cards of a component set. -/

/-- Whether the host takes the blob of the `n`-th such EXPORT. -/
opaque hostTakes (n : Nat) : Bool

/-- The blob that the host gives, or none where the read fails. -/
opaque hostBlob (n : Nat) : Option (List Byte)

/-- The configuration that the twin sends. -/
opaque twinConfig (n : Nat) : TwinConfig

/-- The tags that the field reaches. -/
opaque fieldTags (n : Nat) : List TagIn

/-- The cards that the custodians insert to take their components. -/
opaque writtenCards (n : Nat) : List CompCard

/-- The blocks of the cards that the custodians insert to give their components. -/
opaque cardBlocks (n : Nat) : List (List Byte)

/-- The boot ROM's bytes. -/
opaque romByte (a : Nat) : Byte

/-- Fused link secret (R16). -/
opaque linkSecret : List Byte

/-- Fused device secret (R249, R278). -/
opaque deviceSecret : List Byte

/-- The Yunacor firmware public key, whose SHA3-256 is fused (R482). -/
opaque firmwareKey : List Byte

/-- The seed of the device identity key (R249, R469). -/
opaque identitySeed : List Byte

/-- The certificate of the identity key. -/
opaque identityCert : List Byte

/-- The wrapped identity seed as the identity area holds it (R249, R469). -/
opaque wrappedSeed : List Byte

/-- The bit of CHECKS of a service whose only check the spec gives no bit (R291): its service number. -/
opaque checkBit : Nat → Nat

/-- The key length that KB_UNWRAP takes from a clear field whose length does not fit it (R307). -/
opaque unwrapLen : List (BitVec 8) → Nat

/-- The authorization response code that the ARPC of AUTHORIZE covers, from the response code table and the outcomes of MAC and
ARQC, which stand at step 3 (R319). -/
opaque arpcCode : List (List (BitVec 8)) → Bool → Bool → List (BitVec 8)

/-- What a map register shows for a logical unit that is void, from 2^width of its field and the logical number. The spec states
no value
(R492, Table 4.5). -/
opaque voidMap : Nat → Nat → Nat

/-- The firmware image A that the device is shipped with, its hash, version and entry. -/
opaque shippedImage : List Byte

/-- Hash of the shipped image (R482). -/
opaque shippedHash : List Byte

/-- FW_VERSION of the shipped image. -/
opaque shippedVersion : Nat

/-- ENTRY of the shipped image. -/
opaque shippedEntry : Nat

/-- The microprograms of a section of type 5 or 6 of a rig image, as a walk of its bytes finds them (R39, R44): the spec gives no
layout of these sections (notes/assumptions/67.md). -/
opaque microprograms (kind : Nat) (content : List Byte) : List (List Byte)

/-- Yunacor's certification public key (R248). -/
opaque certRoot : List Byte

/-- The identity key that the signed bytes of an identity certificate hold. The spec gives no layout of them
(notes/assumptions/79.md). -/
opaque certKey (cert : List Byte) : List Byte

/-- The vault engine's inverse check holds at draw `k`: what a fault of the engine leaves is a free value (R278,
notes/assumptions/83.md). -/
opaque vaultEngineOk (k : Nat) : Bool

/-- The identity key whose fingerprint a domain member has; the spec does not say how a device comes by it (R377). -/
opaque memberKey (fp : List Byte) : List Byte

/-- The key of a blob's body, derived from the domain key; the derivation is not given (R376, R406). -/
opaque blobKey (domain : List Byte) : List Byte

end Sys2Proof.Config

namespace Sys2Proof

/-- `n` bytes of random draw `k`. -/
def randBytes (k n : Nat) : List Byte := (List.range n).map fun i => Config.randByte k i

end Sys2Proof
end

