-- ==== Sys2Proof/Machine/State.lean ====
section
/-!
DEFINITION. The state of the block: every piece of state the spec names (INVENTORY.md, State), as plain data.
Tables are sparse maps in canonical form (`SMap`). `free` and `outbound` are the model's own fields
(notes/assumptions/5.md, notes/assumptions/6.md).
-/
set_option autoImplicit false

namespace Sys2Proof.Machine

/-! ### Reasons to stop -/

/-- No command of the block faults: a block has no exception entry and every event has an effect. -/
inductive Fault where
  /-- Raised by no command of this model. Safe: the machine would stop. -/
  | none
  deriving DecidableEq, Repr

/-- The only refusal there is room for. -/
inductive Refusal where
  /-- A command without a meaning, named by its mnemonic. Safe: the machine stops there. -/
  | notModelled (mnemonic : String)
  deriving DecidableEq, Repr

/-! ### Registers of the pages -/

/-- The access types of Table 0.6. -/
inductive Access where
  | ro | rw | rwl | w1c | wo
  deriving DecidableEq, Repr

/-- One register field: BAR0 offset, lowest bit, width, reset value, access type. -/
structure Field where
  off   : Nat
  lo    : Nat
  width : Nat
  reset : Nat
  acc   : Access
  deriving DecidableEq, Repr

/-- The common header of one page or yard block (Table 20.2). `detail` is STATE[31:4]. -/
structure Hdr where
  enable  : Bool := false
  st      : Nat := 0
  detail  : Nat := 0
  intStat : Nat := 0
  intEn   : Nat := 0
  errCode : Nat := 0
  errInfo : Nat := 0
  lock    : Bool := false
  deriving DecidableEq, Repr

/-! ### Sheaves (R87 to R124) -/

/-- Where a derived key in an accumulator came from (R158). -/
structure Origin where
  pair   : Nat
  serial : Nat
  tdes   : Bool
  deriving DecidableEq, Repr

/-- The algorithm of a key that an accumulator holds (R97, R117). -/
inductive KAlg where
  | none | aes | tdes | hmac
  deriving DecidableEq, Repr

/-- An accumulator: value, attributes, and the key state that KEY brings (R97). `usage` is the usage code, or
none where no port accepts the key. -/
structure Acc where
  val    : Quad := 0
  ext    : Quad := 0
  sealed : Bool := false
  key    : Bool := false
  alg    : KAlg := .none
  len    : Nat := 0
  usage  : Option Nat := none
  org    : Option Origin := none
  deriving DecidableEq, Repr

/-- The flags (Table 3.3). -/
structure Flags where
  n : Bool := false
  z : Bool := false
  c : Bool := false
  v : Bool := false
  m : Bool := false
  deriving DecidableEq, Repr

/-- One register write. A flag write names the flags it changes. -/
inductive RegWrite where
  | d (r : Fin 16) (v : Word)
  | a (r : Fin 8) (v : Word)
  | q (r : Fin 4) (v : Acc)
  | qclr (r : Fin 4)
  | fl (n z c v m : Option Bool)
  deriving DecidableEq, Repr

/-- A register write that falls due in a later cycle (R108). -/
structure PendWrite where
  due : Nat
  w   : RegWrite
  deriving DecidableEq, Repr

/-- The registers of one executor. `cyc` is the Sheave cycle, counted from the tick, in which the next instruction
issues; `pend` holds the delayed writes in due order. -/
structure Cpu where
  pc   : Word := 0
  cyc  : Nat := 0
  a    : Vector Word 8 := Vector.replicate 8 0
  d    : Vector Word 16 := Vector.replicate 16 0
  q    : Vector Acc 4 := Vector.replicate 4 {}
  fl   : Flags := {}
  pend : List PendWrite := []
  deriving DecidableEq, Repr

/-- Whether a logical Sheave runs, and why not. -/
inductive RunState where
  | idle | running | halted | carried | faulted
  deriving DecidableEq, Repr

/-- A check value: its fabric result time, width, and whether sealed input was absorbed. -/
structure CvuOut where
  r   : Nat
  val : Nat
  w   : Nat
  sec : Bool
  deriving DecidableEq, Repr

/-- Result registers that a delivered result writes, from the Sheave cycle in which it is readable (R114). -/
structure PortDue where
  cyc : Nat
  q   : List (Nat × Acc)
  w   : List (Nat × Word)
  deriving DecidableEq, Repr

/-- The port interface of one logical Sheave (R112, R584): staged and result registers by their offset in the
port window, words and accumulators. A listed `dataq` is staged and not yet absorbed (R585). -/
structure PortIf where
  w     : SMap Word := []
  q     : SMap Acc := []
  dataq : Option Acc := none
  /-- Delivered results in the order of their delivery, those not yet readable included. -/
  due   : List PortDue := []
  /-- The results of the CVU's FOLDs, newest first (R585). -/
  cvu    : List CvuOut := []
  /-- The GHASH Y states (R128), newest first, with their fabric result times, and the Sheave cycle of the last X
  (Table 3.12). -/
  gh     : List (Nat × Quad) := []
  ghLast : Option Nat := none
  deriving DecidableEq, Repr

/-- One logical Sheave. `slot` and `item` name what it runs; `stop` is the Sheave cycle at which the EGRESS window
of the slot starts. -/
structure Sheave where
  run  : RunState := .idle
  cpu  : Cpu := {}
  slot : Nat := 0
  item : Nat := 0
  stop : Nat := 0
  port : PortIf := {}
  deriving DecidableEq, Repr

/-- Where a load of Naris puts what it reads. -/
inductive LoadTo where
  | d (r : Fin 16) (sx : Bool)
  | a (r : Fin 8)
  | q (r : Fin 4)
  deriving DecidableEq, Repr

/-- Naris: the registers, the system registers of Table 3.16, and whether it waits (R124). -/
structure NarisSt where
  cpu     : Cpu := {}
  status  : Nat := 0
  epc     : Word := 0
  cause   : Word := 0
  vbase   : Word := 0x100
  nwin    : Nat := 0
  waiting : Bool := false
  /-- A load of a flash bank under program or erase, which waits until the operation ends (R452): flash address, size, target. -/
  load    : Option (Nat × Nat × LoadTo) := none
  /-- Cycles that waits and memory accesses have taken beside those that `cpu.cyc` counts; `lag` tells that some have passed
  since SR_CYCLE was read last (notes/assumptions/73.md). -/
  spent   : Nat := 0
  lag     : Bool := false
  /-- A pending interrupt that NARIS_INTERRUPT has not yet taken. -/
  irq     : Bool := false
  deriving DecidableEq, Repr

/-! ### Unit results in flight (R113 to R115, R150) -/

/-- The units whose results arrive by a command of their own. -/
inductive UnitKind where
  | cipher | keccak | sha2 | cleat | bne | pu
  deriving DecidableEq, Repr

/-- What the sequencer tags a port grant with (R150), and whom the result serves. -/
structure Tag where
  y     : Nat := 0
  l     : Nat := 0
  slot  : Nat := 0
  gen   : Nat := 0
  epoch : Nat := 0
  item  : Nat := 0
  part  : Nat := 0
  cls   : Nat := 0
  deriving DecidableEq, Repr

/-- A write to an operand slot at the result time of a BNE command (R192). -/
structure SlotOut where
  slot : Nat
  val  : Nat
  sec  : Bool
  link : Option Nat
  deriving DecidableEq, Repr

/-- A write of bytes into yard memory at the result time. -/
structure BufOut where
  addr  : Nat
  bytes : List Byte
  deriving DecidableEq, Repr

/-- A KSTORE or PKSTORE that runs (R266, R270): KMODE, template, material, HANDLE, buffer offset of its output, whether
the conditions of Table 8.6 hold, and whether its draw was refused. -/
structure KReq where
  mode   : Nat
  tmpl   : List Byte
  mat    : List Byte
  handle : Nat
  out    : Nat
  ok     : Bool
  rng    : Bool
  deriving DecidableEq, Repr

/-- What a PU cluster holds for an item (R230). -/
inductive PuHeld where
  | none
  | mldsaSeed (xi tr : List Byte)
  | mldsaPub (pk : List Byte)
  | mlkemSeed (dz : List Byte)
  | mlkemK (k : List Byte)
  | sign (xi tr mu rnd : List Byte) (iter : Nat)
  deriving DecidableEq, Repr

/-- A unit operation that has started and whose result has not been delivered. -/
structure Flight where
  kind   : UnitKind
  logic  : Nat
  phys   : List Nat := []
  tag    : Tag
  start  : Nat
  stop   : Nat
  r      : Nat
  /-- Port registers that the result writes. -/
  q      : List (Nat × Acc) := []
  w      : List (Nat × Word) := []
  /-- Accumulator that a QKEY fills. -/
  qd     : Option (Fin 4 × Acc) := none
  /-- Status codes that the result reports (R118). -/
  latch  : List Nat := []
  /-- Start times of the blocks of a cipher operation (R115). -/
  starts : List Nat := []
  /-- Local address and length of the message of a hash (R172). -/
  src    : Option (Nat × Nat) := none
  /-- BNE and PU results: operand slots, buffer bytes, status code. -/
  slots  : List SlotOut := []
  bufs   : List BufOut := []
  code   : Nat := 0
  kreq   : Option KReq := none
  /-- The held state that a PU result leaves (R230). -/
  held   : Option PuHeld := none
  /-- What the result time evaluates: the handle and USE of a QKEY. -/
  args   : List Nat := []
  deriving DecidableEq, Repr

/-- An open MAC chain of one slot on one pair (R164, R165). -/
structure MacChain where
  mode : Nat
  key  : Acc
  cv   : List Byte
  k1   : List Byte
  k2   : List Byte
  /-- Opened in a way that R165 lists: every operation of the chain reports it. -/
  bad  : Bool
  /-- An operation under another key, or one without masks, has left no value to go on with (R163, R165). -/
  spoilt : Bool
  deriving DecidableEq, Repr

/-! ### Yards and spares (R125 to R154) -/

/-- A requested Sheave swap (Table 4.6, SWAP_STAT). -/
structure Swap where
  pending   : Bool := false
  preloaded : Bool := false
  auto      : Bool := false
  retire    : Bool := false
  lsheave   : Nat := 0
  frm       : Nat := 0
  dst        : Nat := 0
  cause     : Nat := 0
  deriving DecidableEq, Repr

/-- One yard. `map` lists the physical Sheaves of logical 0 to 15 where they differ from the reset map; `aging` is the tick and the
Sheave of the last measurement (R138). -/
structure Yard where
  map     : SMap Nat := []
  spare   : Option Nat := some 16
  retired : List Nat := []
  gen     : Nat := 0
  swap    : Swap := {}
  waiting : List Nat := []
  faultFrames : SMap (List Nat) := []
  ueFrames : List Nat := []
  aging   : Option (Nat × Nat) := none
  deriving DecidableEq, Repr

/-- A requested pool-unit swap (Table 4.8, POOL_STAT). -/
structure PoolSwap where
  pending : Bool := false
  blocking : Bool := false
  auto    : Bool := false
  lunit   : Nat := 0
  frm     : Nat := 0
  dst      : Nat := 0
  cause   : Nat := 0
  deriving DecidableEq, Repr

/-- One pool of Table 2.9 kinds 0 to 3. -/
structure Pool where
  map     : SMap Nat := []
  spares  : List Nat := []
  retired : List Nat := []
  swap    : PoolSwap := {}
  waiting : List Nat := []
  faultFrames : SMap (List Nat) := []
  deriving DecidableEq, Repr
/-! ### The rig (R38 to R51) -/

/-- A reservation record (Table 2.8). -/
structure Resv where
  kind    : Nat
  first   : Nat
  countM1 : Nat
  start   : Nat
  stop    : Nat
  deriving DecidableEq, Repr

/-- A valid slot map entry (Table 2.7) with its reservation records. -/
structure SlotEnt where
  lsheave : Nat
  cls     : Nat
  start   : Nat
  stop    : Nat
  bufA    : Nat
  bufB    : Nat
  resv    : List Resv
  deriving DecidableEq, Repr

/-- A class table entry whose PRESENT bit is 1 (Table 2.6). -/
structure ClassEnt where
  carry  : Bool
  input  : Bool
  output : Bool
  carryLimit  : Nat
  defDeadline : Nat
  entry   : Nat
  bufLen  : Nat
  maxIn   : Nat
  maxOut  : Nat
  cycles  : Nat
  service : Nat
  deriving DecidableEq, Repr

/-- A TABLES record (Table 2.5): kind, yard, byte offset, data. -/
structure TableRec where
  kind : Nat
  yard : Nat
  off  : Nat
  data : List Byte
  deriving DecidableEq, Repr

/-- A checked rig: what its image gives the device. Slots are keyed by yard × 64 + slot; `imageOf` gives the image
number plus 1 of yard × 16 + logical Sheave. -/
structure Rig where
  frameLen   : Nat := 0
  rigId      : Nat := 0
  version    : Nat := 0
  hash       : List Byte := []
  loadFrames : Nat := 1
  slots      : SMap (Option SlotEnt) := []
  classes    : SMap (Option ClassEnt) := []
  imageOf    : SMap Nat := []
  images     : List (List Byte) := []
  tables     : List TableRec := []
  /-- The microprograms of BNE_MICRO and of PU_MICRO. -/
  bneMicro   : List (List Byte) := []
  puMicro    : List (List Byte) := []
  deriving DecidableEq, Repr

/-- Staging, the rig in effect and a load in progress (R47 to R51). -/
structure RigSt where
  eff      : Option Rig := none
  effSrc   : Nat := 0
  /-- A rig whose load has ended and that waits for its guard. -/
  ready    : Option (Nat × Rig) := none
  /-- A load falls due: boot step 9 or an entry to a mode that runs a rig (R49). -/
  due      : Bool := false
  /-- A load in progress: source slot and the rig. -/
  loading  : Option (Nat × Rig) := none
  /-- A staging in progress: source slot, the rig where its checks pass, ERR_CODE and ERR_INFO where one fails. -/
  staging  : Option (Nat × Option Rig × Nat × Nat) := none
  staged   : Option (Nat × Rig) := none
  deriving DecidableEq, Repr

/-! ### Frames and items (R31 to R86) -/

/-- The frame timer. `no` is FRAME_NO, `hwm` is FRAME_HWM of the always-on domain, `ticks` counts the ticks that
every count of frames counts (R35), `cycle` is the fabric cycle of the last event placed in the frame. -/
structure FrameSt where
  running : Bool := false
  no      : Nat := 0
  hwm     : Nat := 0
  ticks   : Nat := 0
  cycle   : Nat := 0
  len     : Nat := 0
  first   : Bool := true
  load    : Option Nat := none
  /-- The number of the frame before. -/
  prev    : Nat := 0
  noRef   : Nat := 0
  /-- The step to the reference phase is no longer possible: it has been made, or a rig has taken effect (R78). -/
  stepped : Bool := false
  deriving DecidableEq, Repr

/-- Where an item is (R55 to R75). Slots are numbered yard × 64 + slot; the flag selects message buffer B. -/
inductive Place where
  | waiting
  | bound (slot : Nat) (bufB : Bool)
  | running (slot : Nat) (bufB : Bool)
  | parked (slot : Nat) (bufB : Bool)
  deriving DecidableEq, Repr

/-- A posted result (R119). -/
structure Posted where
  status : Nat
  len    : Nat
  result : List Byte
  deriving DecidableEq, Repr

/-- One item of the in-flight table. `f` is the tick count of the frame in which its entry was accepted; faults
carry the fabric time at which they were detected. -/
structure Item where
  id      : Nat
  part    : Nat
  ring    : Nat
  index   : Nat
  desc    : List Word
  cls     : Nat
  f       : Nat
  place   : Place := .waiting
  inDone  : Bool := false
  frameNo : Nat := 0
  frames  : Nat := 0
  carriedNow : Bool := false
  carriedEver : Bool := false
  posted  : Option Posted := none
  /-- The status latch of R118: a time in quarters of a fabric cycle and a status. -/
  latch   : Option (Nat × Nat) := none
  sfault  : Option (Nat × List Byte) := none
  ufault  : Option (Nat × List Byte) := none
  outstanding : Bool := false
  spoiled : List Nat := []
  /-- Operand slots that commands of the item wrote (R220). -/
  wrote   : List Nat := []
  /-- The item holds a write whose twin acknowledgement is outstanding (R276). -/
  mirrorWait : List Nat := []
  /-- A write of the item will not be acknowledged (R276, R396). -/
  unmirrored : Bool := false
  deriving DecidableEq, Repr

/-- The admission unit. Ownership is by slot, bindings by partition × 256 + class; values are the partition or
ring plus 1. -/
structure AdmSt where
  items     : List Item := []
  nextId    : Nat := 0
  owner     : SMap Nat := []
  ownerSh   : SMap Nat := []
  binding   : SMap Nat := []
  bindingSh : SMap Nat := []
  /-- OWN_PART and BIND_RING last written to shadow entries whose VALID is 0. -/
  ownerIdle   : SMap Nat := []
  bindingIdle : SMap Nat := []
  commit    : Bool := false
  epoch     : SMap Nat := []
  deriving DecidableEq, Repr
/-! ### Rings and the host interface (R321 to R357) -/

/-- Ring states (R354). -/
inductive RingState where
  | none | active | stopped
  deriving DecidableEq, Repr

/-- How an item ended, for its completion (R344). -/
structure Ended where
  status  : Nat
  outLen  : Nat := 0
  result  : List Byte := List.replicate 8 0
  dataWritten : Bool := false
  unmirrored  : Bool := false
  carried : Bool := false
  deriving DecidableEq, Repr

/-- One entry of a batch: its item, 0 for an entry that ended at a check; `done` once it has ended (R346). -/
structure BatchEnt where
  item  : Nat
  tag   : Nat
  seq   : Word
  done  : Option Ended := none
  deriving DecidableEq, Repr

/-- A batch; `closed` once its last entry has been fetched, `dead` once its record has been discarded (R436). -/
structure Batch where
  closed : Bool := false
  dead   : Bool := false
  ents   : List BatchEnt := []
  deriving DecidableEq, Repr

/-- One ring pair. `sqFetch` is the index of the next entry to arrive, and `reads` counts the entries from it on whose read
has been issued; `ends` are the indices of withdrawals that end a batch when they are reached (R346). `since` counts
completions since the last message, `fresh` marks completions since INT_CYCLE. -/
structure Ring where
  st      : RingState := .none
  cause   : Nat := 0
  part    : Nat := 0
  slot    : Nat := 0
  sqBase  : Nat := 0
  cqBase  : Nat := 0
  sqLog2  : Nat := 4
  cqLog2  : Nat := 4
  imode   : Nat := 0
  vector  : Nat := 0
  icount  : Nat := 1
  sqFetch : Nat := 0
  sqTail  : Nat := 0
  cqTail  : Nat := 0
  cqHead  : Nat := 0
  cqRsv   : Nat := 0
  sqPhase : Bool := true
  cqPhase : Bool := true
  reqs    : List (Nat × Nat) := []
  batches : List Batch := []
  ends    : List Nat := []
  revoke  : Option Nat := none
  since   : Nat := 0
  fresh   : Bool := false
  deriving DecidableEq, Repr

/-- An entry of the host error FIFO (Table 10.15). -/
structure HErr where
  cause : Nat
  ring  : Nat
  part  : Nat
  index : Nat
  frame : Nat
  deriving DecidableEq, Repr

/-- One MSI-X vector: table entry, mask and pending bit (R351). -/
structure Msix where
  addr    : Nat := 0
  data    : Nat := 0
  masked  : Bool := true
  pending : Bool := false
  deriving DecidableEq, Repr

/-- A completion that waits for mirror acknowledgements (R276). -/
structure Held where
  ring  : Nat
  index : Nat
  tag   : Nat
  seq   : Word
  part  : Nat
  item  : Nat
  ended : Ended
  waits : List Nat
  deriving DecidableEq, Repr

/-- What the device sends out: host writes under a PASID, MSI-X messages, completions of BAR reads, Stay link
frames, card and contactless traffic, resends on the die link. -/
inductive Out where
  | hostWrite (pasid addr : Nat) (bytes : List Byte) (relaxed : Bool := false)
  | hostRead (pasid addr len : Nat)
  | msix (vector addr data : Nat)
  | unsupported (bar off : Nat) (write : Bool)
  | link (kind : Nat) (bytes : List Byte)
  | dieLink (up : Bool) (seq : Nat) (wire : List Byte)
  | dieResend (seq : Nat)
  | sdRead (block : Nat)
  | sdWrite (block : Nat) (bytes : List Byte)
  | apdu (path : Nat) (bytes : List Byte)
  | picc (bytes : List Byte)
  | regRead (reader off value : Nat)
  | pin (name : String) (level : Bool)
  deriving DecidableEq, Repr

/-- The first error that AER has logged, an Unsupported Request, with its header: BAR, offset and size of the access (R322, R324). -/
structure AerLog where
  bar  : Nat
  off  : Nat
  size : Nat
  deriving DecidableEq, Repr

/-- The host interface: the rings, the link, the host error FIFO, the vectors, completions that wait for the twin (R321 to R357). -/
structure HostSt where
  rings  : SMap Ring := []
  linkUp : Bool := false
  bme    : Bool := false
  d3hot  : Bool := false
  herr   : List HErr := []
  msix   : SMap Msix := []
  held   : List Held := []
  intCycle : Option Nat := none
  cfg    : PcieCfg := {}
  bars   : PcieBars := {}
  aer    : Option AerLog := none
  deriving DecidableEq, Repr

/-! ### Partitions (R358 to R379) -/

/-- Partition states (Table 11.1). -/
inductive PState where
  | none | pending | active | quiescing | quiesced | clearing | exported
  deriving DecidableEq, Repr

/-- An audit link accepted in an EGRESS window, with what orders it (R315, R317). -/
structure AuditLink where
  frame   : Nat
  slotEnd : Nat
  ring    : Nat
  seq     : Nat
  link    : List Byte
  deriving DecidableEq, Repr

/-- One partition: its resources, its state, its dirty log and its audit chain (R316). -/
structure Part where
  st        : PState := .none
  pasid     : Nat := 0
  ringQuota : Nat := 0
  cleatQuota : Nat := 0
  opmBase   : Nat := 0
  opmSlotLen : Nat := 4
  opmSlots  : Nat := 0
  vecBase   : Nat := 0
  vecCount  : Nat := 0
  quiesce   : Bool := false
  createFrame : Nat := 0
  head      : List Byte := []
  headFrame : Nat := 0
  links     : List AuditLink := []
  dirtyOn   : Bool := false
  dirtyB    : Bool := false
  dirtyAddrA : Nat := 0
  dirtyAddrB : Nat := 0
  dirtySpan : Nat := 0
  beyond    : Bool := false
  deriving DecidableEq, Repr

/-- A partition command that has been accepted and has not ended (R378): the tick count of its acceptance, bit Q, what
it captured, and whether it takes effect with the twin's (R397). -/
structure PartCmd where
  op    : Nat
  part  : Nat
  tick  : Nat
  q     : Bool := false
  res   : List Nat := []
  mirrored : Bool := false
  deriving DecidableEq, Repr

/-- A page record of the dirty accumulator: partition, bitmap B, 64-bit word of the bitmap, bits (R372). -/
structure DirtyWord where
  part : Nat
  inB  : Bool
  word : Nat
  bits : Nat
  deriving DecidableEq, Repr

/-- A write, or the message that covers writes, which waits for the accumulator (R351, R372). -/
inductive Waiting where
  | write (part addr : Nat) (bytes : List Byte) (ro : Bool)
  | msix (part vector : Nat)
  deriving DecidableEq, Repr

/-- The partition table and its command machine. `acc` is the record of the frame, `merge` that of the frame before,
`waitWrites` are the writes that wait because the accumulator is full, and the messages behind them. -/
structure PartSt where
  tab   : SMap Part := []
  cmd   : Option PartCmd := none
  acc   : List DirtyWord := []
  merge : List DirtyWord := []
  waitWrites : List Waiting := []
  accFull : Bool := false
  deriving DecidableEq, Repr
/-! ### The Cleat store (R252 to R287, R586) -/

/-- An entry: the attributes of its head row (Table 8.3), its counters (Table 8.4) and its material. `ckpt` is the
checkpoint of its vault record (R281), `ckptPend` a newer one not yet read back. -/
structure Entry where
  alg     : Nat
  klen    : Nat := 0
  usage   : Nat := 0
  part    : Nat := 0
  exportF : Nat := 0
  mirror  : Nat := 0
  persist : Bool := false
  packed  : Bool := false
  vaulted : Bool := false
  system  : Bool := false
  rows    : Nat := 1
  kbits   : Nat := 0
  pubexp  : Nat := 0
  tr31    : List Byte := List.replicate 16 0
  useCount : Nat := 0
  useLimit : Nat := 0
  notAfter : Nat := 0
  material : List Byte := []
  suspended : Bool := false
  restoring : Bool := false
  ckpt     : Option Nat := none
  ckptPend : Option Nat := none
  deriving DecidableEq, Repr

/-- A write that waits for the guard (R271): create, delete, restrict (USAGE mask, limit, not-after). -/
inductive CleatOp where
  | create (e : Entry)
  | delete
  | restrict (usage limit notAfter : Nat)
  deriving DecidableEq, Repr

/-- Who made a pending write, in the order of R272. -/
inductive Writer where
  | rig (item : Nat) | twin | manager | naris | guardReset
  deriving DecidableEq, Repr

/-- A pending write of the frame; `gen` is the generation that a record of the twin gives (R395). -/
structure CleatWrite where
  head   : Nat
  rows   : Nat
  op     : CleatOp
  writer : Writer
  gen    : Option Nat := none
  deriving DecidableEq, Repr

/-- One vault record (Table 8.7). -/
inductive VaultRec where
  | entry (head gen : Nat) (e : Entry)
  | tomb (head gen : Nat)
  deriving DecidableEq, Repr

/-- The Cleat store. `gens` holds each row's generation minus 1, `freeAge` when a row became free, `phys` the
physical row plus 1 of a remapped logical row, `retiredRows` the row retirement table. -/
structure CleatSt where
  ents    : SMap (Option Entry) := []
  gens    : SMap Nat := []
  freeAge : SMap Nat := []
  freeSeq : Nat := 0
  phys    : SMap Nat := []
  retiredRows : List Nat := []
  /-- The rows that the table retired when the row map was built (R133), and the spares taken since. -/
  bootRet : List Nat := []
  sparesUsed : Nat := 0
  pending : List CleatWrite := []
  ready   : Bool := false
  maskKey : Option Nat := none
  vaultKey : Option (List Byte) := none
  /-- Records not yet in a sector that is being programmed, and the sector that is (R280). -/
  vaultOpen : List VaultRec := []
  vaultProg : Option (Nat × List VaultRec) := none
  /-- The image of that sector, and how many of its units stand in the array (R462). -/
  vaultImg  : List Byte := []
  vaultDone : Nat := 0
  vaultSeq  : Nat := 0
  vaultNext : Nat := 0
  scrubPos  : Nat := 0
  /-- The manager command in progress: op and handle (R285). -/
  cmd     : Option (Nat × Nat) := none
  /-- Rows that held an entry before a wipe (R256). -/
  lostRows : List Nat := []
  retGen  : Nat := 0
  /-- A row retirement waits for the next generation of the table (R287). -/
  retDue  : Bool := false
  deriving DecidableEq, Repr

/-! ### Big-number engine and polynomial unit (R183 to R251) -/

/-- One operand slot (R191). `owner` is yard × 16 + logical Sheave + 1 of the Sheave that claimed it, 0 for
none (the register's 0x3FF). `link` is 0, or 1 + 2 × (first private slot × 65,536 + first public slot), plus 1 in a slot of
the public operand (R194). -/
structure OpSlot where
  val   : Nat := 0
  sec   : Bool := false
  stale : Bool := false
  owner : Nat := 0
  link  : Nat := 0
  deriving DecidableEq, Repr

/-- The big-number engine. Slots are keyed by partition × 65,536 + slot. -/
structure BneSt where
  slots    : SMap OpSlot := []
  residue  : List Nat := []
  ueFrames : List Nat := []
  opmBusy  : Option (Nat × Nat × Nat) := none
  /-- The microprograms that the rig loaded (R44). -/
  micro    : List (List Byte) := []
  deriving DecidableEq, Repr

/-- One PU cluster: its held state and the item that holds it (R230), whether it is void (R245, R492), and its fault
record. -/
structure Cluster where
  held   : PuHeld := .none
  item   : Nat := 0
  void   : Bool := false
  faultFrames : List Nat := []
  deriving DecidableEq, Repr

/-- The polynomial unit. -/
structure PuSt where
  clusters : SMap Cluster := []
  ueFrames : List Nat := []
  /-- The microprograms that the rig loaded (R44). -/
  micro    : List (List Byte) := []
  deriving DecidableEq, Repr
/-! ### The Stay link and the pair (R380 to R408) -/

/-- A link frame as sent or received: the header fields of Table 12.2 and the payload. -/
structure LinkFrame where
  typ     : Nat
  ver     : Nat := 1
  last    : Bool := true
  resend  : Bool := false
  nak     : Bool := false
  enc     : Bool := true
  seq     : Nat := 0
  ackSeq  : Nat := 0
  txFrame : Nat := 0
  payload : List Byte := []
  deriving DecidableEq, Repr

/-- A completion record in the duplicate table (Table 12.4), with the tick of its receipt. -/
structure DupRec where
  ring   : Nat
  part   : Nat
  status : Nat
  seq    : Nat
  frame  : Nat
  flags  : Nat
  tick   : Nat
  deriving DecidableEq, Repr

/-- A mirrored command that waits for the guard of frame m + 2 (R397). `lower` tells whose it is. -/
inductive CfgCmd where
  | part (op p : Nat) (q : Bool) (res : List Nat)
  | commit (owner binding : SMap Nat)
  | exported (p : Nat)
  deriving DecidableEq, Repr

/-- A mirrored command with the tick at whose guard it takes effect. -/
structure CfgMsg where
  atTick  : Nat
  lower   : Bool
  cmd     : CfgCmd
  deriving DecidableEq, Repr

/-- A mirrored Cleat write that has been sent and not acknowledged (R395): sequence number, item, head row. -/
structure MirrorOut where
  seq  : Nat
  item : Nat
  head : Nat
  deriving DecidableEq, Repr

/-- The Stay link identity of the option area (R383). -/
structure StayId where
  twinFp   : List Byte
  pairMode : Nat
  roleCfg  : Nat
  deriving DecidableEq, Repr

/-- The Stay link and the pair. `lstate` and `pstate` are coded as in Table 12.8; `hs` is the handshake step: 0 none, 1 HELLO sent, 2 fingerprint accepted, 3 keys derived. The transcript marks
the device's own frames. `departed` tells that DEPART has been sent, `hbLast` the tick of the frame that the twin's last heartbeat
closed, `hbSent` and `hbHeard` frame and digest of the last heartbeats of the device and of its twin. `retrain` is the tick at which a
retrain of a link that is up began. `settled` are the rows that a mirrored write has settled while a row comparison runs (R404).
`twinOp` tells that the twin was OPERATIONAL when it paired. -/
structure StaySt where
  lstate   : Nat := 0
  pstate   : Nat := 0
  splitRig : Bool := false
  splitCfg : Bool := false
  mode     : Nat := 0
  version  : Nat := 0
  hs       : Nat := 0
  transcript : List (Bool × List Byte) := []
  twinRig  : List Byte := []
  kemDk    : Option (List Byte) := none
  txKey    : Option (List Byte) := none
  rxKey    : Option (List Byte) := none
  txSeq    : Nat := 0
  txEpoch  : Nat := 0
  rxSeq    : Nat := 0
  rxEpoch  : Nat := 0
  acked    : Nat := 0
  replay   : List LinkFrame := []
  resends  : Nat := 0
  depart   : Bool := false
  departed : Bool := false
  retrain  : Option Nat := none
  ackDue   : Bool := false
  hbMiss   : Nat := 0
  hbLast   : Option Nat := none
  hbSent   : Option (Nat × List Byte) := none
  hbHeard  : Option (Nat × List Byte) := none
  dup      : List DupRec := []
  frozen   : Bool := false
  frozenTicks : Nat := 0
  heads    : SMap (Option (Nat × List Byte)) := []
  mirror   : List MirrorOut := []
  cfg      : List CfgMsg := []
  ownDigest : List Byte := []
  rigProposal : Option (List Byte × Nat) := none
  /-- The device's own proposal while its load runs (R398). -/
  rigOwn   : Option Nat := none
  rowsLeft : Nat := 0
  settled  : List Nat := []
  twinCfg  : Option TwinConfig := none
  twinOp   : Bool := false
  /-- The twin's MAX_LANES and MAX_RATE. -/
  twinMax  : Nat × Nat := (0, 0)
  everPaired : Bool := false
  deriving DecidableEq, Repr

/-! ### The Spring and the rills (R409 to R428) -/

/-- A noise cell: whether it is retired, suspended or feeds, its failure counts, its last complete window, and the
startup tests a suspended cell has passed in a row (R413). -/
structure Cell where
  retired   : Bool := false
  suspended : Bool := false
  feeding   : Bool := false
  passes    : Nat := 0
  rct       : Nat := 0
  apt       : Nat := 0
  estValid  : Bool := false
  bias      : Nat := 0
  corr      : Int := 0
  deriving DecidableEq, Repr

/-- A rill: instantiated, waiting for a seed, generate calls and ticks since its last reseed. -/
structure Rill where
  seeded  : Bool := false
  due     : Bool := false
  calls   : Nat := 0
  ticks   : Nat := 0
  deriving DecidableEq, Repr

/-- The Spring. Rills 0 to 255 are the partition rills, 256 to 319 the yard rills, 320 to 323 the wire rills.
`queue` holds the rills whose seeds fall due, in order. -/
structure SpringSt where
  cells     : SMap Cell := []
  rills     : SMap Rill := []
  queue     : List Nat := []
  reserve   : Nat := 0
  /-- Conditioned bits gathered toward the next seed of 384. -/
  bits      : Nat := 0
  started   : Bool := false
  startupDone : Bool := false
  seedReady : Bool := false
  seedReadyEver : Bool := false
  healthFail : Bool := false
  hfTicks   : Nat := 0
  testpat   : Bool := false
  rillBuf   : SMap (List Byte) := []
  /-- Blocks served of each yard rill's last generate call, modulo 64 (Table 13.1). -/
  blockCnt  : SMap Nat := []
  deriving DecidableEq, Repr

/-! ### The ART and the host CVUs (R429 to R448) -/

/-- A rule of the ART (Table 14.2). -/
structure Rule where
  valid   : Bool := false
  host    : Bool := false
  base    : Nat := 0
  limit   : Nat := 0
  id      : Nat := 0
  idMask  : Nat := 0
  partAny : Bool := false
  part    : Nat := 0
  r       : Bool := false
  w       : Bool := false
  x       : Bool := false
  deriving DecidableEq, Repr

/-- An entry of the ART_ERR FIFO (R437). -/
structure ArtErr where
  init    : Nat
  part    : Nat
  imprecise : Bool
  write   : Bool
  fetch   : Bool
  host    : Bool
  page    : Nat
  frame   : Nat
  deriving DecidableEq, Repr

/-- The access rule table: manager rows in effect and in the shadow, and the error FIFO. -/
structure ArtSt where
  act    : SMap Rule := []
  sh     : SMap Rule := []
  commit : Bool := false
  err    : List ArtErr := []
  deriving DecidableEq, Repr
/-! ### Flash and the option area (R449 to R471) -/

/-- An XO region of the map in effect (R468): bank byte addresses. -/
structure XoEnt where
  start : Nat
  stop  : Nat
  deriving DecidableEq, Repr

/-- An entry of the retirement list (R466). -/
structure RetEnt where
  kind : Nat
  yard : Nat
  unit : Nat
  deriving DecidableEq, Repr

/-- The contents of an option copy (Table 15.5). -/
structure OptArea where
  gen        : Nat := 0
  writeFrame : Nat := 0
  mode       : Nat := 2
  prevMode   : Nat := 2
  modeFrame  : Nat := 0
  fwActive   : Nat := 0
  fwFallback : Bool := false
  rigActive  : Nat := 0xFF
  rigFallback : Nat := 0xFF
  fwFloor    : Nat := 0
  rigFloor   : Nat := 0
  rigActiveHash   : List Byte := List.replicate 32 0
  rigFallbackHash : List Byte := List.replicate 32 0
  xo         : List XoEnt := []
  stay       : Option StayId := none
  members    : List (List Byte) := []
  retired    : List RetEnt := []
  /-- Logical sector plus 1 by bank × 64 + spare. -/
  remap      : SMap Nat := []
  deriving DecidableEq, Repr

/-- A journal record (Table 15.4). -/
structure JRec where
  begin' : Bool
  area   : Nat
  sector : Nat
  seq    : Nat
  deriving DecidableEq, Repr

/-- A command of the flash controller (R452): 1 READ, 2 PROGRAM, 3 ERASE, 4 CHECK, 5 REMAP; `rom` when the ROM service
runs it, and `started` once it has begun (R455). `ue` and `ce` are the errors that a read meets. -/
structure FlashOp where
  op    : Nat
  addr  : Nat
  data  : List Byte := []
  spare : Nat := 0
  len   : Nat := 0
  rom   : Bool := false
  started : Bool := true
  byNaris : Bool := false
  ue    : Option Nat := none
  ce    : Option Nat := none
  deriving DecidableEq, Repr

/-- The flash. `mem` is keyed by (area × 2,112 + physical sector) × 4,096 + offset, reads 0xFF where nothing is
listed; `progd` marks the units programmed since their erase; `dead` the units that read ECC_FAIL. Option copies and
identity area are held by content. -/
structure FlashSt where
  ready   : Bool := false
  mem     : SMap Byte := []
  progd   : SMap Bool := []
  dead    : SMap Bool := []
  op      : Option FlashOp := none
  /-- Reads of a bank under program or erase, which wait until the operation ends (R452). -/
  waits   : List FlashOp := []
  journal : List JRec := []
  jseq    : Nat := 0
  /-- The sector remap table in effect in the controller (R450, R458): logical sector plus 1 by bank × 64 + spare;
  a spare that its sector has left for another holds 0x1000. -/
  remap   : SMap Nat := []
  optA    : Option OptArea := some { gen := 1, prevMode := 1 }
  optB    : Option OptArea := none
  opt     : OptArea := {}
  optState : Nat := 0
  /-- An option generation that is being written (R467). -/
  optWrite : Option OptArea := none
  idSeed  : Bool := true
  /-- Firmware image A is the one the device was shipped with (notes/assumptions/4.md). -/
  shipped : Bool := true
  termStmt : List Byte := []
  deriving DecidableEq, Repr

/-! ### Modes, boot, faults (R472 to R498) -/

/-- The modes of Table 16.1. -/
inductive Mode where
  | factory | unclaimed | ceremony | operational | maintenance | degraded | standby | terminated
  deriving DecidableEq, Repr

/-- Why a mode changes (R477). -/
inductive Cause where
  | manager | device | f3 | clearVolatile | clearAll | f4
  deriving DecidableEq, Repr

/-- A mode change in progress: target, cause, whether it is orderly, and whether step 5 has run (R475). -/
structure Change where
  target  : Mode
  cause   : Cause
  orderly : Bool
  /-- Steps 1 and 2 have run. -/
  begun   : Bool := false
  wiped   : Bool := false
  /-- It ends in another mode than the one that was asked for. -/
  failed  : Bool := false
  deriving DecidableEq, Repr

/-- An entry of the fault log (Table 16.10). -/
structure FltEnt where
  cls    : Nat
  raised : Nat
  esc    : Bool
  dep    : Bool
  source : Nat
  yard   : Nat
  unit   : Nat
  frame  : Nat
  deriving DecidableEq, Repr

/-- The recovery window (R489): ticks left and the fault that opened it, by the source under which the faults of its unit count. -/
structure Window where
  left   : Nat
  source : Nat
  yard   : Nat
  unit   : Nat
  frame  : Nat
  deriving DecidableEq, Repr

/-- The device as a whole. -/
structure GlobalSt where
  mode     : Mode := .unclaimed
  prevMode : Mode := .unclaimed
  change   : Option Change := none
  /-- A stronger arrival that runs as a new change once step 8 ends (R477). -/
  queued   : Option Change := none
  bootTarget : Option Mode := none
  booted   : Bool := false
  degMode  : Bool := false
  degPart  : SMap Nat := []
  degClass : SMap Nat := []
  void     : List RetEnt := []
  memUe    : Bool := false
  log      : List FltEnt := []
  window   : Option Window := none
  dieKey   : List Byte := []
  /-- Sequence numbers of the last transfers accepted toward the compute die and toward the storage die, and the bytes of the
  last one (R17). -/
  dieSeqUp   : Nat := 0
  dieSeqDown : Nat := 0
  dieIn    : List Byte := []
  dieRekeyed : Bool := false
  /-- The senders' buffers: transfers that are sent again, by 2 × sequence number + direction. -/
  dieBuf   : SMap (Option (List Byte)) := []
  bootCnt  : Nat := 0
  katRun   : Bool := false
  /-- The XO list of the staged image. -/
  fwXo     : List XoEnt := []
  floorPend : Bool := false
  stmt     : List Byte := []
  kemDk    : Option (List Byte) := none
  deriving DecidableEq, Repr

/-! ### Host CVUs (R443 to R446) -/

/-- A host CVU run in progress: everything GO captured. -/
structure HostCvu where
  poly : Nat
  fold : Bool
  cmp  : Bool
  part : Nat
  addr : Nat
  len  : Nat
  foldWord : Nat
  expect   : Nat
  deriving DecidableEq, Repr

/-! ### Tamper monitors, RTC and witness memory (R499 to R520) -/

/-- A policy entry (R507); ENABLE, RESP and FLOOR of Table 17.1 where nothing is listed. -/
structure Policy where
  enable   : Bool
  resp     : Nat
  lmode    : Bool := false
  polarity : Bool := false
  debounce : Nat := 0
  deriving DecidableEq, Repr

/-- One Shroud loop: its LFSR, whether its last samples differed (newest first), consecutive matches, the last 32
sensed bits, and whether the loop is found open or shorted (R504). -/
structure LoopSt where
  lfsr    : Nat := 1
  hist    : List Bool := []
  matched : Nat := 0
  sensed  : Nat := 0
  tripped : Bool := false
  deriving DecidableEq, Repr

/-- A witness record that waits for the record writer (R511): all of Table 17.4 but WSEQ and CHECK. -/
structure WRec where
  typ    : Nat
  source : Nat
  resp   : Nat
  flags  : Nat
  sec    : Nat
  sub    : Nat
  bootLo : Nat
  detail : List Byte
  vbat   : Nat
  temp   : Int
  deriving DecidableEq, Repr

/-- The always-on domain. `caseNs` is how long each case has stayed at its tamper level; `staged` a policy change, with the
seed of a loop, that waits for the next cycle (R507); `alertSeq`, `clearSeq` and `respSeq` the WSEQ of the record that set
ALERT_PENDING, of the one that set CLEAR_PENDING, and of the one whose response was applied last; `frac` the part of an
XTAL32 cycle that evaluation cycles on main power have gathered (notes/assumptions/32.md). -/
structure TamperSt where
  policy   : SMap (Option Policy) := []
  staged   : Option (Nat × Policy × Nat) := none
  asserted : Nat := 0
  caseNs   : SMap Nat := []
  loops    : SMap LoopSt := []
  test     : Option Nat := none
  alertPending : Bool := false
  clearPending : Bool := false
  alertSeq : Nat := 0
  clearSeq : Nat := 0
  respSeq  : Nat := 0
  rootState : Nat := 1
  /-- Which draw of wire rill 3 the root mask is (R514); draw 0 came with the device. -/
  rootMask  : Option Nat := some 0
  recs     : List WRec := []
  rtcSec   : Nat := 0
  rtcSub   : Nat := 0
  frac     : Nat := 0
  rtcValid : Bool := false
  mainPower : Bool := true
  clrVol   : Bool := false
  clrAll   : Bool := false
  eraseBanks : Bool := false
  vbat     : Nat := 0
  vhold    : Nat := 0
  tempSd   : Int := 0
  tempCd   : Int := 0
  xtalOn   : Bool := true
  deriving DecidableEq, Repr

/-- A wired access to witness memory that lost the arbiter (R537): a Naris load, a Naris store,
or a manager window read. -/
inductive Wired where
  | load (off size : Nat) (dst : LoadTo)
  | store (off : Nat) (bytes : List Byte)
  | window (off : Nat)
  deriving DecidableEq, Repr

/-- The PICC states of R534. -/
inductive Picc where
  | off | idle | ready | active | halt
  deriving DecidableEq, Repr

/-- Witness memory and the contactless unit. `mem` holds the bytes that are not zero; `wseq` is the next WSEQ;
`arb` tells that an access holds the arbiter; `wired` are the wired accesses that lost it, with their retries; `scan` is a
reader scan that waits for the field to go. -/
structure WitnessSt where
  mem   : SMap Byte := []
  wseq  : Nat := 1
  check : Nat := 0
  picc  : Picc := .off
  uid   : List Byte := []
  /-- The port was last woken from HALT: an error returns it there (R534). -/
  fromHalt : Bool := false
  field : Bool := false
  ma    : Nat := 0
  arb   : Bool := false
  wired : List (Wired × Nat) := []
  scan  : Option (List TagIn) := none
  deriving DecidableEq, Repr

/-! ### Card port, quorum and ceremony (R521 to R545) -/

/-- An ICC session: class (1 B, 2 A), convention, Fi, Di, extra guard time and work waiting integer, what has been
selected, and what INFO answered. -/
structure IccSt where
  cls     : Nat
  inverse : Bool
  fi      : Nat
  di      : Nat
  guardT  : Nat
  wi      : Nat
  selected : Bool := false
  info    : Option (List Byte) := none
  deriving DecidableEq, Repr

/-- The card slot; `typ` as TYPE of Table 18.9. -/
structure CardSt where
  present : Bool := false
  typ     : Nat := 0
  icc     : Option IccSt := none
  deriving DecidableEq, Repr

/-- A quorum session (R540, R541): purpose, SNONCE, public keys counted (algorithm byte first), M and N, and what
TERMINATE in UNCLAIMED or CLAIM asks (`fresh`). -/
structure Quorum where
  purpose : Nat
  snonce  : List Byte
  counted : List (List Byte) := []
  indexes : List Nat := []
  met     : Bool := false
  left    : Nat := 0
  m       : Nat := 0
  n       : Nat := 0
  fresh   : Bool := false
  ceremony : Bool := false
  deriving DecidableEq, Repr

/-- What the ceremony has staged (R542): `domGen`, `domImport` and `domLoad` are the domain keys of steps 4, 5 and 8; `join` is the
joining member and its encapsulation key. -/
structure Staged where
  custodians : Option (Nat × List (List Byte)) := none
  rigKey     : Option (List Byte) := none
  members    : Option (List (List Byte) × Option StayId) := none
  domGen     : Option (List Byte) := none
  domImport  : Option (List Byte) := none
  domLoad    : Option (List Byte) := none
  join       : Option (List Byte × List Byte) := none
  deriving DecidableEq, Repr

/-- The custodian side. `win` are the bytes of the 4 KB ceremony window that are not zero. -/
structure CustSt where
  quorum : Option Quorum := none
  staged : Staged := {}
  win    : SMap Byte := []
  deriving DecidableEq, Repr

/-! ### Power and pins (R549 to R563) -/

/-- The main rails are up, and PERST_N is asserted. -/
structure PinSt where
  rails : Bool := true
  perst : Bool := true
  /-- The level of FSYNC_OUT, high from the tick to the end of the guard (R80). -/
  fsyncOut : Bool := false
  deriving DecidableEq, Repr

/-! ### The block -/

/-- Where each yard block stands in BAR0 (R151). -/
def yardBase (y : Nat) : Nat := (0x04 + y / 16) * 0x1000 + (y % 16) * 0x100

/-- Where the registers of host CVU instance `h` stand in BAR0 (Table 14.10). -/
def hostCvuBase (h : Nat) : Nat := 0x12000 + 0x200 + h * 0x40

/-- The whole block. -/
structure State where
  frame   : FrameSt := {}
  rig     : RigSt := {}
  adm     : AdmSt := {}
  /-- Keyed by yard × 16 + logical Sheave. -/
  sheaves : SMap Sheave := []
  naris   : NarisSt := {}
  /-- Instruction and data RAMs by physical Sheave: (yard × 17 + p) × 32,768 + offset. -/
  iram    : SMap Byte := []
  dram    : SMap Byte := []
  /-- Yard memory: yard × 262,144 + offset. -/
  ymem    : SMap Byte := []
  narisRam : SMap Byte := []
  /-- Bytes of yard memory that a unit wrote in this frame: the fabric time of the write and the value before it (R92). -/
  unitPuts : SMap (Option (Nat × Byte)) := []
  yards   : SMap Yard := []
  /-- By kind 0 to 3 of Table 2.9. -/
  pools   : SMap Pool := []
  /-- Results not yet delivered, in the order of their grants. -/
  flights : List Flight := []
  /-- Open MAC chains: logical pair × 4,096 + slot. -/
  macs    : SMap (Option MacChain) := []
  /-- The serial number of the next derivation (R158). -/
  serial  : Nat := 0
  bne     : BneSt := {}
  pu      : PuSt := {}
  cleat   : CleatSt := {}
  host    : HostSt := {}
  parts   : PartSt := {}
  stay    : StaySt := {}
  spring  : SpringSt := {}
  art     : ArtSt := {}
  cvus    : SMap (Option HostCvu) := []
  flash   : FlashSt := {}
  glob    : GlobalSt := {}
  tamper  : TamperSt := {}
  witness : WitnessSt := {}
  card    : CardSt := {}
  cust    : CustSt := {}
  pins    : PinSt := {}
  /-- Register fields: value XOR reset value at offset × 32 + lowest bit. -/
  rf      : SMap Nat := []
  /-- Common headers by BAR0 offset ÷ 256. -/
  hdr     : SMap Hdr := []
  /-- The _LO/_HI latches: offset of the _HI register × 2 + reader (1 Naris). -/
  latch   : SMap Nat := []
  outbound : List Out := []
  free    : Nat := 0
  pending : List Instr := []
  deriving DecidableEq, Repr

/-- The pages whose ENABLE reads 1 from reset on (Table 20.4): GLOBAL, ART, TAMPER, WITNESS, CARD, FAULT, NARIS. -/
def resetPages : List Nat := [0x00, 0x11, 0x17, 0x18, 0x19, 0x1B, 0x1C]

/-- The pools of an empty retirement list: the physical units above the logical ones are the spares (R133). -/
def resetPools : SMap Pool :=
  [(0, { spares := [32, 33] }), (1, { spares := [64, 65, 66, 67] }), (2, { spares := [32, 33] }), (3, { spares := [32, 33] })]

/-- The block right after a full reset at power-up, as shipped: mode UNCLAIMED with the root mask SHIPPED (R3), before
the first step of the boot sequence; every register at the value of its table, every memory zero, flash erased
(notes/assumptions/4.md). -/
def State.reset : State :=
  { hdr := resetPages.map fun p => (p * 16, { enable := true, st := 2 }), free := 1,
    pools := resetPools }

end Sys2Proof.Machine
end

