-- ==== Sys2Proof/Machine/Regs.lean ====
section
/-!
DEFINITION. The register fields of every BAR0 page under their names in the spec's register tables
(R83, R85, R151, R153, R180, R181, R223, R250, R284, R286, R356, R378, R407, R425, R437, R444, R470,
R494 to R497, R518, R519, R543 and their neighbours). `off` is the BAR0 offset of R571. A name that a page
uses twice carries its offset. Families of equal registers are functions of their index; the fields of a
yard block are functions of the yard (R151), those of a host CVU of its number.
-/
set_option autoImplicit false

namespace Sys2Proof.Machine

/-! ### Page FRAME -/
namespace Reg.FRAME
def FRAME_NO_LO : Field := ⟨0x1100, 0, 32, 0, .ro⟩
def FRAME_NO_HI : Field := ⟨0x1104, 0, 16, 0, .ro⟩
def CYCLE : Field := ⟨0x1108, 0, 16, 0, .ro⟩
def FL_CYCLES : Field := ⟨0x110C, 16, 16, 0x2710, .ro⟩
def FRAME_LEN : Field := ⟨0x110C, 0, 2, 0, .ro⟩
def FSYNC_OUT_EN : Field := ⟨0x1110, 4, 1, 0, .rw⟩
def SOURCE : Field := ⟨0x1110, 0, 2, 0, .rw⟩
def FSYNC_SKEW : Field := ⟨0x1114, 0, 16, 0, .rwl⟩
def LOCKED : Field := ⟨0x1118, 24, 1, 0, .ro⟩
def TRIM : Field := ⟨0x1118, 16, 8, 0, .ro⟩
def PHASE_ERR : Field := ⟨0x1118, 0, 16, 0, .ro⟩
def ALIGN_LIMIT : Field := ⟨0x111C, 0, 16, 0x32, .rw⟩
def FRAME_LOAD_LO : Field := ⟨0x1120, 0, 32, 0, .rw⟩
def FRAME_LOAD_HI : Field := ⟨0x1124, 0, 16, 0, .rw⟩
def LOAD : Field := ⟨0x1128, 0, 1, 0, .wo⟩
def FRAME_HWM_LO : Field := ⟨0x112C, 0, 32, 0, .ro⟩
def FRAME_HWM_HI : Field := ⟨0x1130, 0, 16, 0, .ro⟩
def RIG_HASH (i : Nat) : Field := ⟨(0x1140 + 4 * i), 0, 32, 0, .ro⟩
def RIG_VERSION : Field := ⟨0x1160, 0, 32, 0, .ro⟩
def STAGE_LOAD_FRAMES : Field := ⟨0x1164, 16, 8, 0, .ro⟩
def STAGE_SRC : Field := ⟨0x1164, 9, 1, 0, .ro⟩
def ACTIVE_SRC : Field := ⟨0x1164, 8, 1, 0, .ro⟩
def STAGE_STATE : Field := ⟨0x1164, 0, 2, 0, .ro⟩
def RIG_ID_LO : Field := ⟨0x1168, 0, 32, 0, .ro⟩
def RIG_ID_HI : Field := ⟨0x116C, 0, 32, 0, .ro⟩
def STAGE_HASH (i : Nat) : Field := ⟨(0x1180 + 4 * i), 0, 32, 0, .rw⟩
def SRC : Field := ⟨0x11A0, 8, 1, 0, .wo⟩
def OP : Field := ⟨0x11A0, 0, 4, 0, .wo⟩
def TAKE_FRAME_LO : Field := ⟨0x11A4, 0, 32, 0, .rw⟩
def TAKE_FRAME_HI : Field := ⟨0x11A8, 0, 16, 0, .rw⟩
/-- Every field of the page. -/
def all : List Field :=
    [FRAME_NO_LO, FRAME_NO_HI, CYCLE, FL_CYCLES, FRAME_LEN, FSYNC_OUT_EN, SOURCE, FSYNC_SKEW, LOCKED, TRIM, PHASE_ERR, ALIGN_LIMIT, FRAME_LOAD_LO, FRAME_LOAD_HI, LOAD, FRAME_HWM_LO, FRAME_HWM_HI, RIG_VERSION, STAGE_LOAD_FRAMES, STAGE_SRC, ACTIVE_SRC, STAGE_STATE, RIG_ID_LO, RIG_ID_HI] ++
    [SRC, OP, TAKE_FRAME_LO, TAKE_FRAME_HI] ++
    (List.range 8).map RIG_HASH ++
    (List.range 8).map STAGE_HASH
end Reg.FRAME

/-! ### Page ADMIT -/
namespace Reg.ADMIT
def INFLIGHT : Field := ⟨0x2100, 0, 15, 0, .ro⟩
def CARRY_USED : Field := ⟨0x2104, 0, 11, 0, .ro⟩
def OWN_YARD : Field := ⟨0x2108, 8, 6, 0, .rw⟩
def OWN_SLOT : Field := ⟨0x2108, 0, 6, 0, .rw⟩
def OWN_VALID : Field := ⟨0x210C, 31, 1, 0, .rw⟩
def OWN_PART : Field := ⟨0x210C, 0, 8, 0, .rw⟩
def OWN_ACTIVE : Field := ⟨0x2110, 0, 32, 0, .ro⟩
def BIND_CLASS : Field := ⟨0x2114, 8, 8, 0, .rw⟩
def BIND_PART : Field := ⟨0x2114, 0, 8, 0, .rw⟩
def BIND_VALID : Field := ⟨0x2118, 31, 1, 0, .rw⟩
def BIND_RING : Field := ⟨0x2118, 0, 12, 0, .rw⟩
def BIND_ACTIVE : Field := ⟨0x211C, 0, 32, 0, .ro⟩
def COMMIT : Field := ⟨0x2120, 0, 1, 0, .wo⟩
def PENDING : Field := ⟨0x2124, 0, 1, 0, .ro⟩
def COMMIT_FRAME : Field := ⟨0x2128, 0, 32, 0, .ro⟩
def DROP_LATE_CNT : Field := ⟨0x212C, 0, 32, 0, .ro⟩
def DROP_FRAME_CNT : Field := ⟨0x2130, 0, 32, 0, .ro⟩
def CARRY_LIMIT_CNT : Field := ⟨0x2134, 0, 32, 0, .ro⟩
def IDLE_LAST : Field := ⟨0x2138, 16, 13, 0, .ro⟩
def ADMIT_LAST : Field := ⟨0x2138, 0, 13, 0, .ro⟩
/-- Every field of the page. -/
def all : List Field :=
    [INFLIGHT, CARRY_USED, OWN_YARD, OWN_SLOT, OWN_VALID, OWN_PART, OWN_ACTIVE, BIND_CLASS, BIND_PART, BIND_VALID, BIND_RING, BIND_ACTIVE, COMMIT, PENDING, COMMIT_FRAME, DROP_LATE_CNT, DROP_FRAME_CNT, CARRY_LIMIT_CNT, IDLE_LAST, ADMIT_LAST]
end Reg.ADMIT

/-! ### Page YARD -/
namespace Reg.YARD
def MAP (y : Nat) (i : Nat) : Field := ⟨(yardBase y + 0x40 + 4 * (i / 4)), (8 * (i % 4)), 5, i, .ro⟩
def SPARE_PHYS (y : Nat) : Field := ⟨(yardBase y + 0x50), 16, 5, 0x10, .ro⟩
def GEN (y : Nat) : Field := ⟨(yardBase y + 0x50), 0, 8, 0, .ro⟩
def RETIRED (y : Nat) : Field := ⟨(yardBase y + 0x54), 0, 17, 0, .ro⟩
def WEAR_THRESHOLD (y : Nat) : Field := ⟨(yardBase y + 0x58), 0, 10, 0x28, .rwl⟩
def WEAR_FLAGS (y : Nat) : Field := ⟨(yardBase y + 0x5C), 0, 17, 0, .ro⟩
def MARGIN (y : Nat) (i : Nat) : Field := ⟨(yardBase y + 0x60 + 4 * (i / 2)), (16 * (i % 2)), 10, 0x3FF, .ro⟩
def MARGIN16 (y : Nat) : Field := ⟨(yardBase y + 0x80), 0, 10, 0x3FF, .ro⟩
def LSHEAVE (y : Nat) : Field := ⟨(yardBase y + 0x84), 16, 4, 0, .wo⟩
def RETIRE (y : Nat) : Field := ⟨(yardBase y + 0x84), 8, 1, 0, .wo⟩
def OP (y : Nat) : Field := ⟨(yardBase y + 0x84), 0, 4, 0, .wo⟩
def PENDING (y : Nat) : Field := ⟨(yardBase y + 0x88), 31, 1, 0, .ro⟩
def PRELOADED (y : Nat) : Field := ⟨(yardBase y + 0x88), 30, 1, 0, .ro⟩
def CARRY_WAIT (y : Nat) : Field := ⟨(yardBase y + 0x88), 29, 1, 0, .ro⟩
def AUTO (y : Nat) : Field := ⟨(yardBase y + 0x88), 28, 1, 0, .ro⟩
def RETIRE_88 (y : Nat) : Field := ⟨(yardBase y + 0x88), 27, 1, 0, .ro⟩
def LSHEAVE_88 (y : Nat) : Field := ⟨(yardBase y + 0x88), 16, 4, 0, .ro⟩
def FROM (y : Nat) : Field := ⟨(yardBase y + 0x88), 8, 5, 0, .ro⟩
def TO (y : Nat) : Field := ⟨(yardBase y + 0x88), 0, 5, 0, .ro⟩
def SWAP_FRAME (y : Nat) : Field := ⟨(yardBase y + 0x8C), 0, 32, 0, .ro⟩
def FAULTS_LO (y : Nat) : Field := ⟨(yardBase y + 0x90), 0, 32, 0, .ro⟩
def FAULTS_HI (y : Nat) : Field := ⟨(yardBase y + 0x94), 0, 32, 0, .ro⟩
def FAULTS16 (y : Nat) : Field := ⟨(yardBase y + 0x98), 0, 4, 0, .ro⟩
def LAST_CODE (y : Nat) : Field := ⟨(yardBase y + 0x9C), 24, 8, 0, .ro⟩
def LAST_PHYS (y : Nat) : Field := ⟨(yardBase y + 0x9C), 16, 5, 0, .ro⟩
def LAST_FAULT_FRAME (y : Nat) : Field := ⟨(yardBase y + 0xA0), 0, 32, 0, .ro⟩
def STALE_CNT (y : Nat) : Field := ⟨(yardBase y + 0xA4), 0, 32, 0, .ro⟩
def YMEM_UE_CNT (y : Nat) : Field := ⟨(yardBase y + 0xA8), 16, 16, 0, .ro⟩
def YMEM_CE_CNT (y : Nat) : Field := ⟨(yardBase y + 0xA8), 0, 16, 0, .ro⟩
/-- Every field of the page. -/
def all (y : Nat) : List Field :=
    [SPARE_PHYS y, GEN y, RETIRED y, WEAR_THRESHOLD y, WEAR_FLAGS y, MARGIN16 y, LSHEAVE y, RETIRE y, OP y, PENDING y, PRELOADED y, CARRY_WAIT y, AUTO y, RETIRE_88 y, LSHEAVE_88 y, FROM y, TO y, SWAP_FRAME y, FAULTS_LO y, FAULTS_HI y, FAULTS16 y, LAST_CODE y, LAST_PHYS y, LAST_FAULT_FRAME y] ++
    [STALE_CNT y, YMEM_UE_CNT y, YMEM_CE_CNT y] ++
    (List.range 16).map (MAP y) ++
    (List.range 17).map (MARGIN y)
end Reg.YARD

/-! ### Page SPARES -/
namespace Reg.SPARES
def AUTO_SPARE : Field := ⟨0x1A100, 0, 1, 1, .rwl⟩
def SHEAVE_LEFT : Field := ⟨0x1A104, 24, 7, 0x40, .ro⟩
def KECCAK_LEFT : Field := ⟨0x1A104, 16, 3, 4, .ro⟩
def LANE_LEFT : Field := ⟨0x1A104, 12, 2, 2, .ro⟩
def SHA2_LEFT : Field := ⟨0x1A104, 8, 2, 2, .ro⟩
def CIPHER_LEFT : Field := ⟨0x1A104, 0, 2, 2, .ro⟩
def CIPHER_MAP (i : Nat) : Field := ⟨(0x1A110 + 4 * (i / 4)), (8 * (i % 4)), 6, i, .ro⟩
def SHA2_MAP (i : Nat) : Field := ⟨(0x1A130 + 4 * (i / 4)), (8 * (i % 4)), 6, i, .ro⟩
def LANE_MAP (i : Nat) : Field := ⟨(0x1A150 + 4 * (i / 4)), (8 * (i % 4)), 6, i, .ro⟩
def KECCAK_MAP (i : Nat) : Field := ⟨(0x1A170 + 4 * (i / 4)), (8 * (i % 4)), 7, i, .ro⟩
def CIPHER_RET (i : Nat) : Field := ⟨(0x1A1B0 + 4 * i), 0, 32, 0, .ro⟩
def SHA2_RET (i : Nat) : Field := ⟨(0x1A1B8 + 4 * i), 0, 32, 0, .ro⟩
def LANE_RET (i : Nat) : Field := ⟨(0x1A1C0 + 4 * i), 0, 32, 0, .ro⟩
def KECCAK_RET (i : Nat) : Field := ⟨(0x1A1C8 + 4 * i), 0, 32, 0, .ro⟩
def KIND : Field := ⟨0x1A1E0, 24, 4, 0, .wo⟩
def LUNIT : Field := ⟨0x1A1E0, 16, 7, 0, .wo⟩
def OP : Field := ⟨0x1A1E0, 0, 4, 0, .wo⟩
def PENDING : Field := ⟨0x1A1E4, 31, 1, 0, .ro⟩
def CARRY_WAIT : Field := ⟨0x1A1E4, 29, 1, 0, .ro⟩
def AUTO : Field := ⟨0x1A1E4, 28, 1, 0, .ro⟩
def KIND_1A1E4 : Field := ⟨0x1A1E4, 24, 4, 0, .ro⟩
def LUNIT_1A1E4 : Field := ⟨0x1A1E4, 16, 7, 0, .ro⟩
def FROM : Field := ⟨0x1A1E4, 8, 7, 0, .ro⟩
def TO : Field := ⟨0x1A1E4, 0, 7, 0, .ro⟩
def LR_KIND : Field := ⟨0x1A1E8, 28, 4, 0, .ro⟩
def LR_YARD : Field := ⟨0x1A1E8, 22, 6, 0, .ro⟩
def LR_PHYS : Field := ⟨0x1A1E8, 15, 7, 0, .ro⟩
def LR_CAUSE : Field := ⟨0x1A1E8, 0, 8, 0, .ro⟩
def LR_FRAME : Field := ⟨0x1A1EC, 0, 32, 0, .ro⟩
def RETIRE_CNT : Field := ⟨0x1A1F0, 0, 16, 0, .ro⟩
def RETIRED_TOTAL : Field := ⟨0x1A1F4, 0, 16, 0, .ro⟩
/-- Every field of the page. -/
def all : List Field :=
    [AUTO_SPARE, SHEAVE_LEFT, KECCAK_LEFT, LANE_LEFT, SHA2_LEFT, CIPHER_LEFT, KIND, LUNIT, OP, PENDING, CARRY_WAIT, AUTO, KIND_1A1E4, LUNIT_1A1E4, FROM, TO, LR_KIND, LR_YARD, LR_PHYS, LR_CAUSE, LR_FRAME, RETIRE_CNT, RETIRED_TOTAL] ++
    (List.range 32).map CIPHER_MAP ++
    (List.range 32).map SHA2_MAP ++
    (List.range 32).map LANE_MAP ++
    (List.range 64).map KECCAK_MAP ++
    (List.range 2).map CIPHER_RET ++
    (List.range 2).map SHA2_RET ++
    (List.range 2).map LANE_RET ++
    (List.range 3).map KECCAK_RET
end Reg.SPARES

/-! ### Page CIPHER -/
namespace Reg.CIPHER
def MISMATCH_CNT : Field := ⟨0x8100, 0, 32, 0, .ro⟩
def PAIR_FAULTS (i : Nat) : Field := ⟨(0x8104 + 4 * i), 0, 32, 0, .ro⟩
def LF_CODE : Field := ⟨0x8118, 24, 8, 0, .ro⟩
def LF_PHYS : Field := ⟨0x8118, 16, 6, 0, .ro⟩
def LF_PART : Field := ⟨0x8118, 8, 8, 0, .ro⟩
def LF_CLASS : Field := ⟨0x8118, 0, 8, 0, .ro⟩
def LF_FRAME : Field := ⟨0x811C, 0, 32, 0, .ro⟩
def KAT_FAIL_LO : Field := ⟨0x8120, 0, 32, 0, .ro⟩
def KAT_FAIL_HI : Field := ⟨0x8124, 0, 2, 0, .ro⟩
def MASK_EXHAUSTED : Field := ⟨0x8128, 1, 1, 0, .ro⟩
def MASK_READY : Field := ⟨0x8128, 0, 1, 0, .ro⟩
def USAGE_MISMATCH_CNT : Field := ⟨0x812C, 0, 32, 0, .ro⟩
def BLOCK_CNT_LO : Field := ⟨0x8130, 0, 32, 0, .ro⟩
def BLOCK_CNT_HI : Field := ⟨0x8134, 0, 32, 0, .ro⟩
/-- Every field of the page. -/
def all : List Field :=
    [MISMATCH_CNT, LF_CODE, LF_PHYS, LF_PART, LF_CLASS, LF_FRAME, KAT_FAIL_LO, KAT_FAIL_HI, MASK_EXHAUSTED, MASK_READY, USAGE_MISMATCH_CNT, BLOCK_CNT_LO, BLOCK_CNT_HI] ++
    (List.range 5).map PAIR_FAULTS
end Reg.CIPHER

/-! ### Page HASH -/
namespace Reg.HASH
def STATE_FAULT_CNT : Field := ⟨0x9100, 0, 32, 0, .ro⟩
def KECCAK_FAULTS (i : Nat) : Field := ⟨(0x9104 + 4 * i), 0, 32, 0, .ro⟩
def SHA2_FAULTS (i : Nat) : Field := ⟨(0x9128 + 4 * i), 0, 32, 0, .ro⟩
def LF_CODE : Field := ⟨0x913C, 24, 8, 0, .ro⟩
def LF_KIND : Field := ⟨0x913C, 23, 1, 0, .ro⟩
def LF_PHYS : Field := ⟨0x913C, 16, 7, 0, .ro⟩
def LF_PART : Field := ⟨0x913C, 8, 8, 0, .ro⟩
def LF_CLASS : Field := ⟨0x913C, 0, 8, 0, .ro⟩
def LF_FRAME : Field := ⟨0x9140, 0, 32, 0, .ro⟩
def KECCAK_KAT_FAIL (i : Nat) : Field := ⟨(0x9144 + 4 * i), 0, 32, 0, .ro⟩
def SHA2_KAT_FAIL_LO : Field := ⟨0x9150, 0, 32, 0, .ro⟩
def SHA2_KAT_FAIL_HI : Field := ⟨0x9154, 0, 2, 0, .ro⟩
def MISUSE_CNT : Field := ⟨0x9158, 0, 32, 0, .ro⟩
def PERM_CNT_LO : Field := ⟨0x9160, 0, 32, 0, .ro⟩
def PERM_CNT_HI : Field := ⟨0x9164, 0, 32, 0, .ro⟩
def COMP_CNT_LO : Field := ⟨0x9168, 0, 32, 0, .ro⟩
def COMP_CNT_HI : Field := ⟨0x916C, 0, 32, 0, .ro⟩
/-- Every field of the page. -/
def all : List Field :=
    [STATE_FAULT_CNT, LF_CODE, LF_KIND, LF_PHYS, LF_PART, LF_CLASS, LF_FRAME, SHA2_KAT_FAIL_LO, SHA2_KAT_FAIL_HI, MISUSE_CNT, PERM_CNT_LO, PERM_CNT_HI, COMP_CNT_LO, COMP_CNT_HI] ++
    (List.range 9).map KECCAK_FAULTS ++
    (List.range 5).map SHA2_FAULTS ++
    (List.range 3).map KECCAK_KAT_FAIL
end Reg.HASH

/-! ### Page BNE -/
namespace Reg.BNE
def REGION_SEL : Field := ⟨0xA100, 0, 8, 0, .rw⟩
def R_VALID : Field := ⟨0xA104, 31, 1, 0, .ro⟩
def R_BASE : Field := ⟨0xA104, 0, 16, 0, .ro⟩
def R_SLOT_LEN : Field := ⟨0xA108, 24, 8, 0, .ro⟩
def R_SLOTS : Field := ⟨0xA108, 0, 17, 0, .ro⟩
def R_STALE : Field := ⟨0xA10C, 0, 17, 0, .ro⟩
def OPM_PART : Field := ⟨0xA110, 16, 8, 0, .rw⟩
def OPM_SLOT : Field := ⟨0xA110, 0, 16, 0, .rw⟩
def OPM_WORD : Field := ⟨0xA114, 0, 7, 0, .rw⟩
def OPM_READ : Field := ⟨0xA118, 0, 1, 0, .wo⟩
def OPM_DATA_LO : Field := ⟨0xA11C, 0, 32, 0, .ro⟩
def OPM_DATA_HI : Field := ⟨0xA120, 0, 32, 0, .ro⟩
def DONE : Field := ⟨0xA124, 31, 1, 0, .ro⟩
def OWNER : Field := ⟨0xA124, 16, 10, 0x3FF, .ro⟩
def BUSY : Field := ⟨0xA124, 3, 1, 0, .ro⟩
def LINKED : Field := ⟨0xA124, 2, 1, 0, .ro⟩
def SEC : Field := ⟨0xA124, 1, 1, 0, .ro⟩
def STALE : Field := ⟨0xA124, 0, 1, 0, .ro⟩
def SIG_FAULT_CNT : Field := ⟨0xA130, 0, 32, 0, .ro⟩
def LANE_FAULTS (i : Nat) : Field := ⟨(0xA134 + 4 * i), 0, 32, 0, .ro⟩
def LF_CODE : Field := ⟨0xA148, 24, 8, 0, .ro⟩
def LF_PART : Field := ⟨0xA148, 8, 8, 0, .ro⟩
def LF_CLASS : Field := ⟨0xA148, 0, 8, 0, .ro⟩
def LF_FRAME : Field := ⟨0xA14C, 0, 32, 0, .ro⟩
def LF_LANES_LO : Field := ⟨0xA150, 0, 32, 0, .ro⟩
def LF_LANES_HI : Field := ⟨0xA154, 0, 2, 0, .ro⟩
def BLIND_EXHAUSTED : Field := ⟨0xA158, 1, 1, 0, .ro⟩
def BLIND_READY : Field := ⟨0xA158, 0, 1, 0, .ro⟩
def KAT_FAIL_LO : Field := ⟨0xA15C, 0, 32, 0, .ro⟩
def KAT_FAIL_HI : Field := ⟨0xA160, 0, 2, 0, .ro⟩
def INPUT_ERR_CNT : Field := ⟨0xA164, 0, 32, 0, .ro⟩
def STALE_MARK_CNT : Field := ⟨0xA168, 0, 32, 0, .ro⟩
def OPM_UE_CNT : Field := ⟨0xA16C, 16, 16, 0, .ro⟩
def OPM_CE_CNT : Field := ⟨0xA16C, 0, 16, 0, .ro⟩
def LANE_CYCLES_LO : Field := ⟨0xA170, 0, 32, 0, .ro⟩
def LANE_CYCLES_HI : Field := ⟨0xA174, 0, 32, 0, .ro⟩
/-- Every field of the page. -/
def all : List Field :=
    [REGION_SEL, R_VALID, R_BASE, R_SLOT_LEN, R_SLOTS, R_STALE, OPM_PART, OPM_SLOT, OPM_WORD, OPM_READ, OPM_DATA_LO, OPM_DATA_HI, DONE, OWNER, BUSY, LINKED, SEC, STALE, SIG_FAULT_CNT, LF_CODE, LF_PART, LF_CLASS, LF_FRAME, LF_LANES_LO] ++
    [LF_LANES_HI, BLIND_EXHAUSTED, BLIND_READY, KAT_FAIL_LO, KAT_FAIL_HI, INPUT_ERR_CNT, STALE_MARK_CNT, OPM_UE_CNT, OPM_CE_CNT, LANE_CYCLES_LO, LANE_CYCLES_HI] ++
    (List.range 5).map LANE_FAULTS
end Reg.BNE

/-! ### Page PU -/
namespace Reg.PU
def SIG_FAULT_CNT : Field := ⟨0xB100, 0, 32, 0, .ro⟩
def CLUSTER_FAULTS (i : Nat) : Field := ⟨(0xB104 + 4 * i), 0, 32, 0, .ro⟩
def LF_CODE : Field := ⟨0xB10C, 24, 8, 0, .ro⟩
def LF_CLUSTER : Field := ⟨0xB10C, 16, 4, 0, .ro⟩
def LF_PART : Field := ⟨0xB10C, 8, 8, 0, .ro⟩
def LF_CLASS : Field := ⟨0xB10C, 0, 8, 0, .ro⟩
def LF_FRAME : Field := ⟨0xB110, 0, 32, 0, .ro⟩
def RETIRE_REQ : Field := ⟨0xB114, 0, 16, 0, .ro⟩
def KAT_FAIL : Field := ⟨0xB118, 0, 16, 0, .ro⟩
def SIGN_F_CNT (i : Nat) : Field := ⟨(0xB120 + 4 * i), 0, 32, 0, .ro⟩
def ITER_CNT_LO : Field := ⟨0xB130, 0, 32, 0, .ro⟩
def ITER_CNT_HI : Field := ⟨0xB134, 0, 32, 0, .ro⟩
def PUM_UE_CNT : Field := ⟨0xB138, 16, 16, 0, .ro⟩
def PUM_CE_CNT : Field := ⟨0xB138, 0, 16, 0, .ro⟩
def CLUSTER_CYCLES_LO : Field := ⟨0xB13C, 0, 32, 0, .ro⟩
def CLUSTER_CYCLES_HI : Field := ⟨0xB140, 0, 32, 0, .ro⟩
/-- Every field of the page. -/
def all : List Field :=
    [SIG_FAULT_CNT, LF_CODE, LF_CLUSTER, LF_PART, LF_CLASS, LF_FRAME, RETIRE_REQ, KAT_FAIL, ITER_CNT_LO, ITER_CNT_HI, PUM_UE_CNT, PUM_CE_CNT, CLUSTER_CYCLES_LO, CLUSTER_CYCLES_HI] ++
    (List.range 2).map CLUSTER_FAULTS ++
    (List.range 4).map SIGN_F_CNT
end Reg.PU

/-! ### Page CLEAT0 -/
namespace Reg.CLEAT0
def ROWS_USED : Field := ⟨0xC100, 0, 18, 0, .ro⟩
def WRITES_PENDING : Field := ⟨0xC104, 0, 9, 0, .ro⟩
def SPARE_LEFT : Field := ⟨0xC108, 0, 13, 0x1000, .ro⟩
def VAULT_PENDING : Field := ⟨0xC10C, 0, 18, 0, .ro⟩
def ALLOC_HALF : Field := ⟨0xC110, 8, 2, 0, .ro⟩
def VK_READY : Field := ⟨0xC110, 4, 1, 0, .ro⟩
def VAULT_STATE : Field := ⟨0xC110, 0, 2, 0, .ro⟩
def RELOAD_US : Field := ⟨0xC114, 0, 32, 0, .ro⟩
def MIRROR_PENDING : Field := ⟨0xC118, 0, 18, 0, .ro⟩
def CHECK_FAIL_CNT : Field := ⟨0xC11C, 0, 16, 0, .ro⟩
def RESTORED : Field := ⟨0xC120, 31, 1, 0, .ro⟩
def LAST_BAD_ROW : Field := ⟨0xC120, 0, 17, 0, .ro⟩
def LAST_BAD_FRAME : Field := ⟨0xC124, 0, 32, 0, .ro⟩
def GRANT_CNT_LO : Field := ⟨0xC128, 0, 32, 0, .ro⟩
def GRANT_CNT_HI : Field := ⟨0xC12C, 0, 32, 0, .ro⟩
def ABSENT_CNT : Field := ⟨0xC130, 0, 32, 0, .ro⟩
def USAGE_CNT : Field := ⟨0xC134, 0, 32, 0, .ro⟩
def SCRUB_EN : Field := ⟨0xC138, 0, 1, 1, .rwl⟩
def SCRUB_PASS_CNT : Field := ⟨0xC13C, 0, 32, 0, .ro⟩
def VAULT_SECT_BAD : Field := ⟨0xC140, 0, 16, 0, .ro⟩
def CKPT_STALL_CNT : Field := ⟨0xC144, 0, 32, 0, .ro⟩
/-- Every field of the page. -/
def all : List Field :=
    [ROWS_USED, WRITES_PENDING, SPARE_LEFT, VAULT_PENDING, ALLOC_HALF, VK_READY, VAULT_STATE, RELOAD_US, MIRROR_PENDING, CHECK_FAIL_CNT, RESTORED, LAST_BAD_ROW, LAST_BAD_FRAME, GRANT_CNT_LO, GRANT_CNT_HI, ABSENT_CNT, USAGE_CNT, SCRUB_EN, SCRUB_PASS_CNT, VAULT_SECT_BAD, CKPT_STALL_CNT]
end Reg.CLEAT0

/-! ### Page CLEAT1 -/
namespace Reg.CLEAT1
def CMD_HANDLE : Field := ⟨0xD100, 0, 32, 0, .rw⟩
def CMD_OP : Field := ⟨0xD104, 0, 4, 0, .wo⟩
def BUSY : Field := ⟨0xD108, 31, 1, 0, .ro⟩
def DONE : Field := ⟨0xD108, 30, 1, 0, .ro⟩
def KREASON : Field := ⟨0xD108, 8, 8, 0, .ro⟩
def RESULT : Field := ⟨0xD108, 0, 8, 0, .ro⟩
def RESTRICT_USAGE : Field := ⟨0xD10C, 0, 8, 0xFF, .rw⟩
def RESTRICT_LIMIT : Field := ⟨0xD110, 0, 32, 0, .rw⟩
def RESTRICT_NA_LO : Field := ⟨0xD114, 0, 32, 0, .rw⟩
def RESTRICT_NA_HI : Field := ⟨0xD118, 0, 16, 0, .rw⟩
def ATTR (i : Nat) : Field := ⟨(0xD120 + 4 * i), 0, 32, 0, .ro⟩
def CNT (i : Nat) : Field := ⟨(0xD140 + 4 * i), 0, 32, 0, .ro⟩
def PHYS_ROW : Field := ⟨0xD150, 0, 18, 0, .ro⟩
/-- Every field of the page. -/
def all : List Field :=
    [CMD_HANDLE, CMD_OP, BUSY, DONE, KREASON, RESULT, RESTRICT_USAGE, RESTRICT_LIMIT, RESTRICT_NA_LO, RESTRICT_NA_HI, PHYS_ROW] ++
    (List.range 8).map ATTR ++
    (List.range 4).map CNT
end Reg.CLEAT1

/-! ### Page HOSTIF -/
namespace Reg.HOSTIF
def DL_UP : Field := ⟨0x15100, 8, 1, 0, .ro⟩
def WIDTH : Field := ⟨0x15100, 4, 4, 0, .ro⟩
def SPEED : Field := ⟨0x15100, 0, 4, 0, .ro⟩
def LINK_DOWN_CNT : Field := ⟨0x15104, 0, 16, 0, .ro⟩
def MPS : Field := ⟨0x15108, 8, 3, 0, .ro⟩
def MRRS : Field := ⟨0x15108, 0, 3, 0, .ro⟩
def MGR_VECTOR : Field := ⟨0x1510C, 0, 11, 0, .rw⟩
def INT_CYCLE : Field := ⟨0x15110, 0, 16, 0x26C0, .rw⟩
def RING_SEL : Field := ⟨0x15120, 0, 12, 0, .rw⟩
def DB_SLOT : Field := ⟨0x15124, 8, 6, 0, .rw⟩
def RING_PART : Field := ⟨0x15124, 0, 8, 0, .rw⟩
def SQ_BASE_LO : Field := ⟨0x15128, 12, 20, 0, .rw⟩
def SQ_BASE_HI : Field := ⟨0x1512C, 0, 32, 0, .rw⟩
def CQ_BASE_LO : Field := ⟨0x15130, 12, 20, 0, .rw⟩
def CQ_BASE_HI : Field := ⟨0x15134, 0, 32, 0, .rw⟩
def CQ_LOG2 : Field := ⟨0x15138, 16, 5, 4, .rw⟩
def SQ_LOG2 : Field := ⟨0x15138, 0, 5, 4, .rw⟩
def IMODE : Field := ⟨0x1513C, 30, 2, 0, .rw⟩
def VECTOR : Field := ⟨0x1513C, 16, 11, 0, .rw⟩
def ICOUNT : Field := ⟨0x1513C, 0, 9, 1, .rw⟩
def RING_CMD : Field := ⟨0x15140, 0, 4, 0, .wo⟩
def STATE : Field := ⟨0x15144, 30, 2, 0, .ro⟩
def STOP_CAUSE : Field := ⟨0x15144, 24, 4, 0, .ro⟩
def SQ_FETCH : Field := ⟨0x15144, 0, 16, 0, .ro⟩
def SQ_TAIL : Field := ⟨0x15148, 16, 16, 0, .ro⟩
def CQ_TAIL : Field := ⟨0x15148, 0, 16, 0, .ro⟩
def CQ_RSV : Field := ⟨0x1514C, 16, 16, 0, .ro⟩
def CQ_HEAD : Field := ⟨0x1514C, 0, 16, 0, .ro⟩
def BATCH_OPEN : Field := ⟨0x15150, 31, 1, 0, .ro⟩
def REVOKE_PEND : Field := ⟨0x15150, 30, 1, 0, .ro⟩
def CQ_PHASE : Field := ⟨0x15150, 29, 1, 1, .ro⟩
def SQ_PHASE : Field := ⟨0x15150, 28, 1, 1, .ro⟩
def RING_INFLIGHT : Field := ⟨0x15150, 0, 15, 0, .ro⟩
def CAUSE : Field := ⟨0x15160, 24, 8, 0, .ro⟩
def RING : Field := ⟨0x15160, 8, 12, 0, .ro⟩
def PART : Field := ⟨0x15160, 0, 8, 0, .ro⟩
def INDEX : Field := ⟨0x15164, 16, 16, 0, .ro⟩
def HERR_COUNT : Field := ⟨0x15164, 0, 7, 0, .ro⟩
def HERR_FRAME : Field := ⟨0x15168, 0, 32, 0, .ro⟩
def FETCH_CNT_LO : Field := ⟨0x15170, 0, 32, 0, .ro⟩
def FETCH_CNT_HI : Field := ⟨0x15174, 0, 32, 0, .ro⟩
def CPL_CNT_LO : Field := ⟨0x15178, 0, 32, 0, .ro⟩
def CPL_CNT_HI : Field := ⟨0x1517C, 0, 32, 0, .ro⟩
def MSI_CNT : Field := ⟨0x15180, 0, 32, 0, .ro⟩
/-- Every field of the page. -/
def all : List Field :=
    [DL_UP, WIDTH, SPEED, LINK_DOWN_CNT, MPS, MRRS, MGR_VECTOR, INT_CYCLE, RING_SEL, DB_SLOT, RING_PART, SQ_BASE_LO, SQ_BASE_HI, CQ_BASE_LO, CQ_BASE_HI, CQ_LOG2, SQ_LOG2, IMODE, VECTOR, ICOUNT, RING_CMD, STATE, STOP_CAUSE, SQ_FETCH] ++
    [SQ_TAIL, CQ_TAIL, CQ_RSV, CQ_HEAD, BATCH_OPEN, REVOKE_PEND, CQ_PHASE, SQ_PHASE, RING_INFLIGHT, CAUSE, RING, PART, INDEX, HERR_COUNT, HERR_FRAME, FETCH_CNT_LO, FETCH_CNT_HI, CPL_CNT_LO, CPL_CNT_HI, MSI_CNT]
end Reg.HOSTIF

/-! ### Page PART -/
namespace Reg.PART
def PART_SEL : Field := ⟨0x16100, 0, 8, 0, .rw⟩
def PASID : Field := ⟨0x16104, 0, 20, 0, .rw⟩
def RING_QUOTA : Field := ⟨0x16108, 24, 7, 0, .rw⟩
def CLEAT_QUOTA : Field := ⟨0x16108, 0, 18, 0, .rw⟩
def OPM_BASE : Field := ⟨0x1610C, 16, 16, 0, .rw⟩
def OPM_SLOT_LEN : Field := ⟨0x1610C, 0, 8, 4, .rw⟩
def OPM_SLOTS : Field := ⟨0x16110, 0, 17, 0, .rw⟩
def VEC_COUNT : Field := ⟨0x16114, 16, 12, 1, .rw⟩
def VEC_BASE : Field := ⟨0x16114, 0, 11, 0, .rw⟩
def Q : Field := ⟨0x16118, 8, 1, 0, .wo⟩
def OP : Field := ⟨0x16118, 0, 4, 0, .wo⟩
def BUSY : Field := ⟨0x1611C, 31, 1, 0, .ro⟩
def DONE : Field := ⟨0x1611C, 30, 1, 0, .ro⟩
def DIRTY_ON : Field := ⟨0x1611C, 29, 1, 0, .ro⟩
def DIRTY_ACTIVE : Field := ⟨0x1611C, 28, 1, 0, .ro⟩
def QUIESCE : Field := ⟨0x1611C, 27, 1, 0, .ro⟩
def P_STATE : Field := ⟨0x1611C, 0, 3, 0, .ro⟩
def IN_FLIGHT : Field := ⟨0x16120, 0, 15, 0, .ro⟩
def ROWS_USED : Field := ⟨0x16124, 0, 18, 0, .ro⟩
def CREATE_FRAME : Field := ⟨0x16128, 0, 32, 0, .ro⟩
def CHAIN_HEAD (i : Nat) : Field := ⟨(0x16130 + 4 * i), 0, 32, 0, .ro⟩
def HEAD_FRAME_LO : Field := ⟨0x16150, 0, 32, 0, .ro⟩
def HEAD_FRAME_HI : Field := ⟨0x16154, 0, 32, 0, .ro⟩
def DIRTY_A_LO : Field := ⟨0x16160, 12, 20, 0, .rw⟩
def DIRTY_A_HI : Field := ⟨0x16164, 0, 32, 0, .rw⟩
def DIRTY_B_LO : Field := ⟨0x16168, 12, 20, 0, .rw⟩
def DIRTY_B_HI : Field := ⟨0x1616C, 0, 32, 0, .rw⟩
def DIRTY_SPAN : Field := ⟨0x16170, 0, 28, 0, .rw⟩
def DIRTY_FRAME : Field := ⟨0x16174, 0, 32, 0, .ro⟩
def BEYOND : Field := ⟨0x16178, 1, 1, 0, .ro⟩
def ACC_FULL : Field := ⟨0x16178, 0, 1, 0, .ro⟩
def BLOB_ADDR_LO : Field := ⟨0x16180, 0, 32, 0, .rw⟩
def BLOB_ADDR_HI : Field := ⟨0x16184, 0, 32, 0, .rw⟩
def BLOB_LEN : Field := ⟨0x16188, 0, 32, 0, .rw⟩
def BLOB_OUT_LEN : Field := ⟨0x1618C, 0, 32, 0, .ro⟩
/-- Every field of the page. -/
def all : List Field :=
    [PART_SEL, PASID, RING_QUOTA, CLEAT_QUOTA, OPM_BASE, OPM_SLOT_LEN, OPM_SLOTS, VEC_COUNT, VEC_BASE, Q, OP, BUSY, DONE, DIRTY_ON, DIRTY_ACTIVE, QUIESCE, P_STATE, IN_FLIGHT, ROWS_USED, CREATE_FRAME, HEAD_FRAME_LO, HEAD_FRAME_HI, DIRTY_A_LO, DIRTY_A_HI] ++
    [DIRTY_B_LO, DIRTY_B_HI, DIRTY_SPAN, DIRTY_FRAME, BEYOND, ACC_FULL, BLOB_ADDR_LO, BLOB_ADDR_HI, BLOB_LEN, BLOB_OUT_LEN] ++
    (List.range 8).map CHAIN_HEAD
end Reg.PART

/-! ### Page STAY -/
namespace Reg.STAY
def LSTATE : Field := ⟨0x14100, 30, 2, 0, .ro⟩
def PSTATE : Field := ⟨0x14100, 27, 3, 0, .ro⟩
def SPLIT_RIG : Field := ⟨0x14100, 26, 1, 0, .ro⟩
def SPLIT_CFG : Field := ⟨0x14100, 25, 1, 0, .ro⟩
def MODE : Field := ⟨0x14100, 8, 3, 0, .ro⟩
def VERSION : Field := ⟨0x14100, 0, 4, 0, .ro⟩
def PAIR_MODE : Field := ⟨0x14104, 16, 2, 0, .ro⟩
def ROLE_CFG : Field := ⟨0x14104, 12, 1, 0, .ro⟩
def ROLE_NOW : Field := ⟨0x14104, 8, 1, 0, .ro⟩
def PROMOTE_AUTO : Field := ⟨0x14104, 4, 1, 0, .rwl⟩
def MAX_LANES : Field := ⟨0x14104, 2, 2, 0, .rwl⟩
def MAX_RATE : Field := ⟨0x14104, 0, 1, 0, .rwl⟩
def LINK_LAT : Field := ⟨0x14108, 0, 16, 0, .ro⟩
def LOST_CNT : Field := ⟨0x1410C, 16, 16, 0, .ro⟩
def HB_MISS : Field := ⟨0x1410C, 0, 2, 0, .ro⟩
def LOST_FRAME : Field := ⟨0x14110, 0, 32, 0, .ro⟩
def DUP_HOLD : Field := ⟨0x14114, 0, 21, 0x186A0, .rw⟩
def DUP_RECORDS : Field := ⟨0x14118, 0, 19, 0, .ro⟩
def DUP_CNT : Field := ⟨0x1411C, 0, 32, 0, .ro⟩
def MIRROR_OUT : Field := ⟨0x14120, 0, 16, 0, .ro⟩
def RETRY_CNT : Field := ⟨0x14124, 0, 32, 0, .ro⟩
def CRC_ERR_CNT : Field := ⟨0x14128, 0, 32, 0, .ro⟩
def CONFIG_GEN : Field := ⟨0x1412C, 0, 32, 0, .ro⟩
def TWIN_FP (i : Nat) : Field := ⟨(0x14130 + 4 * i), 0, 32, 0, .ro⟩
def TWIN_HEAD_SEL : Field := ⟨0x14150, 0, 8, 0, .rw⟩
def TWIN_HEAD (i : Nat) : Field := ⟨(0x14154 + 4 * i), 0, 32, 0, .ro⟩
def TWIN_HEAD_FRAME_LO : Field := ⟨0x14174, 0, 32, 0, .ro⟩
def TWIN_HEAD_FRAME_HI : Field := ⟨0x14178, 0, 32, 0, .ro⟩
def LINK_CMD : Field := ⟨0x14180, 0, 4, 0, .wo⟩
def RESYNC_RUN : Field := ⟨0x14184, 31, 1, 0, .ro⟩
def ROWS_LEFT : Field := ⟨0x14184, 0, 18, 0, .ro⟩
def RESYNC_CONFLICT_CNT : Field := ⟨0x14188, 0, 16, 0, .ro⟩
/-- Every field of the page. -/
def all : List Field :=
    [LSTATE, PSTATE, SPLIT_RIG, SPLIT_CFG, MODE, VERSION, PAIR_MODE, ROLE_CFG, ROLE_NOW, PROMOTE_AUTO, MAX_LANES, MAX_RATE, LINK_LAT, LOST_CNT, HB_MISS, LOST_FRAME, DUP_HOLD, DUP_RECORDS, DUP_CNT, MIRROR_OUT, RETRY_CNT, CRC_ERR_CNT, CONFIG_GEN, TWIN_HEAD_SEL] ++
    [TWIN_HEAD_FRAME_LO, TWIN_HEAD_FRAME_HI, LINK_CMD, RESYNC_RUN, ROWS_LEFT, RESYNC_CONFLICT_CNT] ++
    (List.range 8).map TWIN_FP ++
    (List.range 8).map TWIN_HEAD
end Reg.STAY

/-! ### Page SPRING -/
namespace Reg.SPRING
def HF_FRAMES : Field := ⟨0xE100, 8, 8, 0, .ro⟩
def TESTPAT_ON : Field := ⟨0xE100, 3, 1, 0, .ro⟩
def HEALTH_FAIL : Field := ⟨0xE100, 2, 1, 0, .ro⟩
def STARTUP_DONE : Field := ⟨0xE100, 1, 1, 0, .ro⟩
def SEED_READY : Field := ⟨0xE100, 0, 1, 0, .ro⟩
def RETIRED : Field := ⟨0xE104, 16, 10, 0, .ro⟩
def FEEDING : Field := ⟨0xE104, 0, 10, 0, .ro⟩
def SPARE_LEFT : Field := ⟨0xE108, 16, 4, 2, .ro⟩
def SUSPENDED : Field := ⟨0xE108, 0, 10, 0, .ro⟩
def EST_VALID : Field := ⟨0xE10C, 8, 1, 0, .ro⟩
def CELL_SEL : Field := ⟨0xE10C, 0, 4, 0, .rw⟩
def CORR : Field := ⟨0xE110, 16, 16, 0, .ro⟩
def BIAS : Field := ⟨0xE110, 0, 16, 0, .ro⟩
def RCT_FAILS : Field := ⟨0xE114, 16, 16, 0, .ro⟩
def APT_FAILS : Field := ⟨0xE114, 0, 16, 0, .ro⟩
def BIAS_HI : Field := ⟨0xE118, 16, 16, 0x9000, .rwl⟩
def BIAS_LO : Field := ⟨0xE118, 0, 16, 0x7000, .rwl⟩
def EST_ACTION : Field := ⟨0xE11C, 16, 1, 1, .rwl⟩
def CORR_LIMIT : Field := ⟨0xE11C, 0, 16, 0x1000, .rwl⟩
def APT_CUTOFF : Field := ⟨0xE120, 16, 10, 0x348, .ro⟩
def RCT_CUTOFF : Field := ⟨0xE120, 0, 8, 0x51, .ro⟩
def STARTUP_US : Field := ⟨0xE124, 0, 16, 0, .ro⟩
def HF_CNT : Field := ⟨0xE128, 0, 16, 0, .ro⟩
def COND_CNT : Field := ⟨0xE12C, 0, 32, 0, .ro⟩
def EN : Field := ⟨0xE140, 31, 1, 0, .rw⟩
def PATTERN : Field := ⟨0xE140, 0, 16, 0, .rw⟩
def TEST_OUT (i : Nat) : Field := ⟨(0xE144 + 4 * i), 0, 32, 0, .ro⟩
/-- Every field of the page. -/
def all : List Field :=
    [HF_FRAMES, TESTPAT_ON, HEALTH_FAIL, STARTUP_DONE, SEED_READY, RETIRED, FEEDING, SPARE_LEFT, SUSPENDED, EST_VALID, CELL_SEL, CORR, BIAS, RCT_FAILS, APT_FAILS, BIAS_HI, BIAS_LO, EST_ACTION, CORR_LIMIT, APT_CUTOFF, RCT_CUTOFF, STARTUP_US, HF_CNT, COND_CNT] ++
    [EN, PATTERN] ++
    (List.range 8).map TEST_OUT
end Reg.SPRING

/-! ### Page ART -/
namespace Reg.ART
def RULE_SEL : Field := ⟨0x11100, 0, 10, 0, .rw⟩
def SH_BASE_LO : Field := ⟨0x11104, 6, 26, 0, .rw⟩
def SH_BASE_HI : Field := ⟨0x11108, 0, 8, 0, .rw⟩
def SH_LIMIT_LO : Field := ⟨0x1110C, 6, 26, 0, .rw⟩
def SH_LIMIT_HI : Field := ⟨0x11110, 0, 8, 0, .rw⟩
def VALID : Field := ⟨0x11114, 31, 1, 0, .rw⟩
def HOST : Field := ⟨0x11114, 30, 1, 0, .rw⟩
def PART_ANY : Field := ⟨0x11114, 29, 1, 0, .rw⟩
def X : Field := ⟨0x11114, 28, 1, 0, .rw⟩
def W : Field := ⟨0x11114, 27, 1, 0, .rw⟩
def R : Field := ⟨0x11114, 26, 1, 0, .rw⟩
def ID : Field := ⟨0x11114, 16, 10, 0, .rw⟩
def ID_MASK : Field := ⟨0x11114, 0, 10, 0, .rw⟩
def SH_PART : Field := ⟨0x11118, 0, 8, 0, .rw⟩
def COMMIT : Field := ⟨0x11140, 0, 1, 0, .wo⟩
def PENDING : Field := ⟨0x11144, 0, 1, 0, .ro⟩
def COMMIT_FRAME : Field := ⟨0x11148, 0, 32, 0, .ro⟩
def HOLD_MAX : Field := ⟨0x1114C, 16, 7, 0, .ro⟩
def HOLD_LAST : Field := ⟨0x1114C, 0, 7, 0, .ro⟩
def IMPRECISE : Field := ⟨0x11150, 31, 1, 0, .ro⟩
def WRITE : Field := ⟨0x11150, 30, 1, 0, .ro⟩
def HOST_11150 : Field := ⟨0x11150, 29, 1, 0, .ro⟩
def FETCH : Field := ⟨0x11150, 28, 1, 0, .ro⟩
def ERR_INIT : Field := ⟨0x11150, 16, 10, 0, .ro⟩
def ERR_PART : Field := ⟨0x11150, 0, 8, 0, .ro⟩
def ERR_PAGE : Field := ⟨0x11154, 0, 28, 0, .ro⟩
def ERR_FRAME : Field := ⟨0x11158, 0, 32, 0, .ro⟩
def ERR_COUNT : Field := ⟨0x1115C, 0, 7, 0, .ro⟩
def DENY_CNT : Field := ⟨0x11160, 0, 32, 0, .ro⟩
def OVF_CNT : Field := ⟨0x11164, 0, 32, 0, .ro⟩
/-- Every field of the page. -/
def all : List Field :=
    [RULE_SEL, SH_BASE_LO, SH_BASE_HI, SH_LIMIT_LO, SH_LIMIT_HI, VALID, HOST, PART_ANY, X, W, R, ID, ID_MASK, SH_PART, COMMIT, PENDING, COMMIT_FRAME, HOLD_MAX, HOLD_LAST, IMPRECISE, WRITE, HOST_11150, FETCH, ERR_INIT] ++
    [ERR_PART, ERR_PAGE, ERR_FRAME, ERR_COUNT, DENY_CNT, OVF_CNT]
end Reg.ART

/-! ### Page CVU -/
namespace Reg.CVU
def FIX_MM (i : Nat) : Field := ⟨(0x12100 + 4 * i), 0, 32, 0, .ro⟩
def POLY (h : Nat) : Field := ⟨(hostCvuBase h + 0x0), 8, 2, 0, .rw⟩
def FOLD_EN (h : Nat) : Field := ⟨(hostCvuBase h + 0x0), 4, 1, 0, .rw⟩
def CMP_EN (h : Nat) : Field := ⟨(hostCvuBase h + 0x0), 0, 1, 0, .rw⟩
def HPART (h : Nat) : Field := ⟨(hostCvuBase h + 0x4), 0, 8, 0, .rw⟩
def HADDR_LO (h : Nat) : Field := ⟨(hostCvuBase h + 0x8), 0, 32, 0, .rw⟩
def HADDR_HI (h : Nat) : Field := ⟨(hostCvuBase h + 0xC), 0, 32, 0, .rw⟩
def HLEN (h : Nat) : Field := ⟨(hostCvuBase h + 0x10), 0, 32, 0, .rw⟩
def HFOLD (h : Nat) : Field := ⟨(hostCvuBase h + 0x14), 0, 32, 0, .rw⟩
def HEXP_LO (h : Nat) : Field := ⟨(hostCvuBase h + 0x18), 0, 32, 0, .rw⟩
def HEXP_HI (h : Nat) : Field := ⟨(hostCvuBase h + 0x1C), 0, 32, 0, .rw⟩
def HGO (h : Nat) : Field := ⟨(hostCvuBase h + 0x20), 0, 1, 0, .wo⟩
def HRES_LO (h : Nat) : Field := ⟨(hostCvuBase h + 0x24), 0, 32, 0, .ro⟩
def HRES_HI (h : Nat) : Field := ⟨(hostCvuBase h + 0x28), 0, 32, 0, .ro⟩
def BUSY (h : Nat) : Field := ⟨(hostCvuBase h + 0x2C), 31, 1, 0, .ro⟩
def RESULT (h : Nat) : Field := ⟨(hostCvuBase h + 0x2C), 0, 3, 0, .ro⟩
def HFRAME (h : Nat) : Field := ⟨(hostCvuBase h + 0x30), 0, 32, 0, .ro⟩
/-- Every field of the page. -/
def all : List Field :=
    (List.range 6).map FIX_MM ++
    (List.range 16).map POLY ++
    (List.range 16).map FOLD_EN ++
    (List.range 16).map CMP_EN ++
    (List.range 16).map HPART ++
    (List.range 16).map HADDR_LO ++
    (List.range 16).map HADDR_HI ++
    (List.range 16).map HLEN ++
    (List.range 16).map HFOLD ++
    (List.range 16).map HEXP_LO ++
    (List.range 16).map HEXP_HI ++
    (List.range 16).map HGO ++
    (List.range 16).map HRES_LO ++
    (List.range 16).map HRES_HI ++
    (List.range 16).map BUSY ++
    (List.range 16).map RESULT ++
    (List.range 16).map HFRAME
end Reg.CVU

/-! ### Page FLASH -/
namespace Reg.FLASH
def FADDR : Field := ⟨0x13100, 0, 26, 0, .rw⟩
def FLEN : Field := ⟨0x13104, 0, 24, 0, .rw⟩
def OP : Field := ⟨0x13108, 0, 4, 0, .wo⟩
def CHECK_FOLD : Field := ⟨0x1310C, 8, 1, 0, .rw⟩
def REMAP_SPARE : Field := ⟨0x1310C, 0, 6, 0, .rw⟩
def CHECK_EXP : Field := ⟨0x13110, 0, 32, 0, .rw⟩
def CHECK_RES : Field := ⟨0x13114, 0, 32, 0, .ro⟩
def BUSY : Field := ⟨0x13118, 31, 1, 0, .ro⟩
def DONE : Field := ⟨0x13118, 30, 1, 0, .ro⟩
def RESULT : Field := ⟨0x13118, 0, 3, 0, .ro⟩
def OP_US : Field := ⟨0x1311C, 0, 16, 0, .ro⟩
def ECC_UE_CNT : Field := ⟨0x13120, 16, 16, 0, .ro⟩
def ECC_CE_CNT : Field := ⟨0x13120, 0, 16, 0, .ro⟩
def ECC_ADDR : Field := ⟨0x13124, 0, 26, 0, .ro⟩
def INCOMPLETE_CNT : Field := ⟨0x13128, 0, 8, 0, .ro⟩
def JOURNAL_SEQ : Field := ⟨0x1312C, 0, 32, 0, .ro⟩
def OTHER_VALID : Field := ⟨0x13130, 4, 1, 0, .ro⟩
def OPT_STATE : Field := ⟨0x13130, 0, 2, 0, .ro⟩
def OPT_GEN : Field := ⟨0x13134, 0, 32, 0, .ro⟩
def SPARES_LEFT (i : Nat) : Field := ⟨0x13138, (8 * i), 7, 0x40, .ro⟩
def INC_VALID (i : Nat) : Field := ⟨(0x13140 + 4 * i), 31, 1, 0, .ro⟩
def INC_AREA (i : Nat) : Field := ⟨(0x13140 + 4 * i), 16, 3, 0, .ro⟩
def INC_SECTOR (i : Nat) : Field := ⟨(0x13140 + 4 * i), 0, 12, 0, .ro⟩
def SPARE_FREE (i : Nat) : Field := ⟨(0x13180 + 4 * i), 0, 32, 0xFFFFFFFF, .ro⟩
def WBUF (i : Nat) : Field := ⟨(0x13200 + 4 * i), 0, 32, 0, .rw⟩
def RBUF (i : Nat) : Field := ⟨(0x13300 + 4 * i), 0, 32, 0, .ro⟩
/-- Every field of the page. -/
def all : List Field :=
    [FADDR, FLEN, OP, CHECK_FOLD, REMAP_SPARE, CHECK_EXP, CHECK_RES, BUSY, DONE, RESULT, OP_US, ECC_UE_CNT, ECC_CE_CNT, ECC_ADDR, INCOMPLETE_CNT, JOURNAL_SEQ, OTHER_VALID, OPT_STATE, OPT_GEN] ++
    (List.range 4).map SPARES_LEFT ++
    (List.range 16).map INC_VALID ++
    (List.range 16).map INC_AREA ++
    (List.range 16).map INC_SECTOR ++
    (List.range 8).map SPARE_FREE ++
    (List.range 64).map WBUF ++
    (List.range 64).map RBUF
end Reg.FLASH

/-! ### Page GLOBAL -/
namespace Reg.GLOBAL
def CHANGING : Field := ⟨0x100, 16, 1, 0, .ro⟩
def PREV_MODE : Field := ⟨0x100, 8, 4, 0, .ro⟩
def MODE : Field := ⟨0x100, 0, 4, 0, .ro⟩
def MODE_REQ : Field := ⟨0x104, 0, 4, 0, .wo⟩
def MODE_FRAME_LO : Field := ⟨0x108, 0, 32, 0, .ro⟩
def MODE_FRAME_HI : Field := ⟨0x10C, 0, 32, 0, .ro⟩
def RIG_FALLBACK_USED : Field := ⟨0x110, 10, 1, 0, .ro⟩
def FW_FALLBACK_USED : Field := ⟨0x110, 9, 1, 0, .ro⟩
def CLEAR_PENDING_RAN : Field := ⟨0x110, 8, 1, 0, .ro⟩
def BOOT_HOLD : Field := ⟨0x110, 4, 4, 0, .ro⟩
def BOOT_STAGE : Field := ⟨0x110, 0, 4, 0, .ro⟩
def BOOT_US : Field := ⟨0x114, 0, 32, 0, .ro⟩
def RESET_CAUSE : Field := ⟨0x118, 0, 3, 0, .ro⟩
def RESET : Field := ⟨0x11C, 0, 32, 0, .wo⟩
def DEG_MODE : Field := ⟨0x120, 0, 1, 0, .rwl⟩
def DEG_PART (i : Nat) : Field := ⟨(0x124 + 4 * i), 0, 32, 0, .rwl⟩
def DEG_CLASS (i : Nat) : Field := ⟨(0x144 + 4 * i), 0, 32, 0, .rwl⟩
def MEM_UE : Field := ⟨0x164, 5, 1, 0, .ro⟩
def TEMP_HIGH : Field := ⟨0x164, 4, 1, 0, .ro⟩
def TAMPER_SRC : Field := ⟨0x164, 3, 1, 0, .ro⟩
def VOID_UNIT : Field := ⟨0x164, 2, 1, 0, .ro⟩
def HEALTH_FAIL : Field := ⟨0x164, 1, 1, 0, .ro⟩
def ANY : Field := ⟨0x164, 0, 1, 0, .ro⟩
def FLOOR_CMD : Field := ⟨0x168, 0, 2, 0, .wo⟩
def FW_FLOOR : Field := ⟨0x16C, 0, 32, 0, .ro⟩
def RIG_FLOOR : Field := ⟨0x170, 0, 32, 0, .ro⟩
def FW_VERSION : Field := ⟨0x174, 0, 32, 0, .ro⟩
def BOOT_CNT_LO : Field := ⟨0x178, 0, 32, 0, .ro⟩
def BOOT_CNT_HI : Field := ⟨0x17C, 0, 32, 0, .ro⟩
/-- Every field of the page. -/
def all : List Field :=
    [CHANGING, PREV_MODE, MODE, MODE_REQ, MODE_FRAME_LO, MODE_FRAME_HI, RIG_FALLBACK_USED, FW_FALLBACK_USED, CLEAR_PENDING_RAN, BOOT_HOLD, BOOT_STAGE, BOOT_US, RESET_CAUSE, RESET, DEG_MODE, MEM_UE, TEMP_HIGH, TAMPER_SRC, VOID_UNIT, HEALTH_FAIL, ANY, FLOOR_CMD, FW_FLOOR, RIG_FLOOR] ++
    [FW_VERSION, BOOT_CNT_LO, BOOT_CNT_HI] ++
    (List.range 8).map DEG_PART ++
    (List.range 8).map DEG_CLASS
end Reg.GLOBAL

/-! ### Page FAULT -/
namespace Reg.FAULT
def FLT_COUNT : Field := ⟨0x1B100, 0, 7, 0, .ro⟩
def CLASS : Field := ⟨0x1B104, 28, 4, 0, .ro⟩
def RAISED : Field := ⟨0x1B104, 24, 4, 0, .ro⟩
def ESCALATED : Field := ⟨0x1B104, 23, 1, 0, .ro⟩
def DEPENDENT : Field := ⟨0x1B104, 22, 1, 0, .ro⟩
def SOURCE : Field := ⟨0x1B104, 0, 8, 0, .ro⟩
def FLT_YARD : Field := ⟨0x1B108, 18, 6, 0, .ro⟩
def FLT_UNIT : Field := ⟨0x1B108, 0, 18, 0, .ro⟩
def FLT_FRAME : Field := ⟨0x1B10C, 0, 32, 0, .ro⟩
def OPEN : Field := ⟨0x1B110, 31, 1, 0, .ro⟩
def LEFT : Field := ⟨0x1B110, 0, 7, 0, .ro⟩
def WINDOW_FRAME : Field := ⟨0x1B114, 0, 32, 0, .ro⟩
def F_CNT (i : Nat) : Field := ⟨(0x1B118 + 4 * i), 0, 32, 0, .ro⟩
def ESC_CNT : Field := ⟨0x1B12C, 0, 32, 0, .ro⟩
/-- Every field of the page. -/
def all : List Field :=
    [FLT_COUNT, CLASS, RAISED, ESCALATED, DEPENDENT, SOURCE, FLT_YARD, FLT_UNIT, FLT_FRAME, OPEN, LEFT, WINDOW_FRAME, ESC_CNT] ++
    (List.range 5).map F_CNT
end Reg.FAULT

/-! ### Page NARIS -/
namespace Reg.NARIS
def RUN_BANK : Field := ⟨0x1C100, 8, 1, 0, .ro⟩
def NSTATE : Field := ⟨0x1C100, 0, 2, 0, .ro⟩
def LOCKSTEP_CNT : Field := ⟨0x1C104, 0, 16, 0, .ro⟩
def SRC : Field := ⟨0x1C108, 8, 1, 0, .wo⟩
def FW_OP : Field := ⟨0x1C108, 0, 4, 0, .wo⟩
def FW_BUSY : Field := ⟨0x1C10C, 31, 1, 0, .ro⟩
def FALLBACK_ARMED : Field := ⟨0x1C10C, 16, 1, 0, .ro⟩
def STAGE_SRC : Field := ⟨0x1C10C, 8, 1, 0, .ro⟩
def FW_STAGE : Field := ⟨0x1C10C, 0, 2, 0, .ro⟩
def STAGE_VERSION : Field := ⟨0x1C110, 0, 32, 0, .ro⟩
def FW_HASH (i : Nat) : Field := ⟨(0x1C120 + 4 * i), 0, 32, 0, .ro⟩
def ATT_NONCE (i : Nat) : Field := ⟨(0x1C140 + 4 * i), 0, 32, 0, .rw⟩
def TERM : Field := ⟨0x1C160, 2, 1, 0, .wo⟩
def KEM_EXT : Field := ⟨0x1C160, 1, 1, 0, .wo⟩
def GO : Field := ⟨0x1C160, 0, 1, 0, .wo⟩
def ATT_BUSY : Field := ⟨0x1C164, 31, 1, 0, .ro⟩
def ATT_DONE : Field := ⟨0x1C164, 30, 1, 0, .ro⟩
def ATT_LEN : Field := ⟨0x1C164, 0, 13, 0, .ro⟩
def ATT_WSEL : Field := ⟨0x1C168, 0, 1, 0, .rw⟩
def ATT_WIN (i : Nat) : Field := ⟨(0x1C800 + 4 * i), 0, 32, 0, .ro⟩
/-- Every field of the page. -/
def all : List Field :=
    [RUN_BANK, NSTATE, LOCKSTEP_CNT, SRC, FW_OP, FW_BUSY, FALLBACK_ARMED, STAGE_SRC, FW_STAGE, STAGE_VERSION, TERM, KEM_EXT, GO, ATT_BUSY, ATT_DONE, ATT_LEN, ATT_WSEL] ++
    (List.range 8).map FW_HASH ++
    (List.range 8).map ATT_NONCE ++
    (List.range 512).map ATT_WIN
end Reg.NARIS

/-! ### Page TAMPER -/
namespace Reg.TAMPER
def SRC_SEL : Field := ⟨0x17100, 0, 6, 0, .rw⟩
def ENABLE : Field := ⟨0x17104, 31, 1, 0, .rw⟩
def RESP : Field := ⟨0x17104, 24, 2, 0, .rw⟩
def LMODE : Field := ⟨0x17104, 16, 1, 0, .rw⟩
def POLARITY : Field := ⟨0x17104, 12, 1, 0, .rw⟩
def DEBOUNCE : Field := ⟨0x17104, 8, 4, 0, .rw⟩
def POL_ACTIVE : Field := ⟨0x17108, 0, 32, 0, .ro⟩
def APPLY : Field := ⟨0x1710C, 0, 1, 0, .wo⟩
def ASSERTED_LO : Field := ⟨0x17110, 0, 32, 0, .ro⟩
def ASSERTED_HI : Field := ⟨0x17114, 0, 5, 0, .ro⟩
def LATCHED_LO : Field := ⟨0x17118, 0, 32, 0, .w1c⟩
def LATCHED_HI : Field := ⟨0x1711C, 0, 5, 0, .w1c⟩
def ALERT_PENDING : Field := ⟨0x17120, 9, 1, 0, .ro⟩
def CLEAR_PENDING : Field := ⟨0x17120, 8, 1, 0, .ro⟩
def ROOT_STATE : Field := ⟨0x17120, 0, 2, 0, .ro⟩
def VHOLD_MV : Field := ⟨0x17124, 16, 16, 0, .ro⟩
def VBAT_MV : Field := ⟨0x17124, 0, 16, 0, .ro⟩
def VBAT_WARN : Field := ⟨0x17128, 0, 12, 0xA28, .rw⟩
def TEMP_SD : Field := ⟨0x1712C, 16, 16, 0, .ro⟩
def TEMP_CD : Field := ⟨0x1712C, 0, 16, 0, .ro⟩
def RTC_SEC : Field := ⟨0x17130, 0, 32, 0, .ro⟩
def RTC_VALID : Field := ⟨0x17134, 31, 1, 0, .ro⟩
def RTC_SUB : Field := ⟨0x17134, 0, 15, 0, .ro⟩
def RTC_SET_SEC : Field := ⟨0x17138, 0, 32, 0, .rw⟩
def SET : Field := ⟨0x1713C, 0, 1, 0, .wo⟩
def GO : Field := ⟨0x17140, 31, 1, 0, .wo⟩
def TEST_SRC : Field := ⟨0x17140, 0, 6, 0, .wo⟩
def BUSY : Field := ⟨0x17144, 31, 1, 0, .ro⟩
def RESULT : Field := ⟨0x17144, 24, 2, 0, .ro⟩
def LAST_SRC : Field := ⟨0x17144, 0, 6, 0, .ro⟩
def WIT_NEXT : Field := ⟨0x17148, 0, 8, 0, .ro⟩
def WIT_SEQ : Field := ⟨0x1714C, 0, 32, 1, .ro⟩
def WIT_OVF : Field := ⟨0x17150, 0, 32, 0, .ro⟩
def EVENT_CNT : Field := ⟨0x17154, 0, 32, 0, .ro⟩
/-- Every field of the page. -/
def all : List Field :=
    [SRC_SEL, ENABLE, RESP, LMODE, POLARITY, DEBOUNCE, POL_ACTIVE, APPLY, ASSERTED_LO, ASSERTED_HI, LATCHED_LO, LATCHED_HI, ALERT_PENDING, CLEAR_PENDING, ROOT_STATE, VHOLD_MV, VBAT_MV, VBAT_WARN, TEMP_SD, TEMP_CD, RTC_SEC, RTC_VALID, RTC_SUB, RTC_SET_SEC] ++
    [SET, GO, TEST_SRC, BUSY, RESULT, LAST_SRC, WIT_NEXT, WIT_SEQ, WIT_OVF, EVENT_CNT]
end Reg.TAMPER

/-! ### Page CARD -/
namespace Reg.CARD
def PRESENT : Field := ⟨0x19100, 31, 1, 0, .ro⟩
def TYPE : Field := ⟨0x19100, 28, 3, 0, .ro⟩
def WP : Field := ⟨0x19100, 27, 1, 0, .ro⟩
def WIDTH4 : Field := ⟨0x19100, 26, 1, 0, .ro⟩
def HS : Field := ⟨0x19100, 25, 1, 0, .ro⟩
def ICC_CLASS : Field := ⟨0x19100, 0, 2, 0, .ro⟩
def BAD_BLOCK : Field := ⟨0x19104, 0, 32, 0, .ro⟩
def LAST_RESULT : Field := ⟨0x19108, 0, 8, 0, .ro⟩
def INSERT_CNT : Field := ⟨0x1910C, 16, 16, 0, .ro⟩
def REPEAT_CNT : Field := ⟨0x1910C, 0, 16, 0, .ro⟩
def ICC_CLASS_EN : Field := ⟨0x19110, 0, 2, 3, .rwl⟩
def Q_PURPOSE : Field := ⟨0x19140, 24, 2, 0, .rw⟩
def Q_N : Field := ⟨0x19140, 8, 5, 0, .rw⟩
def Q_M : Field := ⟨0x19140, 0, 5, 0, .rw⟩
def QUORUM_CMD : Field := ⟨0x19144, 0, 2, 0, .wo⟩
def Q_OPEN : Field := ⟨0x19148, 31, 1, 0, .ro⟩
def Q_MET : Field := ⟨0x19148, 30, 1, 0, .ro⟩
def COUNTED : Field := ⟨0x19148, 16, 5, 0, .ro⟩
def PRESENT_19148 : Field := ⟨0x19148, 0, 16, 0, .ro⟩
def Q_TIMEOUT : Field := ⟨0x1914C, 0, 12, 0x258, .rwl⟩
def Q_LEFT : Field := ⟨0x19150, 0, 12, 0, .ro⟩
def REJECT_CNT : Field := ⟨0x19154, 0, 16, 0, .ro⟩
def CER_CMD : Field := ⟨0x19160, 0, 4, 0, .wo⟩
def CER_BUSY : Field := ⟨0x19164, 31, 1, 0, .ro⟩
def CER_DONE : Field := ⟨0x19164, 30, 1, 0, .ro⟩
def STAGED : Field := ⟨0x19164, 0, 16, 0, .ro⟩
def CER_WSEL : Field := ⟨0x19168, 0, 1, 0, .rw⟩
def CER_LEN : Field := ⟨0x1916C, 0, 13, 0, .rw⟩
def CER_WIN (i : Nat) : Field := ⟨(0x19800 + 4 * i), 0, 32, 0, .rw⟩
/-- Every field of the page. -/
def all : List Field :=
    [PRESENT, TYPE, WP, WIDTH4, HS, ICC_CLASS, BAD_BLOCK, LAST_RESULT, INSERT_CNT, REPEAT_CNT, ICC_CLASS_EN, Q_PURPOSE, Q_N, Q_M, QUORUM_CMD, Q_OPEN, Q_MET, COUNTED, PRESENT_19148, Q_TIMEOUT, Q_LEFT, REJECT_CNT, CER_CMD, CER_BUSY] ++
    [CER_DONE, STAGED, CER_WSEL, CER_LEN] ++
    (List.range 512).map CER_WIN
end Reg.CARD

/-! ### Page WITNESS -/
namespace Reg.WITNESS
def READER : Field := ⟨0x18100, 31, 1, 0, .ro⟩
def CSTATE : Field := ⟨0x18100, 28, 2, 0, .ro⟩
def FIELD : Field := ⟨0x18100, 27, 1, 0, .ro⟩
def FIELD_MA : Field := ⟨0x18100, 0, 16, 0, .ro⟩
def FIELD_WRITE_MIN : Field := ⟨0x18104, 0, 16, 0x7D0, .rwl⟩
def RATE_MAX : Field := ⟨0x18108, 0, 2, 3, .rwl⟩
def NAK_GATE_CNT : Field := ⟨0x1810C, 16, 16, 0, .ro⟩
def STAMP_CNT : Field := ⟨0x1810C, 0, 16, 0, .ro⟩
def COLL_CNT : Field := ⟨0x18110, 16, 16, 0, .ro⟩
def TOKENS_LAST : Field := ⟨0x18110, 0, 6, 0, .ro⟩
def HBF_CNT : Field := ⟨0x18114, 16, 16, 0, .ro⟩
def BUSY_CNT : Field := ⟨0x18114, 0, 16, 0, .ro⟩
def HBF_ADDR : Field := ⟨0x18118, 0, 13, 0, .ro⟩
def WIT_WSEL : Field := ⟨0x18120, 0, 2, 0, .rw⟩
def WIT_WIN (i : Nat) : Field := ⟨(0x18800 + 4 * i), 0, 32, 0, .ro⟩
/-- Every field of the page. -/
def all : List Field :=
    [READER, CSTATE, FIELD, FIELD_MA, FIELD_WRITE_MIN, RATE_MAX, NAK_GATE_CNT, STAMP_CNT, COLL_CNT, TOKENS_LAST, HBF_CNT, BUSY_CNT, HBF_ADDR, WIT_WSEL] ++
    (List.range 512).map WIT_WIN
end Reg.WITNESS

end Sys2Proof.Machine
end

