-- ==== Sys2Proof/Machine/Ops.lean ====
section
/-!
DEFINITION. The operations that every family shares: register fields and page headers (R573 to R578), interrupt
messages (R353, R575), Sheave and yard storage, items, logs, outbound traffic and draws of fresh randomness.
-/
set_option autoImplicit false

namespace Sys2Proof.Machine

/-- The outcome of a command. -/
abbrev Result := Host.Outcome State Fault Refusal

/-! ### Header keys: BAR0 offset ÷ 256 of each page (Table 20.4) -/

def pgGlobal : Nat := 0x000
def pgFrame : Nat := 0x010
def pgAdmit : Nat := 0x020
def pgYard (y : Nat) : Nat := yardBase y / 256
def pgCipher : Nat := 0x080
def pgHash : Nat := 0x090
def pgBne : Nat := 0x0A0
def pgPu : Nat := 0x0B0
def pgCleat : Nat := 0x0C0
def pgCleat1 : Nat := 0x0D0
def pgSpring : Nat := 0x0E0
def pgRill : Nat := 0x0F0
def pgRill1 : Nat := 0x100
def pgArt : Nat := 0x110
def pgCvu : Nat := 0x120
def pgFlash : Nat := 0x130
def pgStay : Nat := 0x140
def pgHost : Nat := 0x150
def pgPart : Nat := 0x160
def pgTamper : Nat := 0x170
def pgWitness : Nat := 0x180
def pgCard : Nat := 0x190
def pgSpares : Nat := 0x1A0
def pgFault : Nat := 0x1B0
def pgNaris : Nat := 0x1C0

/-! ### Register fields -/

/-- The key of a field in the register table. -/
def Field.key (F : Field) : Nat := F.off * 32 + F.lo

/-- The value of a register field. -/
def State.reg (s : State) (F : Field) : Nat := SMap.get 0 s.rf F.key ^^^ F.reset

/-- Write a register field; the value is cut to its width. -/
def State.setReg (s : State) (F : Field) (v : Nat) : State :=
  { s with rf := SMap.put 0 s.rf F.key ((v % 2 ^ F.width) ^^^ F.reset) }

/-- A one-bit register field. -/
def State.bit (s : State) (F : Field) : Bool := s.reg F != 0

/-- Write a one-bit register field. -/
def State.setBit (s : State) (F : Field) (b : Bool) : State := s.setReg F (if b then 1 else 0)

/-- A counter that wraps at its width. -/
def State.inc (s : State) (F : Field) : State := s.setReg F (s.reg F + 1)

/-- A counter that wraps, by `n`. -/
def State.incBy (s : State) (F : Field) (n : Nat) : State := s.setReg F (s.reg F + n)

/-- A counter that saturates. -/
def State.sat (s : State) (F : Field) : State := s.setReg F (min (2 ^ F.width - 1) (s.reg F + 1))

/-- A counter of 64 bits in two registers, by `n`. -/
def State.inc64 (s : State) (lo hi : Field) (n : Nat) : State :=
  let v := s.reg lo + 2 ^ 32 * s.reg hi + n
  (s.setReg lo v).setReg hi (v / 2 ^ 32)

/-! ### Page headers, interrupts and refusals -/

/-- The header of a page or yard block. -/
def State.hd (s : State) (k : Nat) : Hdr := SMap.get {} s.hdr k

/-- Replace a header. -/
def State.setHd (s : State) (k : Nat) (h : Hdr) : State := { s with hdr := SMap.put {} s.hdr k h }

/-- Change a header. -/
def State.updHd (s : State) (k : Nat) (f : Hdr → Hdr) : State := s.setHd k (f (s.hd k))

/-- Add to the log of what the device sends. -/
def State.emit (s : State) (o : Out) : State := { s with outbound := s.outbound ++ [o] }

/-- The device may issue requests to the host: link up, Bus Master Enable set, not in D3hot (R329). -/
def State.hostUp (s : State) : Bool := s.host.linkUp && s.host.bme && !s.host.d3hot

/-- Send the message of a vector, or set its pending bit when the vector or the whole function is masked (R351). While MSI-X is
not enabled the function has no message to send (notes/assumptions/81.md). -/
def State.sendMsix (s : State) (v : Nat) : State :=
  let m := SMap.get {} s.host.msix v
  if !s.host.cfg.msixEn then s
  else if m.masked || s.host.cfg.msixMask || !s.hostUp then
    { s with host := { s.host with msix := SMap.put {} s.host.msix v { m with pending := true } } }
  else
    let s := s.inc Reg.HOSTIF.MSI_CNT
    s.emit (.msix v m.addr m.data)

/-- The manager's message on MGR_VECTOR (R353). -/
def State.mgrMsg (s : State) : State :=
  s.sendMsix (s.reg Reg.HOSTIF.MGR_VECTOR)

/-- Set a bit of INT_STAT; a bit that was clear and is enabled is raised (R575). -/
def State.raise (s : State) (k bit : Nat) : State :=
  let h := s.hd k
  if bitOf h.intStat bit then s
  else
    let s := s.setHd k { h with intStat := orBit h.intStat bit }
    if bitOf h.intEn bit then s.mgrMsg else s

/-- Refuse a write or command: ERR_CODE and ERR_INFO together (R577). -/
def State.refuse (s : State) (k code : Nat) (info : Nat := 0) : State :=
  s.updHd k fun h => { h with errCode := code % 256, errInfo := info % 2 ^ 32 }

/-- Set CTRL.ENABLE and STATE together: ON or OFF. -/
def State.setOn (s : State) (k : Nat) (on : Bool) : State :=
  s.updHd k fun h => { h with enable := on, st := if on then 2 else 0 }

/-- Set or clear a bit of STATE above bit 3. -/
def State.setDetail (s : State) (k bit : Nat) (b : Bool) : State :=
  s.updHd k fun h => { h with detail := if b then orBit h.detail (bit - 4) else clrBit h.detail (bit - 4) }

/-! ### Frames and draws -/

/-- FRAME_NO [31:0]. -/
def State.frame32 (s : State) : Nat := s.frame.no % 2 ^ 32

/-- Fabric cycles of a frame (Table 2.1). -/
def frameCycles (len : Nat) : Nat := if len = 1 then 5000 else if len = 2 then 20000 else 10000

/-- Fabric cycles of the frames now running. -/
def State.flCycles (s : State) : Nat := frameCycles s.frame.len

/-- Fabric time: ticks so far and the cycle in the frame. -/
def State.now (s : State) : Nat := s.frame.ticks * 2 ^ 20 + s.frame.cycle

/-- Move the cycle of the frame forward to an event placed at `c`. -/
def State.at' (s : State) (c : Nat) : State := { s with frame := { s.frame with cycle := max s.frame.cycle c } }

/-- A fresh index of a value that the spec leaves open (notes/assumptions/5.md). -/
def State.draw (s : State) : Nat × State := (s.free, { s with free := s.free + 1 })

/-! ### Modes -/

/-- The mode of the device. -/
def State.mode (s : State) : Mode := s.glob.mode

/-- The number of a mode (Table 16.1). -/
def Mode.num : Mode → Nat
  | .factory => 1 | .unclaimed => 2 | .ceremony => 3 | .operational => 4
  | .maintenance => 5 | .degraded => 6 | .standby => 7 | .terminated => 8

/-- The mode of a number. -/
def Mode.ofNum (n : Nat) : Option Mode :=
  match n with
  | 1 => some .factory | 2 => some .unclaimed | 3 => some .ceremony | 4 => some .operational
  | 5 => some .maintenance | 6 => some .degraded | 7 => some .standby | 8 => some .terminated
  | _ => none

/-- A rig runs in the mode (Table 16.1). -/
def Mode.rigRuns : Mode → Bool
  | .operational | .degraded | .standby => true
  | _ => false

/-- Partitions exist in the mode (Table 16.1). -/
def Mode.parts : Mode → Bool
  | .operational | .maintenance | .degraded | .standby => true
  | _ => false

/-- Boot step `n` has been completed (R480). -/
def State.bootStage (s : State) (n : Nat) : State := if s.glob.booted then s else s.setReg Reg.GLOBAL.BOOT_STAGE n

/-! ### Pages -/

/-- The ROM alone is in control (R481). -/
def State.romRecovery (s : State) : Bool := s.reg Reg.GLOBAL.BOOT_HOLD == 1

/-- The pages of Table 20.4 that are not reserved. -/
def pageKnown (p : Nat) : Bool := decide (p ≤ 0x1C) && p != 0x03

/-- The page answers: in ROM_RECOVERY only GLOBAL, FLASH and NARIS do (R581). -/
def State.pageAnswers (s : State) (p : Nat) : Bool := pageKnown p && (!s.romRecovery || p == 0x00 || p == 0x13 || p == 0x1C)

/-- A read reaches a page that answers: Naris's, and the manager's once the endpoint serves it (Table 1.3). -/
def State.readArrives (s : State) (byNaris : Bool) (p : Nat) : Bool := s.pageAnswers p && (byNaris || s.glob.booted)

/-! ### Yards and Sheaves -/

/-- One yard. -/
def State.yard (s : State) (y : Nat) : Yard := SMap.get {} s.yards y

/-- Replace a yard. -/
def State.setYard (s : State) (y : Nat) (v : Yard) : State := { s with yards := SMap.put {} s.yards y v }

/-- The map entry of a void logical unit (R133, R492). -/
def voidUnit : Nat := 255

/-- The physical Sheave of a logical one, none where it is void. -/
def Yard.phys (v : Yard) (l : Nat) : Option Nat :=
  match SMap.get 0 v.map l with
  | 0 => some l
  | n => if n = voidUnit then none else some (n - 1)

/-- The index of logical Sheave `l` of yard `y`. -/
def shKey (y l : Nat) : Nat := y * 16 + l

/-- One logical Sheave. -/
def State.sheave (s : State) (y l : Nat) : Sheave := SMap.get {} s.sheaves (shKey y l)

/-- Replace a logical Sheave. -/
def State.setSheave (s : State) (y l : Nat) (v : Sheave) : State :=
  { s with sheaves := SMap.put {} s.sheaves (shKey y l) v }

/-- The physical Sheave that a logical one runs on; a void one has no storage, and its logical number stands in. -/
def State.physSheave (s : State) (y l : Nat) : Nat := ((s.yard y).phys l).getD l

/-- First byte of a physical Sheave's RAM in the RAM tables. -/
def ramBase (y p : Nat) : Nat := (y * 17 + p) * 0x8000

/-- One pool. -/
def State.pool (s : State) (k : Nat) : Pool := SMap.get {} s.pools k

/-- Replace a pool. -/
def State.setPool (s : State) (k : Nat) (p : Pool) : State := { s with pools := SMap.put {} s.pools k p }

/-- Units of a pool in the maps: 32 pairs, 64 Keccak cores, 32 SHA-2 cores, 32 lanes (R130). -/
def poolUnits (k : Nat) : Nat := if k = 1 then 64 else 32

/-- Physical units of a pool. -/
def poolPhys (k : Nat) : Nat := if k = 1 then 68 else 34

/-- The physical unit of a logical one of a pool, none where it is void. -/
def Pool.phys (p : Pool) (u : Nat) : Option Nat :=
  match SMap.get 0 p.map u with
  | 0 => some u
  | n => if n = voidUnit then none else some (n - 1)

/-- The physical unit; a void one stands as its logical number. -/
def State.poolUnit (s : State) (k u : Nat) : Nat := ((s.pool k).phys u).getD u

/-- Yard memory bytes. -/
def State.ymemRead (s : State) (y a n : Nat) : List Byte := SMap.bytes s.ymem (y * 0x40000 + a) n

/-- Write yard memory bytes. -/
def State.ymemWrite (s : State) (y a : Nat) (bs : List Byte) : State :=
  { s with ymem := SMap.putBytes s.ymem (y * 0x40000 + a) bs }

/-! ### Items -/

/-- The item of a number. -/
def State.item (s : State) (id : Nat) : Option Item := s.adm.items.find? fun i => i.id == id

/-- Change an item. -/
def State.updItem (s : State) (id : Nat) (f : Item → Item) : State :=
  { s with adm := { s.adm with items := s.adm.items.map fun i => if i.id = id then f i else i } }

/-- The slot that an item holds. -/
def Place.slot : Place → Option Nat
  | .waiting => none
  | .bound k _ | .running k _ | .parked k _ => some k

/-- Whether the item's message buffer is B. -/
def Place.bufB : Place → Bool
  | .waiting => false
  | .bound _ b | .running _ b | .parked _ b => b

/-- An entry of the slot map of the rig in effect. -/
def State.slotEnt (s : State) (k : Nat) : Option SlotEnt :=
  match s.rig.eff with
  | some r => SMap.get none r.slots k
  | none => none

/-- A present class of the rig in effect. -/
def State.classEnt (s : State) (c : Nat) : Option ClassEnt :=
  match s.rig.eff with
  | some r => SMap.get none r.classes c
  | none => none

/-- The epoch of a slot (R150). -/
def State.epochOf (s : State) (slot : Nat) : Nat := SMap.get 0 s.adm.epoch slot

/-- A partition. -/
def State.part (s : State) (p : Nat) : Part := SMap.get {} s.parts.tab p

/-- Replace a partition. -/
def State.setPart (s : State) (p : Nat) (v : Part) : State :=
  { s with parts := { s.parts with tab := SMap.put {} s.parts.tab p v } }

/-- A ring. -/
def State.ring (s : State) (r : Nat) : Ring := SMap.get {} s.host.rings r

/-- Replace a ring. -/
def State.setRing (s : State) (r : Nat) (v : Ring) : State :=
  { s with host := { s.host with rings := SMap.put {} s.host.rings r v } }

/-- Change a ring. -/
def State.updRing (s : State) (r : Nat) (f : Ring → Ring) : State := s.setRing r (f (s.ring r))

end Sys2Proof.Machine
end

