-- ==== Sys2Proof/Machine/Fault.lean ====
section
/-!
DEFINITION. What the device does about a fault (R488 to R493): the log, the recovery window and escalation, the witness
record, the start of a mode change (R475, R477), the wipe of R24, the CLEAR_ALL response (R506), and the retirement of
units (R136, R137, R143).
-/
set_option autoImplicit false

namespace Sys2Proof.Machine

/-! ### Sources of Table 16.8 -/

def srcSheave : Nat := 0x01
def srcCipher : Nat := 0x02
def srcKeccak : Nat := 0x03
def srcSha2 : Nat := 0x04
def srcLane : Nat := 0x05
def srcPu : Nat := 0x06
def srcRow : Nat := 0x07
def srcYmem : Nat := 0x08
def srcOpm : Nat := 0x09
def srcPum : Nat := 0x0A
def srcSpring : Nat := 0x0B
def srcCell : Nat := 0x0C
def srcDie : Nat := 0x0D
def srcLockstep : Nat := 0x0E
def srcKat : Nat := 0x0F
def srcExhausted : Nat := 0x10
def srcBoot : Nat := 0x11
def srcTemp : Nat := 0x12

/-! ### Witness records (R517) -/

/-- A record with the always-on domain's readings of the moment (Table 17.4). -/
def State.wrec (s : State) (typ source resp flags : Nat) (detail : List Byte) : WRec :=
  { typ := typ, source := source, resp := resp, flags := flags,
    sec := s.tamper.rtcSec, sub := s.tamper.rtcSub + (if s.tamper.rtcValid then 0x8000 else 0),
    bootLo := s.glob.bootCnt % 65536, detail := fitBytes 8 detail,
    vbat := s.tamper.vbat, temp := s.tamper.tempSd }

/-- Queue a record for the record writer. -/
def State.pushRec (s : State) (r : WRec) : State :=
  { s with tamper := { s.tamper with recs := s.tamper.recs ++ [r] } }

/-- Queue a record that belongs to no source. -/
def State.witness0 (s : State) (typ : Nat) (detail : List Byte) : State :=
  s.pushRec (s.wrec typ 0xFF 0xFF 0 detail)

/-- Change the root mask state; each change writes a ROOT record (R514). -/
def State.setRoot (s : State) (st cause : Nat) (mask : Option Nat) : State :=
  let changed := s.tamper.rootState != st
  let s := { s with tamper := { s.tamper with rootState := st, rootMask := mask } }
  if changed then s.witness0 0x06 [BitVec.ofNat 8 st, BitVec.ofNat 8 cause] else s

/-! ### The wipe of R24 -/

/-- The Cleat store after a wipe: nothing held but the row generations (R256), the tables that stand outside the rows
(R287), and which rows held an entry. -/
def CleatSt.wiped (c : CleatSt) : CleatSt :=
  { c with ents := [], pending := [], ready := false, maskKey := none, vaultKey := none, vaultOpen := [],
           vaultProg := none, vaultImg := [], vaultDone := 0, cmd := none, scrubPos := 0,
           lostRows := c.lostRows ++ c.ents.flatMap (fun e => match e.2 with
             | some x => (List.range x.rows).map (e.1 + ·)
             | none => []) }

/-- A manager command of page 0x0D that a wipe overtakes is no longer in progress: a FLUSH is complete, as nothing waits for the vault
any more, and a DELETE or RESTRICT ends without DONE (R285, notes/assumptions/83.md). -/
def State.cleatCmdLost (s : State) : State :=
  match s.cleat.cmd with
  | none => s
  | some (op, _) =>
    let s := (s.setBit Reg.CLEAT1.BUSY false).setDetail pgCleat1 4 false
    if op = 4 then (s.setBit Reg.CLEAT1.DONE true).raise pgCleat1 0 else s

/-- The root mask is zeroized: no vault record can be read or written any more (R278). -/
def State.closeVault (s : State) : State :=
  { s with cleat := { s.cleat with vaultKey := none } }.setReg Reg.CLEAT0.VAULT_STATE 0

/-- Every volatile memory is wiped: the Cleat store but for its row generations, operand and PU memory, Sheave RAMs and
registers, yard memory, rill states; SEED_READY clears (R24, R196, R227, R415, R419). A debug read that waits meets a
wiped region (R223). -/
def State.wipe (s : State) : State :=
  let s := s.cleatCmdLost
  { s with
    sheaves := [], iram := [], dram := [], ymem := [], flights := [], macs := [],
    bne := { s.bne with slots := [], opmBusy := s.bne.opmBusy.map fun o => (256, o.2) },
    pu := { s.pu with clusters := s.pu.clusters.map fun e => (e.1, { e.2 with held := .none, item := 0 }) },
    cleat := s.cleat.wiped,
    yards := s.yards.map fun e => (e.1, { e.2 with swap := { e.2.swap with preloaded := false } }),
    parts := { s.parts with tab := s.parts.tab.map fun e => (e.1, { e.2 with head := [], links := [] }) },
    spring := { s.spring with rills := [], queue := [], reserve := 0, rillBuf := [], blockCnt := [], seedReady := false } }

/-! ### Mode changes: acceptance -/

/-- How strong a cause is (R477). -/
def Cause.rank : Cause → Nat
  | .f4 | .clearAll => 3
  | .f3 | .clearVolatile => 2
  | .manager | .device => 1

/-- A manager's change that another one overtakes ends in another mode than it asked for (notes/assumptions/27.md). -/
def State.lostRequest (s : State) (o : Change) : State :=
  { s with glob := { s.glob with change := s.glob.change.map fun c => { c with failed := o.failed || o.cause == .manager } } }

/-- Start a change, or weigh it against the one that runs (R475, R477). -/
def State.startChange (s : State) (target : Mode) (cause : Cause) (orderly : Bool) : State :=
  let c : Change := { target := target, cause := cause, orderly := orderly }
  let set (s : State) : State :=
    ({ s with glob := { s.glob with change := some c } }.setDetail pgGlobal 4 true).setBit Reg.GLOBAL.CHANGING true
  match s.glob.change with
  | none => set s
  | some o =>
    if cause.rank < o.cause.rank || (cause.rank == o.cause.rank && (!o.wiped || cause.rank == 1)) then s
    else if o.wiped && cause.rank == 2 then { s with glob := { s.glob with queued := some c } }
    else (set s).lostRequest o

/-- The quorum session closes (R541). -/
def State.closeQuorum (s : State) : State :=
  let s := { s with cust := { s.cust with quorum := none } }
  let s := s.setDetail pgCard 4 false
  let s := s.setBit Reg.CARD.Q_OPEN false
  let s := s.setBit Reg.CARD.Q_MET false
  let s := s.setReg Reg.CARD.COUNTED 0
  let s := s.setReg Reg.CARD.PRESENT_19148 0
  s.setReg Reg.CARD.Q_LEFT 0

/-- Every staged step is discarded (R542). -/
def State.dropStaged (s : State) : State :=
  { s with cust := { s.cust with staged := {} } }.setReg Reg.CARD.STAGED 0

/-- The ceremony is abandoned: steps discarded, session closed (R491). -/
def State.abandonCeremony (s : State) : State := s.dropStaged.closeQuorum

/-- The change that an F3 or a CLEAR_VOLATILE response starts, by mode (Table 16.2, R491); the wipe in place where no
mode changes. During boot it decides the boot target (R480). -/
def State.containment (s : State) (cause : Cause) : State :=
  if !s.glob.booted then
    let s := { s with glob := { s.glob with bootTarget := some .degraded } }
    if cause = .clearVolatile then s.wipe else s
  else
  match s.mode with
  | .operational | .maintenance | .standby | .degraded => s.startChange .degraded cause false
  | .ceremony =>
    let s := s.abandonCeremony
    s.startChange (if s.tamper.rootState = 2 then .degraded else .unclaimed) cause false
  | .factory | .unclaimed | .terminated => if cause = .clearVolatile then s.wipe else s

/-- The CLEAR_ALL response, and that of an F4: the root mask is zeroized, CLR_ALL is asserted, banks 2 and 3 are to be
erased, and the device changes to UNCLAIMED; in FACTORY and TERMINATED the wipe runs in place (R491, R506, R514). -/
def State.clearAll (s : State) (cause : Cause) : State :=
  let s := (s.setRoot 0 (if cause = .f4 then 2 else 1) none).closeVault
  let s := { s with tamper := { s.tamper with eraseBanks := true } }
  let on (s : State) : State := { s with tamper := { s.tamper with clrAll := true } }
  if !s.glob.booted then s.wipe else
  match s.mode with
  | .factory | .terminated => s.wipe
  | .ceremony => (on s).abandonCeremony.startChange .unclaimed cause false
  | _ => (on s).startChange .unclaimed cause false

/-! ### Raising a fault (R488 to R490) -/

/-- Log an F2 or higher (R495). -/
def State.logFault (s : State) (e : FltEnt) : State :=
  if s.glob.log.length < 64 then { s with glob := { s.glob with log := s.glob.log ++ [e] } } else s.raise pgFault 4

/-- The class that decides the response: one above for an independent fault inside an open window (R489). `src` is the source under
which the faults of the unit count. -/
def State.escalate (s : State) (cls src yard unit : Nat) (dep : Bool) : Nat × Bool × Bool :=
  match s.glob.window with
  | none => (cls, false, dep)
  | some w =>
    let dep := dep || (w.source == src && w.yard == yard && w.unit == unit)
    if dep || cls ≥ 4 then (cls, false, dep) else (cls + 1, true, false)

/-- Open the recovery window, through the 64th tick (R489). -/
def State.openWindow (s : State) (src yard unit : Nat) : State :=
  let s := { s with glob := { s.glob with
    window := some { left := 64, source := src, yard := yard, unit := unit, frame := s.frame32 } } }
  s.setDetail pgFault 4 true

/-- Raise a classed fault. `dep` marks a fault that the spec states as the consequence of an earlier one; `unitSrc` is the source
under which the faults of the unit count, where the fault itself has another one (a failed known-answer test). -/
def State.fault (s : State) (cls src : Nat) (yard unit : Nat := 0) (dep : Bool := false) (unitSrc : Nat := src) : State :=
  if cls ≤ 1 then s.sat (Reg.FAULT.F_CNT cls)
  else
    let (ap, esc, dp) := s.escalate cls unitSrc yard unit dep
    let s := s.sat (Reg.FAULT.F_CNT ap)
    let s := if esc then (s.sat Reg.FAULT.ESC_CNT).raise pgFault 3 else s
    let s := s.logFault { cls := ap, raised := cls, esc := esc, dep := dp, source := src, yard := yard, unit := unit, frame := s.frame32 }
    let s := s.raise pgFault (ap - 2)
    let s := if dp then s else s.openWindow unitSrc yard unit
    if ap ≥ 3 then
      let s := s.witness0 0x08 ([BitVec.ofNat 8 ap, BitVec.ofNat 8 src, 0, 0] ++ leBytes 4 s.frame32)
      if ap = 3 then s.containment .f3 else s.clearAll .f4
    else s

/-! ### Counting faults against a unit (R136) -/

/-- The last `n` faults lie within 2²⁰ frames of one another. -/
def closeFaults (n : Nat) (ticks : List Nat) : Bool :=
  match ticks.getLast?, (ticks.reverse.take n).getLast? with
  | some a, some b => decide (n ≤ ticks.length) && decide (a ≤ b + 2 ^ 20)
  | _, _ => false

/-- The option area generation that is being gathered (R467). -/
def State.optNext (s : State) : OptArea := s.flash.optWrite.getD s.flash.opt

/-- A change to the option area falls due; Naris writes it in the next generation (R467). -/
def State.optChange (s : State) (f : OptArea → OptArea) : State :=
  { s with flash := { s.flash with optWrite := some (f s.optNext) } }

/-- Enter a unit in the retirement list; false where the list is full (R466). -/
def State.listRetired (s : State) (e : RetEnt) : Bool × State :=
  if s.optNext.retired.length < 512 then
    (true, (s.optChange fun o => { o with retired := o.retired ++ [e] }).setReg Reg.SPARES.RETIRED_TOTAL (s.optNext.retired.length + 1))
  else (false, s)

/-- A retirement that finds no spare: F3 with SOURCE EXHAUSTED, dependent on its F2; the unit is void from the entry to
DEGRADED on (R137, R492). -/
def State.exhausted (s : State) (e : RetEnt) : State :=
  let s := s.raise pgSpares 3
  let s := if s.mode.rigRuns || s.mode == .maintenance then
      { s with glob := { s.glob with void := if s.glob.void.contains e then s.glob.void else s.glob.void ++ [e] } } else s
  s.fault 3 srcExhausted e.yard e.unit true

/-- Record the last retirement (Table 4.8). -/
def State.noteRetired (s : State) (kind yard phys cause : Nat) : State :=
  let s := s.setReg Reg.SPARES.LR_KIND kind
  let s := s.setReg Reg.SPARES.LR_YARD yard
  let s := s.setReg Reg.SPARES.LR_PHYS phys
  let s := s.setReg Reg.SPARES.LR_CAUSE cause
  let s := s.setReg Reg.SPARES.LR_FRAME s.frame32
  let s := s.inc Reg.SPARES.RETIRE_CNT
  s.raise pgSpares 0

/-! ### Sheave swaps -/

/-- The logical Sheave that runs on a physical one. -/
def Yard.logicalOf (v : Yard) (p : Nat) : Option Nat := (List.range 16).find? fun l => v.phys l == some p

/-- Set the pending swap of a yard. -/
def State.setSwap (s : State) (y : Nat) (w : Swap) : State :=
  let s := s.setYard y { s.yard y with swap := w }
  s.setDetail (pgYard y) 4 w.pending

/-- Request a swap of a mapped physical Sheave; F3 where there is no spare. -/
def State.requestSheave (s : State) (y l p cause : Nat) (auto retire : Bool) : State :=
  match (s.yard y).spare with
  | none => s.exhausted { kind := 8, yard := y, unit := p }
  | some t => s.setSwap y { pending := true, auto := auto, retire := retire, lsheave := l, frm := p, dst := t, cause := cause }

/-- A physical Sheave that serves no logical one is retired at once. -/
def State.retireIdleSheave (s : State) (y p cause : Nat) : State :=
  let v := s.yard y
  let s := s.setYard y { v with retired := v.retired ++ [p], spare := if v.spare = some p then none else v.spare }
  let s := (s.listRetired { kind := 8, yard := y, unit := p }).2
  let s := if (s.yard y).spare.isNone then s.setDetail (pgYard y) 5 true else s
  (s.noteRetired 8 y p cause).raise (pgYard y) 3

/-- A retirement raised by faults meets the pending request of its yard: an automatic one it waits for, a manager's it takes over or
cancels (R143). -/
def State.meetSheave (s : State) (y p : Nat) : State :=
  let v := s.yard y
  match v.logicalOf p with
  | none => s.retireIdleSheave y p 1
  | some l =>
    if !v.swap.pending then s.requestSheave y l p 1 true true
    else if v.swap.lsheave = l then s.setSwap y { v.swap with retire := true, auto := true, cause := 1 }
    else if v.swap.auto then s.setYard y { v with waiting := v.waiting ++ [p] }
    else (s.raise (pgYard y) 5).requestSheave y l p 1 true true

/-- A physical Sheave is to be retired for its faults: its F2, then the request (R136, R137). -/
def State.retireSheave (s : State) (y p : Nat) : State :=
  let s := s.fault 2 srcSheave y p
  if s.optNext.retired.length ≥ 512 then s.exhausted { kind := 8, yard := y, unit := p } else s.meetSheave y p

/-- The last checking fault of a yard: its code, its physical Sheave and its frame (Table 4.6), and INT_STAT.SHEAVE_FAULT. -/
def State.noteCheck (s : State) (y p code : Nat) : State :=
  let s := s.setReg (Reg.YARD.LAST_CODE y) code
  let s := s.setReg (Reg.YARD.LAST_PHYS y) p
  let s := s.setReg (Reg.YARD.LAST_FAULT_FRAME y) s.frame32
  s.raise (pgYard y) 2

/-- The fault count of a physical Sheave: one nibble of FAULTS (Table 4.6). -/
def State.bumpFaults (s : State) (y p : Nat) : State :=
  let F := if p < 8 then Reg.YARD.FAULTS_LO y else if p < 16 then Reg.YARD.FAULTS_HI y else Reg.YARD.FAULTS16 y
  let sh := 4 * (p % 8)
  let v := s.reg F
  s.setReg F (setBits v sh 4 (min 15 (bitsOf v sh 4 + 1)))

/-- A checking fault of codes 0x20 to 0x23 counts against the physical Sheave (R134, R136). -/
def State.sheaveFaultCount (s : State) (y p code : Nat) : State :=
  let s := s.fault 1 srcSheave y p
  let s := (s.bumpFaults y p).noteCheck y p code
  let v := s.yard y
  let ts := SMap.get [] v.faultFrames p ++ [s.frame.ticks]
  let s := s.setYard y { v with faultFrames := SMap.put [] v.faultFrames p ts }
  let busy := (v.swap.pending && v.swap.frm == p && v.swap.cause == 1) || v.waiting.contains p || v.retired.contains p
    || s.glob.void.contains { kind := 8, yard := y, unit := p }
  if closeFaults 2 ts && !busy then s.retireSheave y p else s

/-! ### Pool units -/

/-- The fault source of a pool (Table 16.8). -/
def poolSrc (k : Nat) : Nat := if k = 0 then srcCipher else if k = 1 then srcKeccak else if k = 2 then srcSha2 else srcLane

/-- The logical unit that runs on a physical one of a pool. -/
def Pool.logicalOf (p : Pool) (n u : Nat) : Option Nat := (List.range n).find? fun l => p.phys l == some u

/-- A field of INVENTORY that has reached zero is reported (Table 4.9). -/
def State.sparesLow (s : State) (zero : Bool) : State := if zero then s.raise pgSpares 2 else s

/-- No yard still holds a spare. -/
def State.noSheaveSpare (s : State) : Bool := (List.range 64).all fun y => (s.yard y).spare.isNone

/-- POOL_STAT names a pool and shows its request (R153). -/
def State.showPool (s : State) (k : Nat) : State :=
  let w := (s.pool k).swap
  let s := s.setBit Reg.SPARES.PENDING w.pending
  let s := s.setBit Reg.SPARES.CARRY_WAIT w.blocking
  let s := s.setBit Reg.SPARES.AUTO w.auto
  let s := s.setReg Reg.SPARES.KIND_1A1E4 k
  let s := s.setReg Reg.SPARES.LUNIT_1A1E4 w.lunit
  let s := s.setReg Reg.SPARES.FROM w.frm
  let s := s.setReg Reg.SPARES.TO w.dst
  s.setDetail pgSpares 4 ((List.range 4).any fun i => (s.pool i).swap.pending)

/-- The request of a pool has changed at a guard: POOL_STAT shows it where it names the pool. -/
def State.refreshPool (s : State) (k : Nat) : State :=
  if s.reg Reg.SPARES.KIND_1A1E4 = k then s.showPool k
  else s.setDetail pgSpares 4 ((List.range 4).any fun i => (s.pool i).swap.pending)

/-- Request the retirement of a mapped pool unit; F3 where there is no spare. -/
def State.requestPool (s : State) (k l p cause : Nat) (auto : Bool) : State :=
  let v := s.pool k
  match v.spares with
  | [] => s.exhausted { kind := k, yard := 0, unit := p }
  | t :: _ =>
    (s.setPool k { v with swap := { pending := true, auto := auto, lunit := l, frm := p, dst := t, cause := cause } }).refreshPool k

/-- A pool unit that serves no logical one is retired at once. -/
def State.retireIdlePool (s : State) (k p cause : Nat) : State :=
  let v := s.pool k
  let s := s.setPool k { v with retired := v.retired ++ [p], spares := v.spares.filter (· != p) }
  let s := (s.listRetired { kind := k, yard := 0, unit := p }).2
  (s.noteRetired k 0 p cause).sparesLow (s.pool k).spares.isEmpty

/-- A retirement of a pool unit meets the pending request of its pool (R143). -/
def State.meetPool (s : State) (k p : Nat) : State :=
  let v := s.pool k
  match v.logicalOf (poolUnits k) p with
  | none => s.retireIdlePool k p 1
  | some l =>
    if !v.swap.pending then s.requestPool k l p 1 true
    else if v.swap.lunit = l then (s.setPool k { v with swap := { v.swap with auto := true, cause := 1 } }).refreshPool k
    else if v.swap.auto then s.setPool k { v with waiting := v.waiting ++ [p] }
    else s.requestPool k l p 1 true

/-- A retirement of a pool unit raised by faults (R136); POOL_STAT reports its kind (R153). -/
def State.retirePool (s : State) (k p : Nat) (src : Nat := poolSrc k) : State :=
  let s := s.fault 2 src 0 p (unitSrc := poolSrc k)
  if s.optNext.retired.length ≥ 512 then s.exhausted { kind := k, yard := 0, unit := p } else (s.meetPool k p).showPool k

/-- Faults that retire a unit of a pool (Table 4.4). -/
def poolTrigger (k : Nat) : Nat := if k = 0 then 3 else 2

/-- A fault counts against a physical unit of a pool and may retire it (R136, R141). -/
def State.poolFaultCount (s : State) (k p : Nat) : State :=
  let v := s.pool k
  let ts := SMap.get [] v.faultFrames p ++ [s.frame.ticks]
  let s := s.setPool k { v with faultFrames := SMap.put [] v.faultFrames p ts }
  let busy := (v.swap.pending && v.swap.frm == p && v.swap.cause == 1) || v.waiting.contains p || v.retired.contains p
    || s.glob.void.contains { kind := k, yard := 0, unit := p }
  if closeFaults (poolTrigger k) ts && !busy then s.retirePool k p else s

/-! ### Yard units without a spare -/

/-- A detected fault of a yard's sequencer, GHASH unit or rill retires the unit, for which there is no spare: its F2 and the dependent
F3 (R136, R137, Table 4.4). DESIGN CHOICE (notes/assumptions/75.md): Table 16.8 gives these units no SOURCE, which is free, and
R466 no KIND in the retirement list; in the list of void units they are 11, 12 and 13. -/
def State.yardUnitFault (s : State) (y kind : Nat) : State :=
  if s.glob.void.contains { kind := kind, yard := y, unit := 0 } then s
  else
    let (k, s) := s.draw
    let s := (s.fault 2 (Config.freeNat k % 256) y 0 (unitSrc := 0x100 + kind)).exhausted { kind := kind, yard := y, unit := 0 }
    (s.inc Reg.SPARES.RETIRE_CNT).raise pgSpares 0

/-- The kinds of the yard units without a spare. -/
def kindSequencer : Nat := 11
def kindGhash : Nat := 12
def kindYardRill : Nat := 13

/-! ### The ADMIT page's machine (R66, R358) -/

/-- The mode allows admission. -/
def State.admitMode (s : State) : Bool := s.mode == .operational || s.mode == .degraded

/-- What the admission unit needs before it runs: the mode, the rig in effect and the store (Table 1.3). -/
def State.admitReady (s : State) : Bool := s.admitMode && s.rig.eff.isSome && s.cleat.ready

/-- ENABLE is set in OFF: STATE goes to STARTING, and to ON where the unit is ready. -/
def State.admitStart (s : State) : State := s.updHd pgAdmit fun h => { h with enable := true, st := if s.admitReady then 2 else 1 }

/-- STARTING ends once the unit is ready. -/
def State.admitPoll (s : State) : State :=
  s.updHd pgAdmit fun h => if h.st = 1 && s.admitReady then { h with st := 2 } else h

/-! ### The end of a mode change -/

/-- Step 8 of Table 16.3, once the rills and tests of step 6 and the reload and the rig load of step 7 have ended; during a
health failure, which instantiates no rill (R419), they wait and the change ends without them: CHANGING clears and the generation with
the new MODE falls due, except for TERMINATED. A change that waited starts (R477). -/
def State.changeEnd (s : State) : State :=
  match s.glob.change with
  | none => s
  | some c =>
    let busy := !s.spring.seedReady || !s.glob.katRun || s.reg Reg.CLEAT0.VAULT_STATE == 1 || s.rig.due || s.rig.loading.isSome
    if !c.wiped || (busy && !s.spring.healthFail) then s
    else
      let s := { s with glob := { s.glob with change := none } }
      let s := (s.setDetail pgGlobal 4 false).setBit Reg.GLOBAL.CHANGING false
      let s := if s.admitMode then s.admitStart else s
      let s := s.raise pgGlobal 0
      let s := if c.failed then s.raise pgGlobal 1 else s
      let s := if s.mode == .terminated then s else s.optChange fun o => { o with
        mode := s.mode.num, prevMode := s.glob.prevMode.num,
        modeFrame := s.reg Reg.GLOBAL.MODE_FRAME_LO + 2 ^ 32 * s.reg Reg.GLOBAL.MODE_FRAME_HI }
      match s.glob.queued with
      | some q => ({ s with glob := { s.glob with change := some q, queued := none } }.setDetail pgGlobal 4 true).setBit Reg.GLOBAL.CHANGING true
      | none => s

end Sys2Proof.Machine
end

