-- ==== Sys2Proof/Machine/Art.lean ====
section
/-!
DEFINITION. The access rule table (R429 to R439): the permission of an access, refusals and their FIFO, the shadow
table and its commit; and the host instances of the check-value units (R443, R444).
-/
set_option autoImplicit false

namespace Sys2Proof.Machine

/-! ### Permission -/

/-- What an access does. -/
inductive AccKind where
  | read | write | fetch
  deriving DecidableEq, Repr

/-- Table 1.2 marks the initiator ID reserved. -/
def initReserved (id : Nat) : Bool :=
  (0x001 ≤ id && id ≤ 0x00F) || (0x058 ≤ id && id ≤ 0x0FF) || 0x200 ≤ id

/-- The system rules, rows 1,016 to 1,023 (Table 14.3). -/
def systemRules : List Rule :=
  let u (a b id mask : Nat) (x : Bool) : Rule :=
    { valid := true, base := a / 64, limit := b / 64, id := id, idMask := mask, partAny := true, r := true, w := true, x := x }
  [ u 0 0xFFFFFFFFFF 0x000 0x3FF true,
    u 0x0040000000 0x00400FFFFF 0x057 0x3FF false,
    u 0x0100000000 0x0100FFFFFF 0x050 0x3FE false,
    u 0x0081000000 0x0081FFFFFF 0x052 0x3FF false,
    u 0x0010000000 0x001003FFFF 0x053 0x3FF false,
    u 0x0010000000 0x001003FFFF 0x054 0x3FF false,
    u 0x0010000000 0x001003FFFF 0x055 0x3FF false,
    u 0x0010000000 0x001003FFFF 0x056 0x3FF false ]

/-- An internal address of a Sheave RAM (Table 4.2): physical Sheaves 0 to 16, instruction RAM, data RAM at + 0x8000. -/
def sheaveRam (a : Nat) : Bool :=
  0x110000000 ≤ a && a ≤ 0x117FFFFFF && a % 0x200000 < 0x110000 && (a % 0x10000 < 0x4000 || 0x8000 ≤ a % 0x10000)

/-- An internal address that Table 14.1 maps. -/
def artMapped (a : Nat) : Bool :=
  a ≤ 0xFFFF || (0x10000000 ≤ a && a ≤ 0x1003FFFF) || (0x40000000 ≤ a && a ≤ 0x400FFFFF)
    || (0x80000000 ≤ a && a ≤ 0x81FFFFFF) || (0x90000000 ≤ a && a ≤ 0x90001FFF)
    || (0x100000000 ≤ a && a ≤ 0x100FFFFFF) || sheaveRam a

/-- The permission bit of an access type. -/
def Rule.bit (u : Rule) : AccKind → Bool
  | .read => u.r
  | .write => u.w
  | .fetch => u.x

/-- A rule permits a byte of an access (R431); a host-port request carries no address. Sheave RAM is Naris's alone (R126). -/
def Rule.permits (u : Rule) (init : Nat) (part : Option Nat) (host : Bool) (k : AccKind) (a : Nat) : Bool :=
  !initReserved init && u.valid && (init &&& u.idMask == u.id &&& u.idMask)
    && (u.partAny || part == some u.part)
    && u.host == host && (host || (artMapped a && (init == 0 || !sheaveRam a) && u.base * 64 ≤ a && a ≤ u.limit * 64 + 63)) && u.bit k

/-- The rules in effect: the manager's rows and the system rows. -/
def State.rules (s : State) : List Rule := s.art.act.map Prod.snd ++ systemRules

/-- One rule permits both the first and the last byte (R432). -/
def State.artOk (s : State) (init : Nat) (part : Option Nat) (k : AccKind) (a n : Nat) : Bool :=
  s.rules.any fun u => u.permits init part false k a && u.permits init part false k (a + n - 1)

/-- The ART permits a host-port request of a partition's initiator. -/
def State.artHost (s : State) (p : Nat) (k : AccKind) : Bool :=
  s.rules.any fun u => u.permits (0x100 + p) (some p) true k 0

/-- The first byte that a refused access was refused at (R437): the first byte if no rule permits it, else the last. -/
def State.artFirst (s : State) (init : Nat) (part : Option Nat) (k : AccKind) (a n : Nat) : Nat :=
  if s.rules.any fun u => u.permits init part false k a then a + n - 1 else a

/-! ### Refusals (R435, R437) -/

/-- A refusal enters the ART_ERR FIFO and raises its interrupts. -/
def State.artRefuse (s : State) (init : Nat) (part : Option Nat) (imprecise : Bool) (k : AccKind) (host : Bool) (a : Nat) : State :=
  let s := s.inc Reg.ART.DENY_CNT
  let s := s.raise pgArt 1
  let s := if imprecise then s.raise pgArt 2 else s
  if s.art.err.length < 64 then
    { s with art := { s.art with err := s.art.err ++ [{
        init := init, part := part.getD 0xFF, imprecise := imprecise, write := k == .write, fetch := k == .fetch,
        host := host, page := if host then 0 else a / 4096 % 2 ^ 28, frame := s.frame32 }] } }
  else (s.inc Reg.ART.OVF_CNT).raise pgArt 3

/-- A host-port request of a partition: whether it is permitted, with the refusal logged where it is not. -/
def State.hostAccess (s : State) (p : Nat) (k : AccKind) : Bool × State :=
  if s.artHost p k then (true, s) else (false, s.artRefuse (0x100 + p) (some p) false k true 0)

/-- An access at an internal address: whether it is permitted, with the refusal logged where it is not. -/
def State.netAccess (s : State) (init : Nat) (part : Option Nat) (imprecise : Bool) (k : AccKind) (a n : Nat) : Bool × State :=
  if s.artOk init part k a n then (true, s)
  else (false, s.artRefuse init part imprecise k false (s.artFirst init part k a n))

/-- An access of the card DMA to Naris RAM (R21, R521): a read is precise, a write imprecise (Table 14.4). -/
def State.cardDma (s : State) (k : AccKind) (buf n : Nat) : Bool × State :=
  s.netAccess 0x055 none (k == .write) k (0x10000000 + buf) n

/-- A manager's access of 4 bytes at a BAR0 offset (R21, Table 14.1), or Naris's own. -/
def State.pageAccess (s : State) (byNaris : Bool) (k : AccKind) (off : Nat) : Bool × State :=
  s.netAccess (if byNaris then 0x000 else 0x057) none (k == .write) k (0x40000000 + off) 4

/-- `ERR_FRAME_READ` : the read answers the oldest entry's frame and removes the entry (R437, R445). -/
def execErrFrameRead (byNaris : Bool) (s : State) : Result :=
  if !s.readArrives byNaris 0x11 then .next s else
  let v := match s.art.err with
    | e :: _ => e.frame
    | [] => 0
  let s := { s with art := { s.art with err := s.art.err.drop 1 } }
  .next (s.emit (.regRead (if byNaris then 1 else 0) Reg.ART.ERR_FRAME.off v))

/-! ### Shadow table and commit (R438, R439) -/

/-- A rule that COMMIT refuses. -/
def Rule.bad (u : Rule) : Bool :=
  u.valid && (u.limit < u.base || (u.host && (u.base != 0 || u.limit != 0)) || (u.x && u.id != 0))

/-- `ART_COMMIT` : every valid manager row of the shadow is checked; the swap waits for the guard (R438). -/
def execArtCommit (s : State) : Result :=
  if s.art.commit then .next (s.refuse pgArt 0x03)
  else
    match s.art.sh.find? fun (e : Nat × Rule) => e.2.bad with
    | some e => .next (s.refuse pgArt 0x91 e.1)
    | none =>
      let s := { s with art := { s.art with commit := true } }
      .next ((s.setBit Reg.ART.PENDING true).setDetail pgArt 4 true)

/-- Rows whose shadow differs from the table in effect. -/
def State.artDiff (s : State) : Nat :=
  ((List.range 1016).filter fun r => SMap.get {} s.art.sh r != SMap.get {} s.art.act r).length

/-- A committed shadow takes effect: it holds the network for ⌈n ÷ 16⌉ cycles (R439). -/
def State.artSwap (s : State) : State :=
  if !s.art.commit then s
  else
    let hold := ceilDiv s.artDiff 16
    let s := { s with art := { s.art with act := s.art.sh, commit := false } }
    let s := (s.setBit Reg.ART.PENDING false).setDetail pgArt 4 false
    let s := (s.setReg Reg.ART.COMMIT_FRAME s.frame32).setReg Reg.ART.HOLD_LAST hold
    let s := s.setReg Reg.ART.HOLD_MAX (max hold (s.reg Reg.ART.HOLD_MAX))
    s.raise pgArt 0

/-- Manager rules are cleared: by a reset, and on entry to UNCLAIMED and TERMINATED (R434). -/
def State.artClear (s : State) : State :=
  let s := { s with art := { s.art with act := [], sh := [], commit := false } }
  (s.setBit Reg.ART.PENDING false).setDetail pgArt 4 false

/-! ### Host CVU instances (R443, R444) -/

/-- A host CVU run of instance `h`. -/
def State.cvu (s : State) (h : Nat) : Option HostCvu := SMap.get none s.cvus h

/-- Replace a host CVU run; STATE[4] and BUSY follow. -/
def State.setCvu (s : State) (h : Nat) (v : Option HostCvu) : State :=
  let s := { s with cvus := SMap.put none s.cvus h v }
  (s.setBit (Reg.CVU.BUSY h) v.isSome).setDetail pgCvu 4 (!s.cvus.isEmpty)

/-- A run ends with its RESULT, its value and its interrupt bits. -/
def State.endCvu (s : State) (h res val : Nat) : State :=
  let s := s.setCvu h none
  let s := ((s.setReg (Reg.CVU.RESULT h) res).setReg (Reg.CVU.HRES_LO h) val).setReg (Reg.CVU.HRES_HI h) (val / 2 ^ 32)
  let s := s.setReg (Reg.CVU.HFRAME h) s.frame32
  let s := s.raise pgCvu (16 + h)
  if res = 2 then s.raise pgCvu h else s

/-- A partition whose buffers a host CVU may read (R444). -/
def PState.readable : PState → Bool
  | .active | .quiescing | .quiesced => true
  | _ => false

/-- `HGO` : the instance captures its configuration and starts to read; a run with length 0 is one whose read the
ART refused (R443, R444). -/
def execHgo (h : Fin 16) (s : State) : Result :=
  let p := s.reg (Reg.CVU.HPART h)
  let len := s.reg (Reg.CVU.HLEN h)
  if (s.cvu h).isSome then .next (s.refuse pgCvu 0x92 h)
  else if !(s.part p).st.readable then .next (s.refuse pgCvu 0x93 h)
  else if len = 0 then .next (s.refuse pgCvu 0x01 h)
  else
    let addr := s.reg (Reg.CVU.HADDR_LO h) + 2 ^ 32 * s.reg (Reg.CVU.HADDR_HI h)
    let (ok, s) := s.hostAccess p .read
    let s := if ok && s.hostUp then s.emit (.hostRead (s.part p).pasid addr len) else s
    .next (s.setCvu h (some {
      poly := s.reg (Reg.CVU.POLY h), fold := s.bit (Reg.CVU.FOLD_EN h), cmp := s.bit (Reg.CVU.CMP_EN h),
      part := p, addr := addr, len := if ok then len else 0, foldWord := s.reg (Reg.CVU.HFOLD h),
      expect := s.reg (Reg.CVU.HEXP_LO h) + 2 ^ 32 * s.reg (Reg.CVU.HEXP_HI h) }))

/-- The CRC that a run computes (R441). -/
def HostCvu.value (v : HostCvu) (bs : List Byte) : Nat :=
  if v.fold then crcFold (crcPar v.poly) bs v.foldWord else crc (crcPar v.poly) bs

/-- `HOST_CVU_DONE` : MATCH, MISMATCH, COMPUTED or READ_ERR (R443). -/
def execHostCvuDone (h : Fin 16) (data : Option (List Byte)) (s : State) : Result :=
  match s.cvu h with
  | none => .next s
  | some v =>
    match data with
    | none => .next (s.endCvu h 4 0)
    | some bs =>
      if v.len = 0 then .next (s.endCvu h 4 0)
      else
        let x := v.value (fitBytes v.len bs)
        .next (s.endCvu h (if !v.cmp then 3 else if x = v.expect % 2 ^ (crcPar v.poly).w then 1 else 2) x)

/-- A reset or destroy of partition `p` ends the runs that read for it (R444). -/
def State.endCvusOf (s : State) (p : Nat) : State :=
  (List.range 16).foldl (fun s h => match s.cvu h with
    | some v => if v.part = p then s.endCvu h 4 0 else s
    | none => s) s

end Sys2Proof.Machine
end

