-- ==== Sys2Proof/Machine/Operands.lean ====
section
/-!
DEFINITION. Registers of an executor (R93), conditions (R102, R103), and register writes that fall due after delay
slots (R107 to R109).
-/
set_option autoImplicit false

namespace Sys2Proof.Machine

/-- Address register. -/
def Cpu.ar (u : Cpu) (r : Fin 8) : Word := u.a[r]

/-- Data register. -/
def Cpu.dr (u : Cpu) (r : Fin 16) : Word := u.d[r]

/-- Accumulator. -/
def Cpu.qr (u : Cpu) (r : Fin 4) : Acc := u.q[r]

/-- The register after a data register: the high half of a pair. -/
def nextReg (r : Fin 16) : Fin 16 := ⟨(r.val + 1) % 16, Nat.mod_lt _ (by decide)⟩

/-- A write to an accumulator: SEALED is ORed with what the register held; KEY and the extension come with the value
(R98, R101). -/
def Acc.over (old new : Acc) : Acc := { new with sealed := old.sealed || new.sealed }

/-- Flags after a write that names some of them. -/
def Flags.put (f : Flags) (n z c v m : Option Bool) : Flags :=
  { n := n.getD f.n, z := z.getD f.z, c := c.getD f.c, v := v.getD f.v, m := m.getD f.m }

/-- Make one register write. -/
def Cpu.write (u : Cpu) : RegWrite → Cpu
  | .d r v => { u with d := u.d.set r.val v r.isLt }
  | .a r v => { u with a := u.a.set r.val v r.isLt }
  | .q r v => { u with q := u.q.set r.val ((u.qr r).over v) r.isLt }
  | .qclr r => { u with q := u.q.set r.val {} r.isLt }
  | .fl n z c v m => { u with fl := u.fl.put n z c v m }

/-- The register write of bytes that a load read, by their number (R97, Table 3.7). -/
def LoadTo.write (t : LoadTo) (bs : List Byte) : RegWrite :=
  match t with
  | .d r sx => .d r (if sx then (BitVec.ofNat (8 * bs.length) (leNat bs)).signExtend 32 else BitVec.ofNat 32 (leNat bs))
  | .a r => .a r (BitVec.ofNat 32 (leNat bs))
  | .q r => .q r { val := bytesQuad bs }

/-- Insert a delayed write behind every write that falls due no later (R109). -/
def pendInsert (p : PendWrite) : List PendWrite → List PendWrite
  | [] => [p]
  | x :: xs => if x.due ≤ p.due then x :: pendInsert p xs else p :: x :: xs

/-- Make a write due at a cycle. -/
def Cpu.later (u : Cpu) (due : Nat) (w : RegWrite) : Cpu := { u with pend := pendInsert { due := due, w := w } u.pend }

/-- Land every write due by cycle `c`, in due order (R108, R109). -/
def Cpu.land (u : Cpu) (c : Nat) : Cpu :=
  let now := u.pend.takeWhile fun p => p.due ≤ c
  let rest := u.pend.dropWhile fun p => p.due ≤ c
  now.foldl (fun u p => u.write p.w) { u with pend := rest }

/-- The condition holds (Table 3.5). -/
def condHolds (c : Cond) (f : Flags) : Bool :=
  match c with
  | .eq => f.z
  | .mi => f.n
  | .cs => f.c
  | .vs => f.v
  | .hi => f.c && !f.z
  | .ge => f.n == f.v
  | .gt => !f.z && (f.n == f.v)
  | .ne => !f.z
  | .pl => !f.n
  | .cc => !f.c
  | .vc => !f.v
  | .ls => !f.c || f.z
  | .lt => f.n != f.v
  | .le => f.z || (f.n != f.v)
  | .al => true

/-- The MC field lets the instruction execute (R103). -/
def mcHolds (m : MC) (f : Flags) : Bool :=
  match m with
  | .always => true
  | .qm => f.m
  | .qn => !f.m
  | .m3 => false

end Sys2Proof.Machine
end

