-- ==== Sys2Proof/Machine/Flags.lean ====
section
/-!
DEFINITION. The results and flags of the arithmetic of Table 3.7 (R106): sums and differences with carry, logic,
shifts, table look-up (R110).
-/
set_option autoImplicit false

namespace Sys2Proof.Machine

/-- A result with the flags that its instruction names; C and V are none where it leaves them. -/
structure AluOut where
  r : Word
  c : Option Bool := none
  v : Option Bool := none
  deriving DecidableEq, Repr

/-- The register writes of an ALU result: destination, and N, Z with the named C and V where `f`. -/
def AluOut.writes (o : AluOut) (dd : Option (Fin 16)) (f : Bool) : List (Nat × RegWrite) :=
  (match dd with | some r => [(0, RegWrite.d r o.r)] | none => []) ++
  (if f then [(0, RegWrite.fl (some o.r.msb) (some (o.r == 0)) o.c o.v none)] else [])

/-- A sum with a carry in: C is the carry out, V the signed overflow. -/
def aluAdd (a b : Word) (cin : Bool) : AluOut :=
  let t := a.toNat + b.toNat + (if cin then 1 else 0)
  let r := BitVec.ofNat 32 t
  { r := r, c := some (decide (2 ^ 32 ≤ t)), v := some ((a.msb == b.msb) && (r.msb != a.msb)) }

/-- A difference, Dn − Dm − (1 − C): C = 1 means that no borrow occurred. -/
def aluSub (a b : Word) (cin : Bool) : AluOut := aluAdd a (~~~b) cin

/-- A result of logic: C and V are left. -/
def aluLogic (r : Word) : AluOut := { r := r }

/-- The shifts. -/
inductive ShiftOp where
  | shl | shr | sar | ror
  deriving DecidableEq, Repr

/-- A shift by 0 to 31: C is the last bit shifted out, left by a shift of 0. -/
def aluShift (op : ShiftOp) (a : Word) (n : Nat) : AluOut :=
  if n = 0 then { r := a }
  else
    match op with
    | .shl => { r := a <<< n, c := some (a.getLsbD (32 - n)) }
    | .shr => { r := a >>> n, c := some (a.getLsbD (n - 1)) }
    | .sar => { r := a.sshiftRight n, c := some (a.getLsbD (n - 1)) }
    | .ror => { r := a.rotateRight n, c := some (a.getLsbD (n - 1)) }

/-- Leading zeros, 0 to 32. -/
def clzAux (a : Word) : Nat → Nat
  | 0 => 32
  | n + 1 => if a.getLsbD n then 31 - n else clzAux a n

/-- Leading zeros, 0 to 32. -/
def clzOf (a : Word) : Word := BitVec.ofNat 32 (clzAux a 32)

/-- Byte order reversed. -/
def bswapOf (a : Word) : Word := BitVec.ofNat 32 (beNat (leBytes 4 a.toNat))

/-- Nearest integer to `n ÷ 65,536`, a tie away from zero. -/
def round16 (n : Int) : Int :=
  let q : Int := ((2 * n.natAbs + 65536) / 131072 : Nat)
  if 0 ≤ n then q else -q

/-- TLI on the entries it reads (R110): the count, T[k], T[k+1] and T[N − 1]. The flag is V. -/
def tliOf (n : Nat) (k f : Nat) (tk tk1 tlast : Int) : Int × Bool :=
  if n = 0 then (0, true)
  else if k + 1 < n then (round16 (tk * 65536 + (tk1 - tk) * f), false)
  else (tlast, true)

end Sys2Proof.Machine
end

