-- ==== Sys2Proof/Machine/Issue.lean ====
section
/-!
DEFINITION. How an executor issues an instruction (R87 to R91, R104, R105), how a fault ends an item or traps Naris
(R123, R124, R134, R135), and the Sheave's view of data RAM and yard memory.
-/
set_option autoImplicit false

namespace Sys2Proof.Machine

/-! ### Executors -/

/-- The registers of an executor. -/
def State.cpu (s : State) : Exec → Cpu
  | .sheave y l => (s.sheave y l).cpu
  | .naris => s.naris.cpu

/-- Replace the registers of an executor. -/
def State.setCpu (s : State) (ex : Exec) (u : Cpu) : State :=
  match ex with
  | .sheave y l => s.setSheave y l { s.sheave y l with cpu := u }
  | .naris => { s with naris := { s.naris with cpu := u } }

/-- A Naris load waits at the arbiter of witness memory (R537). -/
def State.loadWaits (s : State) : Bool :=
  s.witness.wired.any fun (e : Wired × Nat) => match e.1 with
    | .load _ _ _ => true
    | _ => false

/-- The executor issues: a Sheave runs and its EGRESS window has not started; Naris does not wait. -/
def State.canIssue (s : State) : Exec → Bool
  | .sheave y l => (s.sheave y l).run == .running && decide ((s.sheave y l).cpu.cyc < (s.sheave y l).stop)
  | .naris => !s.naris.waiting && s.naris.load.isNone && !s.loadWaits

/-- Naris, not a Sheave. -/
def isNaris : Exec → Bool
  | .sheave _ _ => false
  | .naris => true

/-- The item that a Sheave runs. -/
def State.itemOf (s : State) : Exec → Option Item
  | .sheave y l => s.item (s.sheave y l).item
  | .naris => none

/-- The class of the item that a Sheave runs. -/
def State.classOf (s : State) (ex : Exec) : Option ClassEnt := (s.itemOf ex).bind fun i => s.classEnt i.cls

/-- Fabric time at which the current Sheave cycle begins (R88, R113). -/
def State.exTime (s : State) (ex : Exec) : Nat := s.frame.ticks * 2 ^ 20 + fabricOf (s.cpu ex).cyc

/-! ### Faults -/

/-- The result bytes of a Sheave fault (R123, R134). -/
def faultBytes (code kind p y : Nat) (pc : Word) : List Byte :=
  [BitVec.ofNat 8 code, BitVec.ofNat 8 kind, BitVec.ofNat 8 p, BitVec.ofNat 8 y] ++ leBytes 4 pc.toNat

/-- A Sheave stops with a fault: its item will complete with INTERNAL_FAULT; writes still pending are discarded. -/
def State.stopSheave (s : State) (y l : Nat) (bytes : List Byte) (time : Nat) : State :=
  let sh := s.sheave y l
  let s := s.setSheave y l { sh with run := .faulted, cpu := { sh.cpu with pend := [] } }
  s.updItem sh.item fun i => { i with sfault := some (i.sfault.getD (time, bytes)) }

/-- An uncorrectable yard memory error: counted; a second one within 2²⁰ frames is F3 (R135). -/
def State.yardUe (s : State) (y : Nat) : State :=
  let s := s.inc (Reg.YARD.YMEM_UE_CNT y)
  let s := s.raise (pgYard y) 7
  let v := s.yard y
  let ts := v.ueFrames ++ [s.frame.ticks]
  let s := s.setYard y { v with ueFrames := ts }
  if closeFaults 2 ts then ({ s with glob := { s.glob with memUe := true } }).fault 3 srcYmem y 0 else s

/-- A corrected yard memory error: counted, F0 (R135). -/
def State.yardCe (s : State) (y : Nat) : State :=
  ((s.sat (Reg.YARD.YMEM_CE_CNT y)).raise (pgYard y) 6).fault 0 srcYmem y 0

/-- A fault that an instruction of an executor raises: a Sheave stops (R123); Naris traps to SR_VBASE + 0x10 × code with
IE copied to PIE and cleared (R124). -/
def State.instrFault (s : State) (ex : Exec) (code : Nat) : State :=
  let u := s.cpu ex
  match ex with
  | .sheave y l =>
    (s.stopSheave y l (faultBytes code 0x01 (s.physSheave y l) y u.pc) (s.exTime ex)).fault 1 srcSheave y (s.physSheave y l)
  | .naris =>
    { s with naris := { s.naris with
      cpu := { u with pc := s.naris.vbase + BitVec.ofNat 32 (0x10 * code) },
      epc := u.pc, cause := BitVec.ofNat 32 code, status := (s.naris.status % 2) * 2 } }

/-- The code of an error that the Sheave's checking detects (Table 4.3). -/
def chkCode : Chk → Nat
  | .none => 0
  | .regDmr => 0x20
  | .aluResidue => 0x21
  | .iramParity => 0x22
  | .dramParity => 0x23
  | .ymemUe => 0x24
  | .ymemCe | .unit => 0

/-- A fault of the Sheave's own checking: 0x02 in byte 1; it counts against the physical Sheave, or, for yard memory,
against the yard (R134, R135). -/
def State.checkFault (s : State) (y l : Nat) (c : Chk) : State :=
  let p := s.physSheave y l
  let u := (s.sheave y l).cpu
  let s := s.stopSheave y l (faultBytes (chkCode c) 0x02 p y u.pc) (s.exTime (.sheave (Fin.ofNat 64 y) (Fin.ofNat 16 l)))
  if c = .ymemUe then ((s.fault 1 srcYmem y 0).noteCheck y p 0x24).yardUe y else s.sheaveFaultCount y p (chkCode c)

/-- The GHASH unit or the rill of the yard detects a fault of its own in what it does for a Sheave: the Sheave's item ends with
INTERNAL_FAULT, with a code that Table 4.3 does not give and that is free, and the unit is to be retired (R136, R141). -/
def State.unitFault (s : State) (y l kind : Nat) : State :=
  let (k, s) := s.draw
  let u := (s.sheave y l).cpu
  let s := s.stopSheave y l (faultBytes (Config.freeNat k) 0x02 (s.physSheave y l) y u.pc) (s.exTime (.sheave (Fin.ofNat 64 y) (Fin.ofNat 16 l)))
  s.yardUnitFault y kind

/-! ### The Sheave's memory (R89 to R92) -/

/-- The regions of Table 3.1. -/
inductive Region where
  | iram | dram | ymem | port
  deriving DecidableEq, Repr

/-- The region of a local address. -/
def regionOf (a : Nat) : Option Region :=
  if a < 0x4000 then some .iram
  else if 0x10000 ≤ a ∧ a < 0x18000 then some .dram
  else if 0x100000 ≤ a ∧ a < 0x140000 then some .ymem
  else if 0xF00000 ≤ a ∧ a < 0x1000000 then some .port
  else none

/-- The message buffer of the item that a Sheave runs: yard offset and length (R57, R91). -/
def State.bufferOf (s : State) (i : Item) : Nat × Nat :=
  match i.place.slot with
  | some k =>
    match s.slotEnt k, s.classEnt i.cls with
    | some e, some c => (64 * (if i.place.bufB then e.bufB else e.bufA), 64 * c.bufLen)
    | _, _ => (0, 0)
  | none => (0, 0)

/-- A byte of yard memory lies in the item's own buffer. -/
def State.inBuffer (s : State) (i : Item) (off : Nat) : Bool :=
  let (b, n) := s.bufferOf i
  decide (b ≤ off) && decide (off < b + n)

/-- A byte of yard memory lies in a TABLES destination of kind 0 or 1 of the yard (R91). -/
def State.inTables (s : State) (y off : Nat) : Bool :=
  match s.rig.eff with
  | some r => r.tables.any fun t =>
      (t.kind == 0 || (t.kind == 1 && t.yard == y)) && decide (t.off ≤ off) && decide (off < t.off + t.data.length)
  | none => false

/-- What an access asks for: a read that may reach TABLES, a write, or the SRC of a port. -/
inductive MemUse where
  | read | write | src
  deriving DecidableEq, Repr

/-- The checks of R90 and R91 on a Sheave access of `n` bytes: its region, or the code of its fault. The alignment is
checked first, then the region, then the window (notes/assumptions/9.md). -/
def State.memCheck (s : State) (y l : Nat) (a n align : Nat) (use : MemUse) (tli : Bool := false) : Except Nat Region :=
  let last := a + n - 1
  if a % align ≠ 0 then .error 0x05
  else
    match regionOf a, regionOf last with
    | some .dram, some .dram => .ok .dram
    | some .ymem, some .ymem =>
      if tli then .error 0x03
      else
        match s.item (s.sheave y l).item with
        | none => .error 0x04
        | some i =>
          let ok (x : Nat) := s.inBuffer i x || (use == .read && s.inTables y x)
          if ok (a - 0x100000) && ok (last - 0x100000) then .ok .ymem else .error 0x04
    | _, _ => .error 0x03

/-- A byte of yard memory as a Sheave reads it in fabric time `t`: the old value where a unit writes it in the same fabric cycle
(R92), or in a later one. -/
def State.ymemAt (s : State) (k t : Nat) : Byte :=
  match SMap.get none s.unitPuts k with
  | some (w, old) => if t ≤ w then old else SMap.get 0 s.ymem k
  | none => SMap.get 0 s.ymem k

/-- The fabric cycle in which a Sheave reads memory (R88). -/
def State.readTime (s : State) (y l : Nat) : Nat := s.frame.ticks * 2 ^ 20 + 5 * (s.sheave y l).cpu.cyc / 4

/-- Bytes that a Sheave reads at a checked address. -/
def State.memBytes (s : State) (y l : Nat) (r : Region) (a n : Nat) : List Byte :=
  if r = .dram then SMap.bytes s.dram (ramBase y (s.physSheave y l) + (a - 0x10000)) n
  else (List.range n).map fun i => s.ymemAt (y * 0x40000 + (a - 0x100000) + i) (s.readTime y l)

/-- Bytes that a Sheave writes at a checked address. -/
def State.memPut (s : State) (y l : Nat) (r : Region) (a : Nat) (bs : List Byte) : State :=
  if r = .dram then { s with dram := SMap.putBytes s.dram (ramBase y (s.physSheave y l) + (a - 0x10000)) bs }
  else { s with unitPuts := SMap.clear s.unitPuts (y * 0x40000 + (a - 0x100000)) bs.length }.ymemWrite y (a - 0x100000) bs

/-- Delay slots of a load (Table 3.7). -/
def Region.delay (r : Region) : Nat := if r = .dram then 1 else 3

/-! ### Issue -/

/-- What an instruction does where it executes: a next state with register writes after their delay slots and a branch
target; a fault; or the state that an error of the Sheave's checking leaves. -/
inductive Eff where
  | ok (s : State) (ws : List (Nat × RegWrite)) (next : Option Word)
  | fault (code : Nat)
  | stop (s : State)

/-- The end of an issue at cycle `c` that takes `k` cycles: writes placed `c + k + d`, program counter moved, writes
that have fallen due landed (R108). -/
def State.retire (s : State) (ex : Exec) (k : Nat) (ws : List (Nat × RegWrite)) (next : Option Word) : State :=
  let u := s.cpu ex
  let c := u.cyc + k
  let u := ws.foldl (fun u w => u.later (c + w.1) w.2) u
  s.setCpu ex ({ u with cyc := c, pc := next.getD (u.pc + 4) }.land c)

/-- The internal address of an address in Naris's window (Table 3.15). -/
def State.narisWin (s : State) (a : Nat) : Nat := s.naris.nwin * 2 ^ 31 + (a - 0x80000000)

/-- Sequential fetch or a branch has left instruction memory: FETCH on a Sheave (R89), ADDR_CLASS on Naris (R124), whose window
serves a fetch that the access rules permit (Table 3.15). -/
def State.fetchFault (s : State) (ex : Exec) (pc : Word) : Option Nat :=
  let a := pc.toNat
  if isNaris ex then
    if a ≤ 0xFFFF ∨ (0x01000000 ≤ a ∧ a ≤ 0x01FFFFFF) ∨ (0x10000000 ≤ a ∧ a ≤ 0x1003FFFF) then none
    else if 0x80000000 ≤ a ∧ s.artOk 0 none .fetch (s.narisWin a) 4 then none
    else some 0x03
  else if a ≤ 0x3FFC then none else some 0x08

/-- A fetch through the window that the access rules refuse is logged (R437). -/
def State.logFetch (s : State) (ex : Exec) (pc : Word) : State :=
  if isNaris ex && decide (0x80000000 ≤ pc.toNat) then (s.netAccess 0 none false .fetch (s.narisWin pc.toNat) 4).2 else s

/-- Issue one instruction. `legal` is everything that R105 judges whatever the condition, `pass` the condition or MC,
`k` the cycle count, and `eff` the effect where it executes. An error of the Sheave's checking ends the item before the
effect; one of memory is the effect's own (`chk` of the effect). -/
def issue (ex : Exec) (legal : State → Bool) (chk : Chk) (pass : Flags → Bool) (k : Nat)
    (eff : State → Cpu → Eff) (s : State) : Result :=
  if !s.canIssue ex then .next s
  else
    let u := s.cpu ex
    match s.fetchFault ex u.pc with
    | some code => .next ((s.logFetch ex u.pc).instrFault ex code)
    | none =>
      match ex, chk with
      | .sheave y l, .iramParity => .next (s.checkFault y l .iramParity)
      | _, _ =>
        if !legal s then .next (s.instrFault ex 0x01)
        else if !pass u.fl then .next (s.retire ex k [] none)
        else
          match ex, chk with
          | .sheave y l, .regDmr => .next (s.checkFault y l .regDmr)
          | .sheave y l, .aluResidue => .next (s.checkFault y l .aluResidue)
          | _, _ =>
            match eff s u with
            | .ok t ws next => .next (t.retire ex k ws next)
            | .fault code => .next (s.instrFault ex code)
            | .stop t => .next t

/-- Issue an instruction of the conditional group. -/
def issueC (h : CHdr) (legal : State → Bool) (k : Nat) (eff : State → Cpu → Eff) (s : State) : Result :=
  issue h.ex (fun s => h.rsv == 0 && legal s) h.chk (condHolds h.cond) k eff s

/-- Issue an instruction of the extended group; MC 11 is ILLEGAL (R103). -/
def issueX (x : XHdr) (legal : State → Bool) (k : Nat) (eff : State → Cpu → Eff) (s : State) : Result :=
  issue x.ex (fun s => x.rsv == 0 && decide (x.mc ≠ .m3) && legal s) x.chk (mcHolds x.mc) k eff s

/-- No further cause of ILLEGAL. -/
def always (_ : State) : Bool := true

/-- An effect on registers alone. -/
def Eff.regs (s : State) (ws : List (Nat × RegWrite)) : Eff := .ok s ws none

end Sys2Proof.Machine
end

