-- ==== Sys2Proof/Machine/SheaveWord.lean ====
section
/-!
DEFINITION. The encodings of the Sheave (R102, R103, R105, Table 3.6 to Table 3.8, Table 3.16): which command an
instruction word issues, and the word that an executor fetches next. The commands arrive decoded (notes/assumptions/1.md);
these functions say which one the spec's encoding gives.
-/
set_option autoImplicit false

namespace Sys2Proof.Machine

/-- Bits `[lo + n - 1 : lo]` of an instruction word. -/
def wbits (w : Word) (lo n : Nat) : BitVec n := w.extractLsb' lo n

/-- A data register field. -/
def wD (w : Word) (lo : Nat) : Fin 16 := (wbits w lo 4).toFin

/-- An address register field. -/
def wA (w : Word) (lo : Nat) : Fin 8 := (wbits w lo 3).toFin

/-- An accumulator field. -/
def wQ (w : Word) (lo : Nat) : Fin 4 := (wbits w lo 2).toFin

/-- One bit. -/
def wB (w : Word) (i : Nat) : Bool := w.getLsbD i

/-- Reserved bits: those of a mask, which R105 wants zero. -/
def wRsv (w : Word) (mask : BitVec 24) : BitVec 24 := w.truncate 24 &&& mask

/-- The condition of bits [31:28]; the extended group has none (Table 3.5). -/
def condOf (w : Word) : Option Cond :=
  match (wbits w 28 4).toNat with
  | 0 => some .eq | 1 => some .mi | 2 => some .cs | 3 => some .vs | 4 => some .hi | 5 => some .ge | 6 => some .gt
  | 7 => some .ne | 8 => some .pl | 9 => some .cc | 10 => some .vc | 11 => some .ls | 12 => some .lt | 13 => some .le
  | 14 => some .al
  | _ => none

/-- The MC field of bits [23:22] (R103). -/
def mcOf (w : Word) : MC :=
  match (wbits w 22 2).toNat with
  | 0 => .always | 1 => .qm | 2 => .qn | _ => .m3

/-- Register ALU, major 0x0. DESIGN CHOICE (notes/assumptions/72.md), here and in the groups below: a field of a format that an
instruction does not use counts as reserved, so that a nonzero value is ILLEGAL. -/
def decodeAlu (w : Word) (hd : BitVec 24 → CHdr) : Option Instr :=
  let f := wB w 6
  let dd := wD w 20
  let dn := wD w 16
  let dm := wD w 12
  let sh : Fin 32 := (wbits w 7 5).toFin
  let three := hd (wRsv w 0x000F80)
  let noDn := hd (wRsv w 0x0F0F80)
  let flagsOnly := hd (wRsv w 0xF00FC0)
  let noDm := hd (wRsv w 0x00F000)
  match (wbits w 0 6).toNat with
  | 0x01 => some (.add three f dd dn dm)
  | 0x02 => some (.addc three f dd dn dm)
  | 0x03 => some (.sub three f dd dn dm)
  | 0x04 => some (.subc three f dd dn dm)
  | 0x05 => some (.and three f dd dn dm)
  | 0x06 => some (.or three f dd dn dm)
  | 0x07 => some (.xor three f dd dn dm)
  | 0x08 => some (.andn three f dd dn dm)
  | 0x09 => some (.not noDn f dd dm)
  | 0x0A => some (.mov noDn f dd dm)
  | 0x0B => some (.cmp flagsOnly dn dm)
  | 0x0C => some (.tst flagsOnly dn dm)
  | 0x10 => some (.shl noDm f dd dn sh)
  | 0x11 => some (.shr noDm f dd dn sh)
  | 0x12 => some (.sar noDm f dd dn sh)
  | 0x13 => some (.ror noDm f dd dn sh)
  | 0x14 => some (.shlv three f dd dn dm)
  | 0x15 => some (.shrv three f dd dn dm)
  | 0x16 => some (.sarv three f dd dn dm)
  | 0x17 => some (.rorv three f dd dn dm)
  | 0x18 => some (.clz noDn f dd dm)
  | 0x19 => some (.bswap noDn f dd dm)
  | _ => none

/-- Immediate ALU, major 0x1. -/
def decodeImm (w : Word) (hd : BitVec 24 → CHdr) : Option Instr :=
  let f := wB w 15
  let dd := wD w 20
  let dn := wD w 16
  let imm := wbits w 0 12
  let plain := hd 0
  let flagsOnly := hd (wRsv w 0xF08000)
  match (wbits w 12 3).toNat with
  | 0 => some (.addi plain f dd dn imm)
  | 1 => some (.subi plain f dd dn imm)
  | 2 => some (.andi plain f dd dn imm)
  | 3 => some (.ori plain f dd dn imm)
  | 4 => some (.xori plain f dd dn imm)
  | 5 => some (.cmpi flagsOnly dn imm)
  | 6 => some (.tsti flagsOnly dn imm)
  | _ => none

/-- Load immediate, major 0x2. -/
def decodeLdi (w : Word) (hd : BitVec 24 → CHdr) : Option Instr :=
  let h := hd (wRsv w 0x070000)
  some (if wB w 19 then .ldih h (wD w 20) (wbits w 0 16) else .ldi h (wD w 20) (wbits w 0 16))

/-- Data load and store, major 0x3; SX is reserved in a store. -/
def decodeLdSt (w : Word) (hd : BitVec 24 → CHdr) : Option Instr :=
  let sz := wbits w 14 2
  some (if wB w 16 then .st (hd (wRsv w 0x003000)) sz (wD w 20) (wA w 17) (wbits w 0 12)
    else .ld (hd (wRsv w 0x001000)) sz (wB w 13) (wD w 20) (wA w 17) (wbits w 0 12))

/-- Address load and store, major 0x4. -/
def decodeLdaSta (w : Word) (hd : BitVec 24 → CHdr) : Option Instr :=
  let h := hd (wRsv w 0x01F000)
  some (if wB w 23 then .sta h (wA w 20) (wA w 17) (wbits w 0 12) else .lda h (wA w 20) (wA w 17) (wbits w 0 12))

/-- LEA, major 0x5; Ab is reserved in MODE 1 and 2. -/
def decodeLea (w : Word) (hd : BitVec 24 → CHdr) : Option Instr :=
  let mode := wbits w 16 2
  let h := hd (if mode = 1 ∨ mode = 2 then wRsv w 0x1C0000 else 0)
  some (.lea h (wA w 21) (wA w 18) mode (wbits w 0 16))

/-- Address arithmetic, major 0x6. -/
def decodeAddr (w : Word) (hd : BitVec 24 → CHdr) : Option Instr :=
  let a1 := wA w 17
  let a2 := wA w 14
  let immH := hd (wRsv w 0x003000)
  let regH := hd (wRsv w 0x003FF0)
  match (wbits w 20 4).toNat with
  | 0 => some (.adda immH a1 a2 (.imm (wbits w 0 12)))
  | 1 => some (.suba immH a1 a2 (.imm (wbits w 0 12)))
  | 2 => some (.adda regH a1 a2 (.reg (wD w 0)))
  | 3 => some (.suba regH a1 a2 (.reg (wD w 0)))
  | 4 => some (.mova (hd (wRsv w 0x01FFF0)) a1 (wD w 0))
  | 5 => some (.movd (hd (wRsv w 0x01FFF0)) (wD w 0) a1)
  | _ => none

/-- Multiply, major 0x8. -/
def decodeMul (w : Word) (hd : BitVec 24 → CHdr) : Option Instr :=
  let h := hd (wRsv w 0x0000FF)
  match (wbits w 8 4).toNat with
  | 1 => some (.mul h (wD w 20) (wD w 16) (wD w 12))
  | 2 => some (.mulu h (wD w 20) (wD w 16) (wD w 12))
  | 3 => some (.muls h (wD w 20) (wD w 16) (wD w 12))
  | 4 => some (.macu h (wD w 20) (wD w 16) (wD w 12))
  | _ => none

/-- Accumulator operations, major 0xB: a field that an operation does not name is reserved. -/
def decodeQ (w : Word) (hd : BitVec 24 → CHdr) : Option Instr :=
  let qd := wQ w 18
  let qa := wQ w 16
  let qb := wQ w 14
  match (wbits w 20 4).toNat with
  | 1 => some (.qclr (hd (wRsv w 0x03FFFF)) qd)
  | 2 => some (.qmov (hd (wRsv w 0x00FFFF)) qd qa)
  | 3 => some (.qxor (hd (wRsv w 0x003FFF)) qd qa qb)
  | 4 => some (.qeq (hd (wRsv w 0x0C3FF0)) qa qb (wD w 0))
  | 5 => some (.qcmp (hd (wRsv w 0x0C3FFF)) qa qb)
  | 6 => some (.qins (hd (wRsv w 0x03F0CF)) qd (wD w 8) (wQ w 4))
  | 7 => some (.qext (hd (wRsv w 0x0CF0CF)) (wD w 8) qa (wQ w 4))
  | _ => none

/-- The conditional group (Table 3.7). -/
def decodeCond (w : Word) (hd : BitVec 24 → CHdr) : Option Instr :=
  match (wbits w 24 4).toNat with
  | 0x0 => decodeAlu w hd
  | 0x1 => decodeImm w hd
  | 0x2 => decodeLdi w hd
  | 0x3 => decodeLdSt w hd
  | 0x4 => decodeLdaSta w hd
  | 0x5 => decodeLea w hd
  | 0x6 => decodeAddr w hd
  | 0x8 => decodeMul w hd
  | 0x9 => some (.tli (hd (wRsv w 0x010FFF)) (wD w 20) (wA w 17) (wD w 12))
  | 0xA =>
    let h := hd (wRsv w 0x03F000)
    some (if wB w 23 then .qst h (wQ w 21) (wA w 18) (wbits w 0 12) else .qld h (wQ w 21) (wA w 18) (wbits w 0 12))
  | 0xB => decodeQ w hd
  | 0xC => some (.b (hd 0) (wbits w 0 24))
  | _ => none

/-- The port instructions, XOP 0x4: a starting register's own row is the same PUT (Table 3.11). -/
def decodePort (w : Word) (hd : BitVec 24 → XHdr) : Instr :=
  let ab := wA w 13
  let off := wbits w 0 12
  match (wbits w 20 2).toNat with
  | 0 => .putd (hd (wRsv w 0x001000)) (wD w 16) ab off
  | 1 => .putq (hd (wRsv w 0x0C1000)) (wQ w 16) ab off
  | 2 => .getd (hd (wRsv w 0x001000)) (wD w 16) ab off
  | _ => .getq (hd (wRsv w 0x0C1000)) (wQ w 16) ab off

/-- The sequencer group, XOP 0x5. -/
def decodeSeq (w : Word) (hd : BitVec 24 → XHdr) : Option Instr :=
  match (wbits w 6 4).toNat with
  | 0 => some (.post (hd (wRsv w 0x00003F)) (wD w 18) (wD w 14) (wD w 10))
  | 1 => some (.carry (hd (wRsv w 0x3FFC3F)))
  | 2 => some (.halt (hd (wRsv w 0x3FFC3F)))
  | _ => none

/-- The SYS group, XOP 0x6 (Table 3.16). -/
def decodeSys (w : Word) (hd : BitVec 24 → XHdr) : Option Instr :=
  match (wbits w 18 4).toNat with
  | 0 => some (.srr (hd (wRsv w 0x003F00)) (wD w 14) (wbits w 0 8))
  | 1 => some (.srw (hd (wRsv w 0x003F00)) (wbits w 0 8) (wD w 14))
  | 2 => some (.eret (hd (wRsv w 0x03FFFF)))
  | 3 => some (.wfi (hd (wRsv w 0x03FFFF)))
  | 4 => some (.sync (hd (wRsv w 0x03FFFF)))
  | _ => none

/-- The extended group (Table 3.8). -/
def decodeExt (w : Word) (hd : BitVec 24 → XHdr) : Option Instr :=
  match (wbits w 24 4).toNat with
  | 0x0 => some (.bl (hd 0) (wbits w 0 22))
  | 0x1 => some (.bqm (hd 0) (wbits w 0 22))
  | 0x2 =>
    let h := hd (wRsv w 0x1FFFF0)
    some (if wB w 21 then .blr h (wD w 0) else .br h (wD w 0))
  | 0x3 => some (.qkey (hd (wRsv w 0x000FFF)) (wQ w 20) (wD w 16) (wbits w 12 4))
  | 0x4 => some (decodePort w hd)
  | 0x5 => decodeSeq w hd
  | 0x6 => decodeSys w hd
  | _ => none

/-- The command that an instruction word issues; none where no encoding is assigned (R105). -/
def decodeWord (ex : Exec) (w : Word) : Option Instr :=
  match condOf w with
  | some c => decodeCond w fun r => { ex := ex, cond := c, rsv := r, chk := .none }
  | none => decodeExt w fun r => { ex := ex, mc := mcOf w, rsv := r, chk := .none }

/-- The command that an executor issues for a word: an unassigned encoding is ILLEGAL whether or not the condition passes,
as a HALT with MC 11 is (R103, R105). -/
def issueWord (ex : Exec) (w : Word) : Instr :=
  (decodeWord ex w).getD (.halt { ex := ex, mc := .m3, rsv := 0, chk := .none })

/-- The word at a Sheave's program counter, in the instruction RAM of the physical Sheave that it runs on (R88, R89). -/
def State.fetchSheave (s : State) (y : Fin 64) (l : Fin 16) : Word :=
  let a := (s.sheave y l).cpu.pc.toNat
  BitVec.ofNat 32 (leNat (SMap.bytes s.iram (ramBase y (s.physSheave y l) + a) 4))

/-- The next command of a running Sheave. -/
def State.nextSheave (s : State) (y : Fin 64) (l : Fin 16) : Option Instr :=
  if s.canIssue (.sheave y l) then some (issueWord (.sheave y l) (s.fetchSheave y l)) else none

end Sys2Proof.Machine
end

