-- ==== Sys2Proof/Decode.lean ====
section
/-!
DEFINITION. The command that a word spells. The rows of spec/opcode_table.json list no bits of their own; the instruction
words of the Sheave have the encodings of Table 3.6 to Table 3.8 and Table 3.16, and they are the words that spell a command here
(notes/assumptions/1.md).
-/
set_option autoImplicit false

namespace Sys2Proof

/-- The command spelt by the `nbits`-bit word `w`: a 32-bit word is an instruction, issued by logical Sheave 0 of yard 0 where
its encoding is assigned (R105). No other width spells a command. -/
def decodeTableWord (nbits w : Nat) : Option Instr :=
  if nbits = 32 then Machine.decodeWord (.sheave 0 0) (BitVec.ofNat 32 w) else none

end Sys2Proof
end

