-- ==== Sys2Proof/Machine/FlashMem.lean ====
section
/-!
DEFINITION. The flash array (R449 to R451, R456, R459 to R461), the layout of the option copies (R465), and changes to
the option area as Naris writes them (R467).
-/
set_option autoImplicit false

namespace Sys2Proof.Machine

/-! ### Addresses -/

/-- The area of a flash byte address: bank 0 to 3, or 4 for the system area; none beyond both. -/
def flashArea (fa : Nat) : Option Nat :=
  if fa < 0x2000000 then some (fa / 0x800000)
  else if fa < 0x2000000 + 0x1C000 then some 4 else none

/-- The offset of a flash byte address in its area. -/
def flashOff (fa : Nat) : Nat := if fa < 0x2000000 then fa % 0x800000 else fa - 0x2000000

/-- Bytes of an area. -/
def areaLen (area : Nat) : Nat := if area = 4 then 0x1C000 else 0x800000

/-- First flash byte address of an area. -/
def areaBase (area : Nat) : Nat := area * 0x800000

/-- The physical sector of a logical one, through a remap table (R450). -/
def remapped (m : SMap Nat) (area sec : Nat) : Nat :=
  if area = 4 then sec
  else match (List.range 64).find? fun i => SMap.get 0 m (area * 64 + i) = sec + 1 with
    | some i => 2048 + i
    | none => sec

/-- The physical sector that serves a logical one now. -/
def State.sector (s : State) (area sec : Nat) : Nat := remapped s.flash.remap area sec

/-- The key of the first byte of a physical sector in the flash table. -/
def sectorKey (area phys : Nat) : Nat := (area * 2112 + phys) * 4096

/-- The key of a flash byte address, through the remap table. -/
def State.flashKey (s : State) (fa : Nat) : Nat :=
  let area := (flashArea fa).getD 0
  sectorKey area (s.sector area (flashOff fa / 4096)) + flashOff fa % 4096

/-! ### The journal (R459 to R461) -/

/-- The latest record of a physical sector is an ERASE_BEGIN. -/
def State.incomplete (s : State) (area phys : Nat) : Bool :=
  match s.flash.journal.reverse.find? fun r => r.area == area && r.sector == phys with
  | some r => r.begin'
  | none => false

/-- The sectors that are INCOMPLETE, in the order of their records. -/
def State.incompleteList (s : State) : List (Nat × Nat) :=
  (s.flash.journal.filterMap fun r => if r.begin' && s.incomplete r.area r.sector then some (r.area, r.sector) else none).eraseDups

/-- Append a record with the next SEQ. -/
def FlashSt.journalAdd (f : FlashSt) (b : Bool) (area sec : Nat) : FlashSt :=
  { f with jseq := f.jseq + 1, journal := f.journal ++ [{ begin' := b, area := area, sector := sec, seq := f.jseq + 1 }] }

/-- Append a record. Where it is the first of its journal sector, the ERASE_BEGINs without an ERASE_DONE of the sector
after the head are copied, and that sector is erased (R459); SEQ 1 stands first in sector 0. -/
def State.journalPut (s : State) (b : Bool) (area sec : Nat) : State :=
  let f := s.flash.journalAdd b area sec
  if (f.jseq - 1) % 256 = 0 && 15 * 256 < f.jseq then
    let k := (f.jseq - 1) / 256 - 15
    let doomed := fun (r : JRec) => r.seq ≤ 256 * (k + 1)
    let keep := f.journal.filter fun r => doomed r && r.begin' && { s with flash := f }.incomplete r.area r.sector
    let f := keep.foldl (fun f r => f.journalAdd true r.area r.sector) f
    { s with flash := { f with journal := f.journal.filter fun r => !doomed r } }
  else { s with flash := f }

/-- The lowest spare of a bank that serves no sector and is not spent. -/
def State.freeSpare (s : State) (bank : Nat) : Option Nat := (List.range 64).find? fun i => SMap.get 0 s.flash.remap (bank * 64 + i) = 0

/-- Map a logical sector to spare `i` of its bank; a spare that it leaves is spent (R450, R458). -/
def SMap.toSpare (m : SMap Nat) (bank sec i : Nat) : SMap Nat :=
  let m := (List.range 64).foldl (fun m j => if SMap.get 0 m (bank * 64 + j) = sec + 1 then SMap.put 0 m (bank * 64 + j) 0x1000 else m) m
  SMap.put 0 m (bank * 64 + i) (sec + 1)

/-! ### Array access -/

/-- Bytes of the array at a key; an erased byte reads 0xFF. -/
def State.arrayBytes (s : State) (k n : Nat) : List Byte := (List.range n).map fun i => SMap.get 0xFF s.flash.mem (k + i)

/-- A unit reads ECC_FAIL: it is dead, or its sector is INCOMPLETE (R456, R461). -/
def State.unitBad (s : State) (fa : Nat) : Bool :=
  let k := s.flashKey fa
  SMap.get false s.flash.dead (k / 16) || s.incomplete (k / 4096 / 2112) (k / 4096 % 2112)

/-- The first unit of a range that reads ECC_FAIL. -/
def State.rangeBad (s : State) (fa n : Nat) : Option Nat :=
  ((List.range (ceilDiv n 16)).find? fun i => s.unitBad (fa / 16 * 16 + 16 * i)).map fun i => fa / 16 * 16 + 16 * i

/-- A range as the controller reads it: units with an uncorrectable error return zero. -/
def State.bankBytes (s : State) (fa n : Nat) : List Byte :=
  (List.range n).map fun i => if s.unitBad (fa + i) then 0 else SMap.get 0xFF s.flash.mem (s.flashKey (fa + i))

/-- A corrected read (R456). -/
def State.eccCe (s : State) : State := ((s.sat Reg.FLASH.ECC_CE_CNT).raise pgFlash 1).fault 0 0

/-- An uncorrectable read (R456). -/
def State.eccUe (s : State) (fa : Nat) : State :=
  ((s.sat Reg.FLASH.ECC_UE_CNT).setReg Reg.FLASH.ECC_ADDR fa).raise pgFlash 2

/-- Program bytes at a key, unit by unit. A unit programmed before since its erase holds contents that are not defined
(R451): free bytes. -/
def State.arrayProgram (s : State) (k : Nat) : List (List Byte) → State
  | [] => s
  | u :: us =>
    let (dirty, f) := (SMap.get false s.flash.progd (k / 16), s.flash)
    let (n, s) := if dirty then s.draw else (0, s)
    let bs := if dirty then randBytes n 16 else u
    let mem := SMap.putRun 0xFF f.mem k (bs.take 16)
    State.arrayProgram { s with flash := { s.flash with mem := mem, progd := SMap.put false f.progd (k / 16) true } } (k + 16) us

/-- Program bytes at a flash byte address that lies in one sector. -/
def State.flashProgram (s : State) (fa : Nat) (bs : List Byte) : State := s.arrayProgram (s.flashKey fa) (blocks 16 bs)

/-- Erase a physical sector. -/
def State.arrayErase (s : State) (area phys : Nat) : State :=
  let k := sectorKey area phys
  { s with flash := { s.flash with
      mem := SMap.clear s.flash.mem k 4096,
      progd := SMap.clear s.flash.progd (k / 16) 256, dead := SMap.clear s.flash.dead (k / 16) 256 } }

/-! ### The option area (R463 to R467) -/

/-- A list of 4-byte words. -/
def wordBytes (ws : List Nat) : List Byte := ws.flatMap (leBytes 4)

/-- A retirement list entry (R466). -/
def RetEnt.word (e : RetEnt) : Nat := e.kind * 2 ^ 28 + e.yard * 2 ^ 22 + e.unit

/-- The bytes of an option copy before its CHECK (Table 15.5). -/
def OptArea.body (o : OptArea) : List Byte :=
  let xo := (o.xo.take 16).flatMap fun e => wordBytes [e.start, e.stop, 1, 0]
  let stay := match o.stay with
    | some i => [1, BitVec.ofNat 8 i.pairMode, BitVec.ofNat 8 i.roleCfg, 0] ++ leBytes 2 o.members.length
        ++ List.replicate 10 0 ++ fitBytes 32 i.twinFp
    | none => List.replicate 4 0 ++ leBytes 2 o.members.length ++ List.replicate 42 0
  let at40 := fitBytes 0x40 (wordBytes [0x504F584F] ++ leBytes 2 1 ++ leBytes 2 0x4000 ++ leBytes 4 o.gen ++ leBytes 8 o.writeFrame)
  let at80 := fitBytes 0x40 ([BitVec.ofNat 8 o.mode, BitVec.ofNat 8 o.prevMode] ++ List.replicate 6 0 ++ leBytes 8 o.modeFrame)
  let at180 := fitBytes 0x100 ([BitVec.ofNat 8 o.fwActive, if o.fwFallback then 1 else 0, BitVec.ofNat 8 o.rigActive,
    BitVec.ofNat 8 o.rigFallback] ++ leBytes 4 o.fwFloor ++ leBytes 4 o.rigFloor ++ List.replicate 4 0
    ++ fitBytes 32 o.rigActiveHash ++ fitBytes 32 o.rigFallbackHash)
  let remap := (List.range 256).map fun i => match SMap.get 0 o.remap i with
    | 0 => 0
    | v => 2 ^ 31 + (v - 1)
  at40 ++ at80 ++ at180 ++ fitBytes 0x100 xo ++ fitBytes 0x180 stay ++ fitBytes 0x800 (wordBytes (o.retired.map RetEnt.word))
    ++ wordBytes remap ++ fitBytes 0x2000 ((o.members.take 1024).flatMap (fitBytes 8))

/-- The 16 KB of an option copy; `b` selects the address folded into its CHECK. -/
def OptArea.bytes (o : OptArea) (b : Bool) : List Byte :=
  let t := fitBytes 0x3FFC o.body
  t ++ leBytes 4 (crc32c t (if b then 0x2004000 else 0x2000000))

/-- SHA3-256 input of the option copy in effect: copy B where OPT_STATE says so (R486). -/
def State.optBytes (s : State) : List Byte := s.flash.opt.bytes (s.flash.optState == 2)

/-- Registers that show the option area in effect. -/
def State.showOpt (s : State) : State :=
  let o := s.flash.opt
  let s := (s.setReg Reg.FLASH.OPT_STATE s.flash.optState).setReg Reg.FLASH.OPT_GEN o.gen
  let s := s.setBit Reg.FLASH.OTHER_VALID (match s.flash.optState with
    | 1 => s.flash.optB.isSome
    | 2 => s.flash.optA.isSome
    | _ => false)
  let s := (s.setReg Reg.GLOBAL.FW_FLOOR o.fwFloor).setReg Reg.GLOBAL.RIG_FLOOR o.rigFloor
  let s := s.setBit Reg.NARIS.FALLBACK_ARMED o.fwFallback
  s.setReg Reg.SPARES.RETIRED_TOTAL o.retired.length

/-- Registers that show the spares and the remap table of the banks. -/
def State.showRemap (s : State) : State :=
  (List.range 4).foldl (fun s b =>
    let free := (List.range 64).filter fun i => SMap.get 0 s.flash.remap (b * 64 + i) = 0
    let mask := free.foldl (fun m i => m ||| 2 ^ i) 0
    let s := s.setReg (Reg.FLASH.SPARES_LEFT b) free.length
    (s.setReg (Reg.FLASH.SPARE_FREE (2 * b)) mask).setReg (Reg.FLASH.SPARE_FREE (2 * b + 1)) (mask / 2 ^ 32)) s

/-- Registers that show the INCOMPLETE sectors. -/
def State.showIncomplete (s : State) : State :=
  let l := s.incompleteList
  let s := s.setReg Reg.FLASH.INCOMPLETE_CNT (min 255 l.length)
  let s := s.setReg Reg.FLASH.JOURNAL_SEQ s.flash.jseq
  (List.range 16).foldl (fun s i => match l[i]? with
    | some e => ((s.setBit (Reg.FLASH.INC_VALID i) true).setReg (Reg.FLASH.INC_AREA i) e.1).setReg (Reg.FLASH.INC_SECTOR i) e.2
    | none => ((s.setBit (Reg.FLASH.INC_VALID i) false).setReg (Reg.FLASH.INC_AREA i) 0).setReg (Reg.FLASH.INC_SECTOR i) 0) s

/-- The option copies are loaded; the valid copy with the higher GEN is in effect, copy A where they are equal (R463). -/
def State.optionLoad (s : State) : State :=
  let f := s.flash
  let inc (a : Nat) := (List.range 4).any fun i => s.incomplete 4 (a + i)
  let a := if inc 0 then none else f.optA
  let b := if inc 4 then none else f.optB
  let (st, o) := match a, b with
    | some x, some y => if x.gen < y.gen then (2, y) else (1, x)
    | some x, none => (1, x)
    | none, some y => (2, y)
    | none, none => (3, {})
  let s := { s with flash := { f with opt := o, optState := st, remap := o.remap } }
  let s := if (a.isSome && b.isNone) || (a.isNone && b.isSome) then s.raise pgFlash 4 else s
  s.showOpt.showRemap

/-- A new generation has been read back: it is in effect, in the copy that was not (R467). -/
def State.optAdopt (s : State) (o : OptArea) : State :=
  let f := s.flash
  let f := if f.optState = 1 then { f with optB := some o, optState := 2 } else { f with optA := some o, optState := 1 }
  { s with flash := { f with opt := o } }.showOpt

/-! ### Banks that a read waits for -/

/-- The bank of a flash address is under program or erase. -/
def State.bankTaken (s : State) (fa : Nat) : Bool :=
  match s.flash.op with
  | some p => decide (p.op ≠ 5) && flashArea p.addr == flashArea fa
  | none => false

/-- A bank of the vault is under program or erase: a read of its sectors waits for the end (R452). -/
def State.vaultTaken (s : State) : Bool := s.bankTaken 0x1000000 || s.bankTaken 0x1800000

/-! ### Erases by Naris -/

/-- A sector is erased on the device's own account: the erase is journaled (R459). -/
def State.rewrite (s : State) (area phys : Nat) : State :=
  (((s.journalPut true area phys).arrayErase area phys).journalPut false area phys).showIncomplete

end Sys2Proof.Machine
end

