-- ==== Sys2Proof/Machine/Aes.lean ====
section
/-!
DEFINITION. The AES block operations of a cipher pair (R155 to R157, Table 5.1): FIPS 197 over 16-byte strings,
byte 0 first.
-/
set_option autoImplicit false

namespace Sys2Proof.Machine

/-- The FIPS 197 S-box, entry 0 most significant. -/
def aesSboxTable : Nat :=
  0x637c777bf26b6fc53001672bfed7ab76ca82c97dfa5947f0add4a2af9ca472c0b7fd9326363ff7cc34a5e5f171d8311504c723c31896059a071280e2eb27b27509832c1a1b6e5aa0523bd6b329e32f8453d100ed20fcb15b6acbbe394a4c58cfd0efaafb434d338545f9027f503c9fa851a3408f929d38f5bcb6da2110fff3d2cd0c13ec5f974417c4a77e3d645d197360814fdc222a908846eeb814de5e0bdbe0323a0a4906245cc2d3ac629195e479e7c8376d8dd54ea96c56f4ea657aae08ba78252e1ca6b4c6e8dd741f4bbd8b8a703eb5664803f60e613557b986c11d9ee1f8981169d98e949b1e87e9ce5528df8ca1890dbfe6426841992d0fb054bb16

/-- The inverse S-box, entry 0 most significant. -/
def aesInvTable : Nat :=
  0x52096ad53036a538bf40a39e81f3d7fb7ce339829b2fff87348e4344c4dee9cb547b9432a6c2233dee4c950b42fac34e082ea16628d924b2765ba2496d8bd12572f8f66486689816d4a45ccc5d65b6926c704850fdedb9da5e154657a78d9d8490d8ab008cbcd30af7e45805b8b34506d02c1e8fca3f0f02c1afbd0301138a6b3a9111414f67dcea97f2cfcef0b4e67396ac7422e7ad3585e2f937e81c75df6e47f11a711d29c5896fb7620eaa18be1bfc563e4bc6d279209adbc0fe78cd5af41fdda8338807c731b11210592780ec5f60517fa919b54a0d2de57a9f93c99cefa0e03b4dae2af5b0c8ebbb3c83539961172b047eba77d626e169146355210c7d

/-- One byte of a table of 256 bytes. -/
def byteTable (t : Nat) (b : Byte) : Byte := BitVec.ofNat 8 (t >>> (8 * (255 - b.toNat)))

/-- Doubling in the AES field. -/
def aesXtime (b : Byte) : Byte := if b.getLsbD 7 then (b <<< 1) ^^^ 0x1b else b <<< 1

/-- Multiplication by the constants 1 to 15 in the AES field. -/
def aesMul (c : Nat) (b : Byte) : Byte :=
  let b2 := aesXtime b
  let b4 := aesXtime b2
  let b8 := aesXtime b4
  (if bitOf c 0 then b else 0) ^^^ (if bitOf c 1 then b2 else 0) ^^^ (if bitOf c 2 then b4 else 0) ^^^
    (if bitOf c 3 then b8 else 0)

/-- The next key word, from the word before (`prev`) and the word one key length before (`old`). -/
def aesNextWord (nk i : Nat) (prev old : List Byte) (rcon : Byte) : List Byte :=
  let t :=
    if i % nk = 0 then
      match prev.map (byteTable aesSboxTable) with
      | a :: rest => xorBytes (rest ++ [a]) [rcon, 0, 0, 0]
      | [] => []
    else if nk > 6 ∧ i % nk = 4 then prev.map (byteTable aesSboxTable)
    else prev
  xorBytes t old

/-- The key schedule: words are kept newest first. -/
def aesExpandAux (nk : Nat) : Nat → Nat → Byte → List (List Byte) → List (List Byte)
  | 0, _, _, ws => ws
  | fuel + 1, i, rcon, ws =>
    let w := aesNextWord nk i (ws.headD []) (ws.getD (nk - 1) []) rcon
    aesExpandAux nk fuel (i + 1) (if i % nk = 0 then aesXtime rcon else rcon) (w :: ws)

/-- Round keys of 16 bytes, first to last, of a key of 16, 24 or 32 bytes. -/
def aesRoundKeys (key : List Byte) : List (List Byte) :=
  let nk := key.length / 4
  let ws := (aesExpandAux nk (4 * (nk + 7) - nk) nk 1 (blocks 4 key).reverse).reverse
  blocks 16 ws.flatten

/-- Rows of the state shifted left (`inv` false) or right. -/
def aesShiftRows (inv : Bool) (st : List Byte) : List Byte :=
  (List.range 16).map fun i =>
    let r := i % 4
    let c := i / 4
    st.getD (4 * ((if inv then c + 4 - r else c + r) % 4) + r) 0

/-- One column times the circulant matrix of coefficients `m`. -/
def aesMixColumn (m : List Nat) (c : List Byte) : List Byte :=
  (List.range 4).map fun r =>
    (List.range 4).foldl (fun acc k => acc ^^^ aesMul (m.getD ((k + 4 - r) % 4) 0) (c.getD k 0)) 0

/-- All columns. -/
def aesMixColumns (m : List Nat) (st : List Byte) : List Byte := ((blocks 4 st).map (aesMixColumn m)).flatten

/-- AES encipherment of one block (R156). -/
def aesEnc (key blk : List Byte) : List Byte :=
  match aesRoundKeys key with
  | [] => blk
  | k0 :: ks =>
    let st := ks.dropLast.foldl
      (fun st k => xorBytes (aesMixColumns [2, 3, 1, 1] (aesShiftRows false (st.map (byteTable aesSboxTable)))) k)
      (xorBytes blk k0)
    xorBytes (aesShiftRows false (st.map (byteTable aesSboxTable))) (ks.getLastD [])

/-- AES decipherment of one block (R156). -/
def aesDec (key blk : List Byte) : List Byte :=
  match (aesRoundKeys key).reverse with
  | [] => blk
  | kl :: ks =>
    let st := ks.dropLast.foldl
      (fun st k => aesMixColumns [14, 11, 13, 9]
        (xorBytes ((aesShiftRows true st).map (byteTable aesInvTable)) k))
      (xorBytes blk kl)
    xorBytes ((aesShiftRows true st).map (byteTable aesInvTable)) (ks.getLastD [])

end Sys2Proof.Machine
end

