-- ==== Sys2Proof/Machine/Gcm.lean ====
section
/-!
DEFINITION. GHASH of the Sheave port (R128) and AES-GCM of SP 800-38D, which seals vault sectors, blobs, link frames
and the domain key (R279, R376, R387, R404).
-/
set_option autoImplicit false

namespace Sys2Proof.Machine

/-- A product in GF(2¹²⁸) of SP 800-38D, on numbers whose most significant bit is the first bit of the block. -/
def gfMulAux : Nat → Nat → Nat → Nat → Nat
  | 0, _, _, z => z
  | n + 1, x, v, z =>
    let z := if x.testBit n then z ^^^ v else z
    let v := if v % 2 = 1 then v / 2 ^^^ (0xE1 * 2 ^ 120) else v / 2
    gfMulAux n x v z

/-- A product in GF(2¹²⁸). -/
def gfMul (x y : Nat) : Nat := gfMulAux 128 x y 0

/-- One GHASH step on blocks of 16 bytes. -/
def ghashStep (h y blk : List Byte) : List Byte :=
  beBytes 16 (gfMul (beNat (xorBytes y (fitBytes 16 blk))) (beNat h))

/-- GHASH of associated data and ciphertext. -/
def ghash (h aad ct : List Byte) : List Byte :=
  let y := (blocks 16 aad ++ blocks 16 ct).foldl (ghashStep h) (List.replicate 16 0)
  ghashStep h y (beBytes 8 (8 * aad.length) ++ beBytes 8 (8 * ct.length))

/-- A counter block with a 96-bit IV. -/
def gcmCtr (iv : List Byte) (n : Nat) : List Byte := iv ++ beBytes 4 n

/-- Counter mode from counter 2 on. -/
def gcmXor (key iv text : List Byte) : List Byte :=
  let bs := blocks 16 text
  ((bs.zip (List.range bs.length)).map fun e => xorBytes e.1 (aesEnc key (gcmCtr iv (e.2 + 2)))).flatten

/-- The tag over associated data and ciphertext. -/
def gcmTag (key iv aad ct : List Byte) : List Byte :=
  let h := aesEnc key (List.replicate 16 0)
  xorBytes (ghash h aad ct) (aesEnc key (gcmCtr iv 1))

/-- Encrypt: ciphertext and tag. -/
def gcmSeal (key iv aad text : List Byte) : List Byte × List Byte :=
  let ct := gcmXor key iv text
  (ct, gcmTag key iv aad ct)

/-- Decrypt where the tag verifies. -/
def gcmOpen (key iv aad ct tag : List Byte) : Option (List Byte) :=
  if gcmTag key iv aad ct = tag then some (gcmXor key iv ct) else none

end Sys2Proof.Machine
end

