-- ==== Sys2Proof/Machine/Hash.lean ====
section
/-!
DEFINITION. The functions of the hash cores (R170, R171): SHA-256 and SHA-512 of FIPS 180-4, the SHA-3 functions
and SHAKE of FIPS 202, and HMAC of FIPS 198-1 (R174).
-/
set_option autoImplicit false

namespace Sys2Proof.Machine

/-- The round constants of SHA-256, first most significant. -/
def sha256K : Nat :=
  0x428a2f9871374491b5c0fbcfe9b5dba53956c25b59f111f1923f82a4ab1c5ed5d807aa9812835b01243185be550c7dc372be5d7480deb1fe9bdc06a7c19bf174e49b69c1efbe47860fc19dc6240ca1cc2de92c6f4a7484aa5cb0a9dc76f988da983e5152a831c66db00327c8bf597fc7c6e00bf3d5a7914706ca63511429296727b70a852e1b21384d2c6dfc53380d13650a7354766a0abb81c2c92e92722c85a2bfe8a1a81a664bc24b8b70c76c51a3d192e819d6990624f40e3585106aa07019a4c1161e376c082748774c34b0bcb5391c0cb34ed8aa4a5b9cca4f682e6ff3748f82ee78a5636f84c878148cc7020890befffaa4506cebbef9a3f7c67178f2

/-- The round constants of SHA-512, first most significant. -/
def sha512K : Nat :=
  0x428a2f98d728ae227137449123ef65cdb5c0fbcfec4d3b2fe9b5dba58189dbbc3956c25bf348b53859f111f1b605d019923f82a4af194f9bab1c5ed5da6d8118d807aa98a303024212835b0145706fbe243185be4ee4b28c550c7dc3d5ffb4e272be5d74f27b896f80deb1fe3b1696b19bdc06a725c71235c19bf174cf692694e49b69c19ef14ad2efbe4786384f25e30fc19dc68b8cd5b5240ca1cc77ac9c652de92c6f592b02754a7484aa6ea6e4835cb0a9dcbd41fbd476f988da831153b5983e5152ee66dfaba831c66d2db43210b00327c898fb213fbf597fc7beef0ee4c6e00bf33da88fc2d5a79147930aa72506ca6351e003826f142929670a0e6e7027b70a8546d22ffc2e1b21385c26c9264d2c6dfc5ac42aed53380d139d95b3df650a73548baf63de766a0abb3c77b2a881c2c92e47edaee692722c851482353ba2bfe8a14cf10364a81a664bbc423001c24b8b70d0f89791c76c51a30654be30d192e819d6ef5218d69906245565a910f40e35855771202a106aa07032bbd1b819a4c116b8d2d0c81e376c085141ab532748774cdf8eeb9934b0bcb5e19b48a8391c0cb3c5c95a634ed8aa4ae3418acb5b9cca4f7763e373682e6ff3d6b2b8a3748f82ee5defb2fc78a5636f43172f6084c87814a1f0ab728cc702081a6439ec90befffa23631e28a4506cebde82bde9bef9a3f7b2c67915c67178f2e372532bca273eceea26619cd186b8c721c0c207eada7dd6cde0eb1ef57d4f7fee6ed17806f067aa72176fba0a637dc5a2c898a6113f9804bef90dae1b710b35131c471b28db77f523047d8432caab7b40c724933c9ebe0a15c9bebc431d67c49c100d4c4cc5d4becb3e42b6597f299cfc657e2a5fcb6fab3ad6faec6c44198c4a475817

/-- The parameters that separate the two SHA-2 functions: word width, rounds, constants, start value, the
rotations of the sigma functions. -/
structure Sha2Par where
  w      : Nat
  rounds : Nat
  k      : Nat
  h0     : List Nat
  s0 : Nat × Nat × Nat
  s1 : Nat × Nat × Nat
  g0 : Nat × Nat × Nat
  g1 : Nat × Nat × Nat

/-- SHA-256. -/
def sha256Par : Sha2Par :=
  ⟨32, 64, sha256K, [0x6a09e667, 0xbb67ae85, 0x3c6ef372, 0xa54ff53a, 0x510e527f, 0x9b05688c, 0x1f83d9ab, 0x5be0cd19],
    (2, 13, 22), (6, 11, 25), (7, 18, 3), (17, 19, 10)⟩

/-- SHA-512. -/
def sha512Par : Sha2Par :=
  ⟨64, 80, sha512K, [0x6a09e667f3bcc908, 0xbb67ae8584caa73b, 0x3c6ef372fe94f82b, 0xa54ff53a5f1d36f1, 0x510e527fade682d1, 0x9b05688c2b3e6c1f, 0x1f83d9abfb41bd6b, 0x5be0cd19137e2179],
    (28, 34, 39), (14, 18, 41), (1, 8, 7), (19, 61, 6)⟩

/-- Rotate right in `w` bits. -/
def rotrN (w v n : Nat) : Nat := v / 2 ^ n + (v % 2 ^ n) * 2 ^ (w - n)

/-- A sigma function with three rotations. -/
def shaBig (w : Nat) (r : Nat × Nat × Nat) (x : Nat) : Nat := rotrN w x r.1 ^^^ rotrN w x r.2.1 ^^^ rotrN w x r.2.2

/-- A sigma function with two rotations and a shift. -/
def shaSmall (w : Nat) (r : Nat × Nat × Nat) (x : Nat) : Nat := rotrN w x r.1 ^^^ rotrN w x r.2.1 ^^^ (x >>> r.2.2)

/-- The message schedule, newest word first. -/
def sha2Schedule (p : Sha2Par) : Nat → List Nat → List Nat
  | 0, ws => ws
  | n + 1, ws =>
    let x := (shaSmall p.w p.g1 (ws.getD 1 0) + ws.getD 6 0 + shaSmall p.w p.g0 (ws.getD 14 0) + ws.getD 15 0) % 2 ^ p.w
    sha2Schedule p n (x :: ws)

/-- One round over the eight working variables. -/
def sha2Round (p : Sha2Par) (v : List Nat) (kw : Nat × Nat) : List Nat :=
  match v with
  | [a, b, c, d, e, f, g, h] =>
    let ch := (e &&& f) ^^^ ((2 ^ p.w - 1 - e) &&& g)
    let t1 := h + shaBig p.w p.s1 e + ch + kw.1 + kw.2
    let maj := (a &&& b) ^^^ (a &&& c) ^^^ (b &&& c)
    let t2 := shaBig p.w p.s0 a + maj
    [(t1 + t2) % 2 ^ p.w, a, b, c, (d + t1) % 2 ^ p.w, e, f, g]
  | _ => v

/-- The compression of one block. -/
def sha2Compress (p : Sha2Par) (h : List Nat) (blk : List Byte) : List Nat :=
  let ws := (sha2Schedule p (p.rounds - 16) ((blocks (p.w / 8) blk).map beNat).reverse).reverse
  let ks := (List.range p.rounds).map fun i => bitsOf p.k (p.w * (p.rounds - 1 - i)) p.w
  let v := (ks.zip ws).foldl (sha2Round p) h
  List.zipWith (fun a b => (a + b) % 2 ^ p.w) h v

/-- The padding of FIPS 180-4. -/
def sha2Pad (p : Sha2Par) (m : List Byte) : List Byte :=
  let bl := p.w * 2
  let z := (bl - (m.length + 1 + p.w / 4) % bl) % bl
  m ++ [0x80] ++ List.replicate z 0 ++ beBytes (p.w / 4) (8 * m.length)

/-- A SHA-2 digest. -/
def sha2 (p : Sha2Par) (m : List Byte) : List Byte :=
  ((blocks (p.w * 2) (sha2Pad p m)).foldl (sha2Compress p) p.h0).flatMap (beBytes (p.w / 8))

def sha256 (m : List Byte) : List Byte := sha2 sha256Par m
def sha512 (m : List Byte) : List Byte := sha2 sha512Par m

/-! ### Keccak -/

/-- Rotate left in 64 bits. -/
def rotl64 (v : BitVec 64) (n : Nat) : BitVec 64 := v.rotateLeft n

/-- The round constants of Keccak-f[1600], first most significant. -/
def keccakRC : Nat :=
  0x00000000000000010000000000008082800000000000808a8000000080008000000000000000808b000000008000000180000000800080818000000000008009000000000000008a00000000000000880000000080008009000000008000000a000000008000808b800000000000008b8000000000008089800000000000800380000000000080028000000000000080000000000000800a800000008000000a8000000080008081800000000000808000000000800000018000000080008008

/-- The rotation of lane `x + 5y`. -/
def keccakRot : List Nat := [0, 1, 62, 28, 27, 36, 44, 6, 55, 20, 3, 10, 43, 25, 39, 41, 45, 15, 21, 8, 18, 2, 61, 56, 14]

/-- One round of Keccak-f[1600]. -/
def keccakRound (st : List (BitVec 64)) (i : Nat) : List (BitVec 64) :=
  let at' := fun (x y : Nat) => st.getD (x % 5 + 5 * (y % 5)) 0
  let c := (List.range 5).map fun x => at' x 0 ^^^ at' x 1 ^^^ at' x 2 ^^^ at' x 3 ^^^ at' x 4
  let d := (List.range 5).map fun x => c.getD ((x + 4) % 5) 0 ^^^ rotl64 (c.getD ((x + 1) % 5) 0) 1
  let th := (List.range 25).map fun j => st.getD j 0 ^^^ d.getD (j % 5) 0
  let b := (List.range 25).map fun j =>
    let x := j % 5
    let y := j / 5
    -- lane (x, y) after rho and pi comes from lane ((x + 3y) mod 5, x)
    let k := (x + 3 * y) % 5 + 5 * x
    rotl64 (th.getD k 0) (keccakRot.getD k 0)
  let e := (List.range 25).map fun j =>
    let x := j % 5
    let y := j / 5
    b.getD j 0 ^^^ (~~~ b.getD ((x + 1) % 5 + 5 * y) 0 &&& b.getD ((x + 2) % 5 + 5 * y) 0)
  match e with
  | h :: t => (h ^^^ BitVec.ofNat 64 (keccakRC >>> (64 * (23 - i)))) :: t
  | [] => []

/-- Keccak-f[1600]. -/
def keccakF (st : List (BitVec 64)) : List (BitVec 64) := (List.range 24).foldl keccakRound st

/-- Absorb one block of the rate into the state. -/
def keccakAbsorb (st : List (BitVec 64)) (blk : List Byte) : List (BitVec 64) :=
  let ls := (blocks 8 blk).map fun b => BitVec.ofNat 64 (leNat b)
  keccakF ((List.range 25).map fun j => st.getD j 0 ^^^ ls.getD j 0)

/-- The padding of FIPS 202 with suffix byte `sfx` (0x06 SHA-3, 0x1F SHAKE). -/
def keccakPad (rate : Nat) (sfx : Byte) (m : List Byte) : List Byte :=
  let q := rate - m.length % rate
  if q = 1 then m ++ [sfx ||| 0x80] else m ++ [sfx] ++ List.replicate (q - 2) 0 ++ [0x80]

/-- The squeezed bytes of a state: `n` blocks of the rate. -/
def keccakSqueeze (rate : Nat) : Nat → List (BitVec 64) → List Byte
  | 0, _ => []
  | n + 1, st => (st.flatMap fun l => leBytes 8 l.toNat).take rate ++ keccakSqueeze rate n (keccakF st)

/-- A sponge of FIPS 202 with `out` bytes of output. -/
def sponge (rate : Nat) (sfx : Byte) (out : Nat) (m : List Byte) : List Byte :=
  let st := (blocks rate (keccakPad rate sfx m)).foldl keccakAbsorb (List.replicate 25 0)
  (keccakSqueeze rate (ceilDiv out rate) st).take out

def sha3_256 (m : List Byte) : List Byte := sponge 136 0x06 32 m
def sha3_384 (m : List Byte) : List Byte := sponge 104 0x06 48 m
def sha3_512 (m : List Byte) : List Byte := sponge 72 0x06 64 m
def shake128 (out : Nat) (m : List Byte) : List Byte := sponge 168 0x1f out m
def shake256 (out : Nat) (m : List Byte) : List Byte := sponge 136 0x1f out m

/-- HMAC of FIPS 198-1 over a hash with block size `bl`; the key is no longer than the block (R174). -/
def hmac (hash : List Byte → List Byte) (bl : Nat) (key m : List Byte) : List Byte :=
  let k := fitBytes bl key
  hash (k.map (· ^^^ 0x5c) ++ hash (k.map (· ^^^ 0x36) ++ m))

end Sys2Proof.Machine
end

