-- ==== Sys2Proof/Machine/Poly.lean ====
section
/-!
DEFINITION. What ML-DSA and ML-KEM share: polynomials of 256 coefficients as lists of residues, packed bit strings,
and rejection sampling from a sponge, a block at a time.
-/
set_option autoImplicit false

namespace Sys2Proof.Machine

/-- A polynomial: 256 residues, constant term first. -/
abbrev Poly := List Nat

/-- The sponge state after a whole message. -/
def spongeState (rate : Nat) (m : List Byte) : List (BitVec 64) :=
  (blocks rate (keccakPad rate 0x1f m)).foldl keccakAbsorb (List.replicate 25 0)

/-- Accepted samples from successive blocks of a sponge, until there are `n`. -/
def rejBlocks (rate n : Nat) (f : List Byte → List Nat) : Nat → List (BitVec 64) → List Nat → List Nat
  | 0, _, acc => acc.take n
  | k + 1, st, acc =>
    if n ≤ acc.length then acc.take n
    else rejBlocks rate n f k (keccakF st) (acc ++ f ((st.flatMap fun l => leBytes 8 l.toNat).take rate))

/-- Numbers of `w` bits packed least significant bit first. -/
def packBits (w : Nat) (vs : List Nat) : List Byte :=
  leBytes (ceilDiv (w * vs.length) 8) (vs.reverse.foldl (fun acc v => acc * 2 ^ w + v % 2 ^ w) 0)

/-- `n` numbers of `w` bits of a packed string. -/
def unpackBits (w n : Nat) (bs : List Byte) : List Nat :=
  let v := leNat bs
  (List.range n).map fun i => bitsOf v (w * i) w

/-- A power modulo `q`. -/
def powQ (q b : Nat) : Nat → Nat
  | 0 => 1 % q
  | n + 1 => powQ q b n * b % q

/-- Bits reversed in a width. -/
def bitRev : Nat → Nat → Nat
  | 0, _ => 0
  | n + 1, v => (v % 2) * 2 ^ n + bitRev n (v / 2)

/-- The forward transform below node `k`, `d` layers deep; `z` gives the root of each node. -/
def nttRec (q : Nat) (z : Nat → Nat) : Nat → Nat → Poly → Poly
  | 0, _, p => p
  | d + 1, k, p =>
    let h := p.length / 2
    let lo := p.take h
    let hi := (p.drop h).map fun x => x * z k % q
    nttRec q z d (2 * k) (List.zipWith (fun a b => (a + b) % q) lo hi)
      ++ nttRec q z d (2 * k + 1) (List.zipWith (fun a b => (a + q - b) % q) lo hi)

/-- The inverse transform without its final factor; `z` gives the inverse root of each node. -/
def invRec (q : Nat) (z : Nat → Nat) : Nat → Nat → Poly → Poly
  | 0, _, p => p
  | d + 1, k, p =>
    let h := p.length / 2
    let a := invRec q z d (2 * k) (p.take h)
    let b := invRec q z d (2 * k + 1) (p.drop h)
    List.zipWith (fun x y => (x + y) % q) a b ++ List.zipWith (fun x y => (x + q - y) % q * z k % q) a b

/-- Coefficient-wise sum. -/
def polyAdd (q : Nat) (a b : Poly) : Poly := List.zipWith (fun x y => (x + y) % q) a b

/-- Coefficient-wise difference. -/
def polySub (q : Nat) (a b : Poly) : Poly := List.zipWith (fun x y => (x + q - y) % q) a b

/-- The zero polynomial. -/
def polyZero : Poly := List.replicate 256 0

end Sys2Proof.Machine
end

