-- ==== Sys2Proof/Machine/MlDsa.lean ====
section
/-!
DEFINITION. ML-DSA-44 of FIPS 204 (R234 to R237): key generation from a seed, the iterations of the signing loop,
verification, and the message representative with a context string.
-/
set_option autoImplicit false

namespace Sys2Proof.Machine

/-- The modulus of ML-DSA. -/
def qD : Nat := 8380417
/-- 2γ₂. -/
def g2D : Nat := 190464
/-- γ₁. -/
def g1D : Nat := 131072

/-- The roots of the transform, by node. -/
def zetaD (k : Nat) : Nat := powQ qD 1753 (bitRev 8 k)
/-- The inverse roots, by node: ζ has order 512. -/
def zetaDInv (k : Nat) : Nat := powQ qD 1753 (512 - bitRev 8 k)

/-- The transform of ML-DSA. -/
def nttD (p : Poly) : Poly := nttRec qD zetaD 8 1 p
/-- Its inverse; 8,347,681 is the inverse of 256. -/
def inttD (p : Poly) : Poly := (invRec qD zetaDInv 8 1 p).map fun x => x * 8347681 % qD
/-- A product in the transformed domain. -/
def mulD (a b : Poly) : Poly := List.zipWith (fun x y => x * y % qD) a b
/-- A row of products, summed. -/
def dotD (a b : List Poly) : Poly := (List.zipWith mulD a b).foldl (polyAdd qD) polyZero

/-- The centred residue. -/
def centre (q v : Nat) : Int := if q / 2 < v then (v : Int) - q else v
/-- The residue of an integer. -/
def residue (q : Nat) (v : Int) : Nat := (v % (q : Int)).toNat
/-- The largest absolute value of the centred coefficients. -/
def normD (p : Poly) : Nat := p.foldl (fun m v => max m (centre qD v).natAbs) 0

/-- ExpandA. -/
def expandA (rho : List Byte) : List (List Poly) :=
  (List.range 4).map fun r => (List.range 4).map fun c =>
    rejBlocks 168 256 (fun b => (blocks 3 b).filterMap fun t =>
      let z := leNat t % 2 ^ 23
      if z < qD then some z else none) 64 (spongeState 168 (rho ++ [BitVec.ofNat 8 c, BitVec.ofNat 8 r])) []

/-- RejBoundedPoly with η = 2. -/
def boundedD (seed : List Byte) (n : Nat) : Poly :=
  rejBlocks 136 256 (fun b => b.flatMap fun z =>
    ([z.toNat % 16, z.toNat / 16].filter (· < 15)).map fun h => (qD + 2 - h % 5) % qD) 64 (spongeState 136 (seed ++ leBytes 2 n)) []

/-- The expanded secret key. -/
structure DsaKey where
  rho : List Byte
  k   : List Byte
  tr  : List Byte
  s1  : List Poly
  s2  : List Poly
  t0  : List Poly
  pk  : List Byte

/-- ML-DSA.KeyGen_internal. -/
def mldsaKey (xi : List Byte) : DsaKey :=
  let h := shake256 128 (xi ++ [4, 4])
  let rho := h.take 32
  let sd := cut h 32 64
  let a := expandA rho
  let s1 := (List.range 4).map (boundedD sd)
  let s2 := (List.range 4).map fun i => boundedD sd (i + 4)
  let s1n := s1.map nttD
  let t := List.zipWith (fun row e => polyAdd qD (inttD (dotD row s1n)) e) a s2
  let lo (v : Nat) : Int := let m := v % 8192; if 4096 < m then (m : Int) - 8192 else m
  let t1 := t.map fun p => p.map fun (v : Nat) => ((((v : Nat) : Int) - lo v) / 8192).toNat
  let t0 := t.map fun p => p.map fun v => residue qD (lo v)
  let pk := rho ++ t1.flatMap (packBits 10)
  { rho := rho, k := h.drop 96, tr := shake256 64 pk, s1 := s1, s2 := s2, t0 := t0, pk := pk }

/-- The public key of a seed. -/
def mldsaPk (xi : List Byte) : List Byte := (mldsaKey xi).pk

/-- Decompose: (r₁, r₀). -/
def decompose (r : Nat) : Nat × Int :=
  let m := r % g2D
  let r0 : Int := if g2D / 2 < m then (m : Int) - g2D else m
  if (r : Int) - r0 = qD - 1 then (0, r0 - 1) else ((((r : Int) - r0) / g2D).toNat, r0)

/-- SampleInBall with τ = 39. -/
def inBallAux (sg : Nat) : Nat → List Byte → Poly → Poly
  | _, [], c => c
  | i, b :: bs, c =>
    if 256 ≤ i then c
    else if b.toNat ≤ i then
      let j := b.toNat
      let s : Nat := if sg.testBit (i + 39 - 256) then qD - 1 else 1
      inBallAux sg (i + 1) bs ((c.set i (c.getD j 0)).set j s)
    else inBallAux sg i bs c

/-- SampleInBall. -/
def inBall (ct : List Byte) : Poly :=
  let bs := shake256 1088 ct
  inBallAux (leNat (bs.take 8)) 217 (bs.drop 8) polyZero

/-- ExpandMask. -/
def expandMask (seed : List Byte) (kappa : Nat) : List Poly :=
  (List.range 4).map fun r =>
    (unpackBits 18 256 (shake256 576 (seed ++ leBytes 2 (kappa + r)))).map fun v => (qD + g1D - v) % qD

/-- The hints packed. -/
def packHint (h : List (List Bool)) : List Byte :=
  let idx := h.map fun p => (List.range 256).filter fun j => p.getD j false
  let all := idx.flatten
  let ends := (List.range 4).map fun i => ((idx.take (i + 1)).map List.length).foldl (· + ·) 0
  fitBytes 80 (all.map (BitVec.ofNat 8)) ++ ends.map (BitVec.ofNat 8)

/-- A list of byte values strictly rises. -/
def rising : List Nat → Bool
  | a :: b :: r => decide (a < b) && rising (b :: r)
  | _ => true

/-- The hints unpacked, where they are well formed. -/
def unpackHint (bs : List Byte) : Option (List (List Bool)) :=
  let y := bs.map BitVec.toNat
  let ends := (List.range 4).map fun i => y.getD (80 + i) 0
  let starts := 0 :: ends.take 3
  let ok := (List.zipWith (fun a b => decide (a ≤ b) && decide (b ≤ 80)) starts ends).all id
  let rows := List.zipWith (fun a b => (y.drop a).take (b - a)) starts ends
  let rest := (y.take 80).drop (ends.getD 3 0)
  if ok && rows.all rising && rest.all (· == 0) then some (rows.map fun r => (List.range 256).map r.contains) else none

/-- What every iteration of the signing loop shares. -/
structure DsaSign where
  a   : List (List Poly)
  s1  : List Poly
  s2  : List Poly
  t0  : List Poly
  mu  : List Byte
  rho : List Byte

/-- Prepare to sign the representative `mu` with fresh bytes `rnd`. -/
def mldsaPrep (xi mu rnd : List Byte) : DsaSign :=
  let k := mldsaKey xi
  { a := expandA k.rho, s1 := k.s1.map nttD, s2 := k.s2.map nttD, t0 := k.t0.map nttD, mu := mu,
    rho := shake256 64 (k.k ++ rnd ++ mu) }

/-- One iteration of the signing loop: the signature unless it is rejected. -/
def mldsaIter (g : DsaSign) (i : Nat) : Option (List Byte) :=
  let y := expandMask g.rho (4 * i)
  let yn := y.map nttD
  let w := g.a.map fun row => inttD (dotD row yn)
  let w1 := w.map fun p => p.map fun v => (decompose v).1
  let ct := shake256 32 (g.mu ++ w1.flatMap (packBits 6))
  let c := nttD (inBall ct)
  let z := List.zipWith (fun a b => polyAdd qD a (inttD (mulD c b))) y g.s1
  let r := List.zipWith (fun a b => polySub qD a (inttD (mulD c b))) w g.s2
  let r0 := r.map fun p => p.foldl (fun m v => max m (decompose v).2.natAbs) 0
  if z.any (fun p => g1D - 78 ≤ normD p) || r0.any (95232 - 78 ≤ ·) then none
  else
    let c0 := g.t0.map fun b => inttD (mulD c b)
    let h := List.zipWith (fun a b => List.zipWith (fun v t => decide ((decompose v).1 ≠ (decompose ((v + t) % qD)).1)) a b) r c0
    if c0.any (fun p => 95232 ≤ normD p) || 80 < (h.flatten.filter id).length then none
    else some (ct ++ z.flatMap (fun p => packBits 18 (p.map fun v => ((g1D : Int) - centre qD v).toNat)) ++ packHint h)

/-- Iterations from `i` on, at most `n`: the signature and the iteration that gave it. -/
def mldsaLoop (g : DsaSign) : Nat → Nat → Option (List Byte × Nat)
  | 0, _ => none
  | n + 1, i =>
    match mldsaIter g i with
    | some s => some (s, i)
    | none => mldsaLoop g n (i + 1)

/-- ML-DSA.Verify_internal on a message representative. -/
def mldsaVerifyMu (pk mu sig : List Byte) : Bool :=
  if pk.length ≠ 1312 ∨ sig.length ≠ 2420 then false
  else
    match unpackHint (sig.drop 2336) with
    | none => false
    | some h =>
      let ct := sig.take 32
      let z := (List.range 4).map fun i => (unpackBits 18 256 (cut sig (32 + 576 * i) 576)).map fun v => (qD + g1D - v) % qD
      let t1 := (List.range 4).map fun i => (unpackBits 10 256 (cut pk (32 + 320 * i) 320)).map (· * 8192 % qD)
      let c := nttD (inBall ct)
      let zn := z.map nttD
      let w := List.zipWith (fun row t => inttD (polySub qD (dotD row zn) (mulD c (nttD t)))) (expandA (pk.take 32)) t1
      let w1 := List.zipWith (fun p hp => List.zipWith (fun v b =>
        let (a1, a0) := decompose v
        if b then (if 0 < a0 then (a1 + 1) % 44 else (a1 + 43) % 44) else a1) p hp) w h
      !(z.any fun p => g1D - 78 ≤ normD p) && shake256 32 (mu ++ w1.flatMap (packBits 6)) == ct

/-- The message representative μ of a message under a context string. -/
def mldsaMu (pk ctx m : List Byte) : List Byte :=
  shake256 64 (shake256 64 pk ++ [0, BitVec.ofNat 8 ctx.length] ++ ctx ++ m)

/-- Verification of a message under a context string. -/
def mldsaVerify (pk : List Byte) (ctx : String) (m sig : List Byte) : Bool :=
  mldsaVerifyMu pk (mldsaMu pk (ascii ctx) m) sig

end Sys2Proof.Machine
end

