-- ==== Sys2Proof/Machine/StayLink.lean ====
section
/-!
DEFINITION. The sending side of the Stay link (R386 to R388) and who the twins are (R383, R384).
-/
set_option autoImplicit false

namespace Sys2Proof.Machine

/-- The device's own identity fingerprint: SHA3-256 of its identity key. -/
def ownFp : List Byte := sha3_256 (mldsaPk Config.identitySeed)

/-- The Stay link identity in effect. -/
def State.stayId (s : State) : Option StayId := s.flash.opt.stay

/-- The device is the lower twin (R383). -/
def State.lowerTwin (s : State) : Bool :=
  match s.stayId with
  | some i => decide (beNat ownFp < beNat i.twinFp)
  | none => true

/-- PSTATE is PAIRED or RESYNC: the mirroring rules apply (R384). -/
def State.paired (s : State) : Bool := s.stay.pstate == 1 || s.stay.pstate == 4

/-- The 16 B header of a frame (Table 12.2). -/
def LinkFrame.header (f : LinkFrame) : List Byte :=
  let b (v : Bool) (n : Nat) : Nat := if v then 2 ^ n else 0
  [BitVec.ofNat 8 (f.typ * 16 + f.ver), BitVec.ofNat 8 (b f.last 3 + b f.resend 2 + b f.nak 1 + b f.enc 0)]
    ++ leBytes 2 f.payload.length ++ leBytes 4 f.seq ++ leBytes 4 f.ackSeq ++ leBytes 4 f.txFrame

/-- The bytes of a frame: header, payload, tag and CRC; `key` is the session key of its direction (R386, R387). -/
def LinkFrame.bytes (f : LinkFrame) (key : Option (List Byte)) (epoch : Nat) : List Byte :=
  let h := f.header
  let body := match f.enc, key with
    | true, some k =>
      let (ct, tag) := gcmSeal k (leBytes 4 f.seq ++ leBytes 4 epoch ++ List.replicate 4 0) h f.payload
      ct ++ tag
    | _, _ => f.payload
  let t := h ++ body
  t ++ leBytes 4 (crc32c t f.seq)

/-- Put a frame on the link. -/
def State.putFrame (s : State) (f : LinkFrame) : State :=
  s.emit (.link f.typ (f.bytes s.stay.txKey s.stay.txEpoch))

/-- Send one frame; the last 256 are kept for a resend (R388). -/
def State.sendFrame (s : State) (typ : Nat) (payload : List Byte) (last : Bool := true) (nak : Bool := false) : State :=
  let y := s.stay
  let f : LinkFrame := {
    typ := typ, last := last, nak := nak, enc := typ != 0 && typ != 1, seq := y.txSeq, ackSeq := y.rxSeq,
    txFrame := s.frame32, payload := payload }
  let s := s.putFrame f
  { s with stay := { y with
      txSeq := (y.txSeq + 1) % 2 ^ 32, txEpoch := if y.txSeq + 1 = 2 ^ 32 then y.txEpoch + 1 else y.txEpoch,
      replay := (y.replay ++ [f]).drop (y.replay.length - 255), ackDue := false } }

/-- Send the fragments of a message. -/
def State.sendParts (s : State) (typ : Nat) : List (List Byte) → State
  | [] => s
  | [p] => s.sendFrame typ p
  | p :: ps => State.sendParts (s.sendFrame typ p false) typ ps

/-- Send a message, in fragments of 2,048 B of which only the last carries LAST; nothing while the link is not up. -/
def State.sendMsg (s : State) (typ : Nat) (msg : List Byte) : State :=
  if s.stay.lstate ≠ 3 then s
  else if msg.isEmpty then s.sendFrame typ []
  else s.sendParts typ (blocks 2048 msg)

/-- What the link needs before it trains: a loaded rig (Table 1.3). -/
def State.stayReady (s : State) : Bool := s.rig.eff.isSome || s.rig.ready.isSome

/-- An enabled link that is down begins to train once a rig is loaded. -/
def State.stayTrains (s : State) : State :=
  if s.stayReady && (s.hd pgStay).st == 1 && s.stay.lstate == 0 then { s with stay := { s.stay with lstate := 1 } } else s

/-- Naris sets CTRL.ENABLE at boot step 10 when the option area holds a Stay link identity (R385). -/
def State.stayBoot (s : State) : State :=
  let h := s.hd pgStay
  if s.stayId.isSome && h.st == 0 then (s.setHd pgStay { h with enable := true, st := 1 }).stayTrains else s

/-- The sequence number of the last frame sent: the one whose acknowledgement ends a message. -/
def State.lastSeq (s : State) : Nat := (s.stay.txSeq + 2 ^ 32 - 1) % 2 ^ 32

end Sys2Proof.Machine
end

