-- ==== Sys2Proof/Machine/CleatRows.lean ====
section
/-!
DEFINITION. Entries of the Cleat store as rows (R252 to R255, R259, R586), the row map (R133, R287), handles (R256, R257),
and the sectors of the vault (R279).
-/
set_option autoImplicit false

namespace Sys2Proof.Machine

/-! ### Algorithms (Table 8.2, Table 8.5a) -/

/-- ⌈bits ÷ 8⌉ of the curve of an ECC algorithm code's low digit. -/
def eccLen (c : Nat) : Nat := match c with
  | 0 => 32 | 1 => 48 | 2 => 66 | _ => 32

/-- KBITS of the curve. -/
def eccBits (c : Nat) : Nat := match c with
  | 0 => 256 | 1 => 384 | 2 => 521 | _ => 256

/-- Bytes of material of an algorithm; none for a reserved value. -/
def matLen (alg klen kbits : Nat) : Option Nat :=
  if 1 ≤ alg ∧ alg ≤ 5 ∨ alg = 8 then some klen
  else if 0x10 ≤ alg ∧ alg ≤ 0x13 then some (3 * eccLen (alg - 0x10))
  else if 0x18 ≤ alg ∧ alg ≤ 0x1B then some (2 * eccLen (alg - 0x18))
  else if alg = 0x20 ∨ alg = 0x22 ∨ alg = 0x40 ∨ alg = 0x48 then some 64
  else if alg = 0x21 ∨ alg = 0x23 then some 32
  else if alg = 0x30 then some (5 * (kbits / 16))
  else if alg = 0x31 then some (kbits / 8)
  else if alg = 0x41 then some 1312
  else none

/-- Rows of an entry with `n` bytes of material, and whether it takes the packed form (R253, R254). -/
def rowsFor (n : Nat) : Nat × Bool := if 2048 < n then (1 + ceilDiv (n - 64) 96, true) else (max 1 (ceilDiv n 64), false)

/-- The USAGE bits that Table 8.5a permits. -/
def usagePermitted (alg : Nat) : Nat :=
  if 1 ≤ alg ∧ alg ≤ 5 then 0xDF
  else if alg = 0x08 then 0x84
  else if 0x10 ≤ alg ∧ alg ≤ 0x13 then 0xB0
  else if alg = 0x20 ∨ alg = 0x40 then 0xA0
  else if alg = 0x22 then 0x90
  else if alg = 0x30 then 0xA2
  else if alg = 0x48 then 0x82
  else 0xFF

/-- An RSA public exponent that R208 permits. -/
def pubExpOk (e : Nat) : Bool := e % 2 == 1 && decide (3 ≤ e) && decide (e < 2 ^ 17)

/-- ALG, KLEN, KBITS and PUBEXP agree (Table 8.5a). -/
def algAgree (alg klen kbits pubexp : Nat) : Bool :=
  let plain (k b : Nat) : Bool := klen == k && kbits == b && pubexp == 0
  if alg = 1 then plain 16 128 else if alg = 2 then plain 24 192 else if alg = 3 then plain 32 256
  else if alg = 4 then plain 16 128 else if alg = 5 then plain 24 192
  else if alg = 8 then 1 ≤ klen && klen ≤ 32 && kbits == 8 * klen && pubexp == 0
  else if 0x10 ≤ alg ∧ alg ≤ 0x13 then plain 0 (eccBits (alg - 0x10))
  else if 0x18 ≤ alg ∧ alg ≤ 0x1B then plain 0 (eccBits (alg - 0x18))
  else if 0x20 ≤ alg ∧ alg ≤ 0x23 then plain 0 255
  else if alg = 0x30 ∨ alg = 0x31 then klen == 0 && kbits % 128 == 0 && 512 ≤ kbits && kbits ≤ 8192 && pubExpOk pubexp
  else if alg = 0x40 ∨ alg = 0x41 ∨ alg = 0x48 then plain 0 0
  else false

/-- The template's buffer material in PUBLIC mode, where ALG and KBITS give a length (R266). -/
def publicLen (alg klen kbits pubexp : Nat) : Option Nat :=
  if [0x18, 0x19, 0x1A, 0x1B, 0x21, 0x23, 0x31, 0x41].contains alg && algAgree alg klen kbits pubexp then matLen alg klen kbits else none

/-- Two key parts are equal, the least significant bit of every byte ignored (R255). -/
def sameParts (a b : List Byte) : Bool := (a.map fun (x : Byte) => x >>> 1) == (b.map fun (x : Byte) => x >>> 1)

/-- A TDES key that the store refuses (R255). -/
def weakTdes (alg : Nat) (m : List Byte) : Bool :=
  (alg == 4 || alg == 5) && (sameParts (cut m 0 8) (cut m 8 8) || (alg == 5 && sameParts (cut m 8 8) (cut m 16 8)))

/-! ### Images -/

/-- ATTR of the head row (Table 8.3). -/
def Entry.attr (e : Entry) (gen : Nat) : List Byte :=
  let f := (if e.persist then 1 else 0) + 2 + (if e.packed then 4 else 0) + (if e.vaulted then 8 else 0) + (if e.system then 16 else 0)
  [BitVec.ofNat 8 e.alg, BitVec.ofNat 8 e.klen, BitVec.ofNat 8 e.usage, BitVec.ofNat 8 e.part, BitVec.ofNat 8 e.exportF,
    BitVec.ofNat 8 e.mirror, BitVec.ofNat 8 f, BitVec.ofNat 8 e.rows] ++ leBytes 2 e.kbits ++ leBytes 4 e.pubexp ++ leBytes 2 gen
    ++ fitBytes 16 e.tr31

/-- COUNTERS of the head row (Table 8.4). -/
def Entry.counters (e : Entry) (count : Nat) : List Byte := leBytes 4 count ++ leBytes 4 e.useLimit ++ leBytes 6 e.notAfter ++ [0, 0]

/-- ATTR of continuation row `i`; in the packed form bytes 0x10 to 0x1F are material. -/
def Entry.contAttr (e : Entry) (gen i : Nat) (mat : List Byte) : List Byte :=
  [0, 0, 0, BitVec.ofNat 8 e.part, 0, 0, 0, BitVec.ofNat 8 i, 0, 0, 0, 0, 0, 0] ++ leBytes 2 gen ++ fitBytes 16 mat

/-- MATERIAL ‖ ATTR ‖ COUNTERS of every row (R253, R254), with the count given. -/
def Entry.rowParts (e : Entry) (gen count : Nat) : List (List Byte) :=
  (List.range e.rows).map fun i =>
    if i = 0 then fitBytes 64 e.material ++ e.attr gen ++ e.counters count
    else if e.packed then
      let m := cut e.material (64 + 96 * (i - 1)) 96
      fitBytes 64 m ++ e.contAttr gen i (cut m 64 16) ++ fitBytes 16 (cut m 80 16)
    else fitBytes 64 (cut e.material (64 * i) 64) ++ e.contAttr gen i [] ++ List.replicate 16 0

/-- CHECK of a row: CRC-64 over bytes 0x00 to 0x77 with the logical row index folded in (R262). -/
def rowCheck (bytes : List Byte) (row : Nat) : Nat := crcFold crc64Par (fitBytes 0x78 bytes) row

/-- The 128 B image of row `i` of an entry at `head`. -/
def Entry.rowImage (e : Entry) (head gen count i : Nat) : List Byte :=
  let p := fitBytes 0x78 ((e.rowParts gen count).getD i [])
  p ++ leBytes 8 (rowCheck p (head + i))

/-- An entry from its attributes, counters and rows as a vault record or a blob holds them: 96 B of MATERIAL ‖ ATTR per
row. The 16 B of packed material that COUNTERS of a continuation row carries are not among them; `lost` stands for
them (notes/assumptions/23.md). -/
def entryOf (rows : List (List Byte)) (cnt lost : List Byte) : Entry × Nat :=
  let r0 := rows.headD []
  let a := r0.drop 64
  let packed := bitOf (fld' a 6 1) 2
  let more := rows.drop 1
  let mat := r0.take 64 ++ (if packed then more.flatMap fun r => r.take 64 ++ cut r 80 16 ++ lost else more.flatMap fun r => r.take 64)
  let alg := fld' a 0 1
  let klen := fld' a 1 1
  let kbits := fld' a 8 2
  ({ alg := alg, klen := klen, usage := fld' a 2 1, part := fld' a 3 1, exportF := fld' a 4 1, mirror := fld' a 5 1,
     persist := bitOf (fld' a 6 1) 0, packed := packed, vaulted := bitOf (fld' a 6 1) 3, system := bitOf (fld' a 6 1) 4,
     rows := fld' a 7 1, kbits := kbits, pubexp := fld' a 10 4, tr31 := cut a 16 16,
     useCount := fld' cnt 0 4, useLimit := fld' cnt 4 4, notAfter := fld' cnt 8 6,
     material := mat.take ((matLen alg klen kbits).getD mat.length) }, fld' a 14 2 % 2 ^ 15)
where
  /-- A little-endian field. -/
  fld' (b : List Byte) (o n : Nat) : Nat := leNat (cut b o n)

/-! ### Rows -/

/-- The generation of a logical row (R256). -/
def State.rowGen (s : State) (r : Nat) : Nat := SMap.get 0 s.cleat.gens r + 1

/-- Set the generation of a row. -/
def CleatSt.setGen (c : CleatSt) (r g : Nat) : CleatSt := { c with gens := SMap.put 0 c.gens r (g - 1) }

/-- The generation after `g`. -/
def nextGen (g : Nat) : Nat := if g ≥ 0x7FFF then 1 else g + 1

/-- The handle of a row (R256). -/
def State.handleOf (s : State) (r : Nat) : Nat := s.rowGen r * 2 ^ 17 + r

/-- The physical row that the map of a boot gave logical row `r`: the rows not retired, in ascending order (R133). -/
def bootRow (ret : List Nat) (r : Nat) : Nat := ret.foldl (fun p x => if x ≤ p then p + 1 else p) r

/-- The entry of a void row in the row map. -/
def voidRow : Nat := 2 ^ 18

/-- The physical row behind a logical row. -/
def State.physRow (s : State) (r : Nat) : Nat :=
  match SMap.get 0 s.cleat.phys r with
  | 0 => bootRow s.cleat.bootRet r
  | n => n - 1

/-- Spare rows left. -/
def State.rowSpares (s : State) : Nat := 4096 - s.cleat.bootRet.length - s.cleat.sparesUsed

/-- The next spare row. -/
def State.nextSpare (s : State) : Nat := bootRow s.cleat.bootRet (131072 + s.cleat.sparesUsed)

/-- The entry at a head row. -/
def State.entry (s : State) (r : Nat) : Option Entry := SMap.get none s.cleat.ents r

/-- Replace the entry at a head row. -/
def State.setEntry (s : State) (r : Nat) (e : Option Entry) : State :=
  { s with cleat := { s.cleat with ents := SMap.put none s.cleat.ents r e } }

/-- The entry that a handle names (R257). -/
def State.named (s : State) (h : Nat) : Option (Nat × Entry) :=
  let r := h % 2 ^ 17
  match s.entry r with
  | some e => if s.rowGen r = h / 2 ^ 17 && !e.suspended then some (r, e) else none
  | none => none

/-- The head row of the entry that covers a logical row. -/
def State.headOf (s : State) (r : Nat) : Option Nat :=
  (s.cleat.ents.find? fun x => match x.2 with
    | some e => decide (x.1 ≤ r) && decide (r < x.1 + e.rows)
    | none => false).map Prod.fst

/-! ### Vault sectors (R279) -/

/-- The vault key (R278): SHA3-256 of "OXVAULT", the root mask and the device secret. -/
def vaultKeyOf (mask : Nat) : List Byte := sha3_256 (ascii "OXVAULT" ++ randBytes mask 32 ++ Config.deviceSecret)

/-- Flash byte address of vault sector `i`: bank 2, then bank 3 below the row retirement table. -/
def vaultAddr (i : Nat) : Nat := 2 * 0x800000 + i * 4096

/-- Vault sectors. -/
def vaultSectors : Nat := 2048 + 2038

/-- The bytes of a record; an entry record holds its checkpoint as USE_COUNT. -/
def VaultRec.bytes : VaultRec → List Byte
  | .entry head gen e => leBytes 4 head ++ ((e.rowParts gen e.useCount).flatMap fun r => r.take 96) ++ e.counters e.useCount
  | .tomb head gen => leBytes 4 (2 ^ 31 + head) ++ leBytes 4 gen ++ List.replicate 8 0

/-- The head row of a record. -/
def VaultRec.head : VaultRec → Nat
  | .entry h _ _ => h
  | .tomb h _ => h

/-- A record is an entry record. -/
def VaultRec.isEntry : VaultRec → Bool
  | .entry _ _ _ => true
  | .tomb _ _ => false

/-- The records that fit into the sector that is being filled (R279), and the others. -/
def sectorFill : Nat → List VaultRec → List VaultRec × List VaultRec
  | _, [] => ([], [])
  | room, r :: rs =>
    let n := r.bytes.length
    if room < n then ([], r :: rs)
    else
      let (a, b) := sectorFill (room - n) rs
      (r :: a, b)

/-- Bytes of records in one sector. -/
def sectorRoom : Nat := 0xFF0 - 0x20

/-- The 4,096 B of a vault sector. -/
def sectorBytes (key iv : List Byte) (seq : Nat) (rs : List VaultRec) : List Byte :=
  let recs := rs.flatMap VaultRec.bytes
  let hdr := leBytes 4 0x544C5556 ++ leBytes 8 seq ++ leBytes 2 rs.length ++ leBytes 2 recs.length ++ fitBytes 12 iv ++ List.replicate 4 0
  let (ct, tag) := gcmSeal key (fitBytes 12 iv) hdr (fitBytes sectorRoom recs)
  hdr ++ ct ++ tag

/-- The records in plain sector bytes; `lost` stands for packed material that a record does not hold. -/
def parseRecs (lost : List Byte) : Nat → List Byte → List VaultRec
  | 0, _ => []
  | n + 1, bs =>
    let h := leNat (bs.take 4)
    if 2 ^ 31 ≤ h then .tomb (h % 2 ^ 17) (leNat (cut bs 4 4) % 2 ^ 15) :: parseRecs lost n (bs.drop 16)
    else
      let rows := max 1 (leNat (cut bs (4 + 64 + 7) 1))
      let (e, g) := entryOf (blocks 96 (cut bs 4 (96 * rows))) (cut bs (4 + 96 * rows) 16) lost
      .entry (h % 2 ^ 17) g e :: parseRecs lost n (bs.drop (20 + 96 * rows))

/-- What a vault sector holds: nothing, a failed sector, or its SEQ and records. -/
inductive SectorRead where
  | blank
  | bad
  | ok (seq : Nat) (rs : List VaultRec)

/-- Read one vault sector: an erased sector is blank, one whose units or tag fail is bad (R282, R456). -/
def State.readSector (s : State) (key lost : List Byte) (i : Nat) : SectorRead :=
  let fa := vaultAddr i
  let h := s.bankBytes fa 32
  if (s.rangeBad fa 4096).isSome then .bad
  else if h.all (· == 0xFF) then .blank
  else if leNat (h.take 4) ≠ 0x544C5556 then .bad
  else
    match gcmOpen key (cut h 16 12) h (s.bankBytes (fa + 32) sectorRoom) (s.bankBytes (fa + 0xFF0) 16) with
    | some t => .ok (leNat (cut h 4 8)) (parseRecs lost (leNat (cut h 12 2)) t)
    | none => .bad

/-- The vault sectors of which anything has been programmed. -/
def State.vaultUsed (s : State) : List Nat :=
  (List.range vaultSectors).filter fun i =>
    let k := s.flashKey (vaultAddr i)
    s.flash.mem.any fun e => decide (k ≤ e.1) && decide (e.1 < k + 4)

/-- Every readable vault sector with its index, and how many sectors fail. -/
def State.vaultScan (s : State) (key lost : List Byte) : List (Nat × Nat × List VaultRec) × Nat :=
  s.vaultUsed.foldl (fun (acc : List (Nat × Nat × List VaultRec) × Nat) i =>
    match s.readSector key lost i with
    | .blank => acc
    | .bad => (acc.1, acc.2 + 1)
    | .ok seq rs => (acc.1 ++ [(i, seq, rs)], acc.2)) ([], 0)

/-- The latest record of a head row: the highest SEQ and, in it, the last (R282). -/
def latestRec (scan : List (Nat × Nat × List VaultRec)) (head : Nat) : Option (Nat × VaultRec) :=
  scan.foldl (fun (best : Option (Nat × VaultRec)) x =>
    match (x.2.2.filter fun r => r.head == head).getLast? with
    | some r => match best with
      | some b => if b.1 ≤ x.2.1 then some (x.2.1, r) else best
      | none => some (x.2.1, r)
    | none => best) none

/-! ### The row retirement table (R287) -/

/-- First flash byte address of copy A or B. -/
def retAddr (b : Bool) : Nat := 3 * 0x800000 + (if b then 2043 else 2038) * 4096

/-- The bytes of a copy (Table 8.12). -/
def retBytes (rows : List Nat) (gen : Nat) (b : Bool) : List Byte :=
  let t := fitBytes 0x4040 (fitBytes 0x40 (leBytes 4 0x5452584F ++ leBytes 2 1 ++ leBytes 2 rows.length ++ leBytes 4 gen)
    ++ rows.flatMap fun r => leBytes 4 (2 ^ 31 + r))
  t ++ leBytes 4 (crc32c t (retAddr b))

/-- A copy as the flash holds it, where it is valid: generation and rows. -/
def State.readRet (s : State) (b : Bool) : Option (Nat × List Nat) :=
  let a := retAddr b
  let h := s.bankBytes a 0x40
  if leNat (h.take 4) ≠ 0x5452584F || leNat (cut h 4 2) ≠ 1 || (s.rangeBad a 0x4044).isSome then none
  else
    let t := s.bankBytes a 0x4044
    if leNat (cut t 0x4040 4) ≠ crc32c (t.take 0x4040) a then none
    else
      let n := leNat (cut h 6 2)
      some (leNat (cut h 8 4), ((blocks 4 (cut t 0x40 (4 * n))).map fun w => leNat w % 2 ^ 18))

/-- The rows of the copy in effect, sorted, and its generation; an empty table where neither copy is valid. -/
def State.loadRet (s : State) : State :=
  let (g, rows) := match s.readRet false, s.readRet true with
    | some a, some b => if a.1 < b.1 then b else a
    | some a, none => a
    | none, some b => b
    | none, none => (0, [])
  { s with cleat := { s.cleat with
      retGen := g, retDue := false, retiredRows := rows, bootRet := rows.mergeSort (fun a b => decide (a ≤ b)), phys := [], sparesUsed := 0 } }

/-- Naris writes the next generation of the table into the copy that is not in effect, as odd generations stand in copy A, and
uses it only once it reads back: where the read-back fails, that copy is left erased and the write is still due (R287). -/
def State.writeRet (s : State) (ok : Bool) : State :=
  let g := s.cleat.retGen + 1
  let b := g % 2 == 0
  let sec := if b then 2043 else 2038
  let s := (List.range 5).foldl (fun s i => s.rewrite 3 (s.sector 3 (sec + i))) s
  if !ok then s
  else
    let img := blocks 4096 (retBytes s.cleat.retiredRows g b)
    let s := (img.zip (List.range img.length)).foldl (fun s (e : List Byte × Nat) => s.flashProgram (retAddr b + 4096 * e.2) e.1) s
    { s with cleat := { s.cleat with retGen := g, retDue := false } }

end Sys2Proof.Machine
end

