-- ==== Sys2Proof/Machine/Spring.lean ====
section
/-!
DEFINITION. The Spring and the rills (R409 to R428): cells, conditioning, health failure, seeds, generate calls.
-/
set_option autoImplicit false

namespace Sys2Proof.Machine

/-! ### Cells -/

/-- A noise cell. -/
def State.cell (s : State) (c : Nat) : Cell := SMap.get {} s.spring.cells c

/-- Replace a noise cell. -/
def State.setCell (s : State) (c : Nat) (v : Cell) : State :=
  { s with spring := { s.spring with cells := SMap.put {} s.spring.cells c v } }

/-- The cells that satisfy a condition. -/
def State.cellsWith (s : State) (p : Cell → Bool) : List Nat := (List.range 10).filter fun c => p (s.cell c)

/-- Cells that feed the conditioner. -/
def State.feeding (s : State) : List Nat := s.cellsWith Cell.feeding

/-- Spare cells: present and neither feeding nor suspended (R409). -/
def State.spareCells (s : State) : List Nat := s.cellsWith fun c => !c.retired && !c.suspended && !c.feeding

/-- HEALTH_FAIL is set: the rills get nothing and the reserve is discarded (R420). -/
def State.healthFail (s : State) : State :=
  if s.spring.healthFail then s else
  let s := { s with spring := { s.spring with healthFail := true, hfTicks := 0, reserve := 0, bits := 0 } }
  let s := s.inc Reg.SPRING.HF_CNT
  (s.setDetail pgSpring 4 true).raise pgSpring 3

/-- Fewer than eight cells feed once the Spring has started (R420). -/
def State.healthCheck (s : State) : State :=
  if s.spring.startupDone && s.feeding.length < 8 then s.healthFail else s

/-- A cell stops feeding: it is retired where a spare stands by, and suspended otherwise (R413). -/
def State.dropCell (s : State) (c : Nat) : State :=
  let v := s.cell c
  match s.spareCells.filter (· != c) with
  | sp :: _ =>
    let was := v.feeding
    let s := s.setCell c { v with feeding := false, suspended := false, retired := true, passes := 0 }
    let s := if was then s.setCell sp { s.cell sp with feeding := true } else s
    let s := s.fault 2 srcCell 0 c
    let (ok, s) := s.listRetired { kind := 10, yard := 0, unit := c }
    let s := if ok then s else s.exhausted { kind := 10, yard := 0, unit := c }
    (s.noteRetired 10 0 c 1).raise pgSpring 1
  | [] =>
    let s := s.setCell c { v with feeding := false, suspended := true, passes := 0 }
    (s.fault 0 srcCell 0 c).healthCheck

/-- `CELL_FAIL` (R410, R411, R413). An estimator alarm counts as a failure only with EST_ACTION 1. -/
def execCellFail (c : Fin 10) (test : CellTest) (s : State) : Result :=
  let v := s.cell c
  if v.retired then .next s else
  match test with
  | .rct => .next (((s.setCell c { v with rct := satInc 65535 v.rct }).raise pgSpring 0).dropCell c)
  | .apt => .next (((s.setCell c { v with apt := satInc 65535 v.apt }).raise pgSpring 0).dropCell c)
  | .est =>
    let s := s.raise pgSpring 2
    .next (if s.bit Reg.SPRING.EST_ACTION then s.dropCell c else s)

/-- The quotient of integers rounded to the nearest; a tie rounds away from zero (notes/assumptions/8.md). -/
def roundDiv (a b : Int) : Int :=
  if b = 0 then 0
  else if (0 ≤ a) = (0 ≤ b) then (2 * a.natAbs + b.natAbs : Nat) / (2 * b.natAbs) else -((2 * a.natAbs + b.natAbs : Nat) / (2 * b.natAbs) : Int)

/-- CORR of a window: the lag-1 autocorrelation in signed 1.15 form (R411). -/
def corrOf (n1 n11 : Nat) : Int :=
  let n : Int := 65536
  if n1 = 0 || n1 ≥ 65536 then 0
  else
    let r := roundDiv (32768 * (n * n11 - (n1 : Int) * n1)) ((n1 : Int) * (n - n1))
    max (-32768) (min 32767 r)

/-- `ESTIMATOR_WINDOW` : BIAS and CORR of a window, and the estimator alarm (R411). -/
def execEstimatorWindow (c : Fin 10) (n1 n11 : Fin 65537) (s : State) : Result :=
  let v := s.cell c
  let bias := min 65535 n1.val
  let corr := corrOf n1 n11
  let s := s.setCell c { v with estValid := true, bias := bias, corr := corr }
  let bad := bias < s.reg Reg.SPRING.BIAS_LO || s.reg Reg.SPRING.BIAS_HI < bias || s.reg Reg.SPRING.CORR_LIMIT < corr.natAbs
  if bad && !v.retired then
    let s := s.raise pgSpring 2
    .next (if s.bit Reg.SPRING.EST_ACTION then s.dropCell c else s)
  else .next s

/-! ### Rills -/

/-- A rill: partition rills 0 to 255, yard rills 256 to 319, wire rills 320 to 323. -/
def State.rill (s : State) (r : Nat) : Rill := SMap.get {} s.spring.rills r

/-- Replace a rill. -/
def State.setRill (s : State) (r : Nat) (v : Rill) : State :=
  { s with spring := { s.spring with rills := SMap.put {} s.spring.rills r v } }

/-- The rill of yard `y`. -/
def yardRill (y : Nat) : Nat := 256 + y

/-- Wire rill `w`. -/
def wireRill (w : Nat) : Nat := 320 + w

/-- RESEED_CNT and REFUSE_CNT of the RILL page (R427). -/
def Reg.RILL.RESEED_CNT : Field := ⟨0x10210, 0, 32, 0, .ro⟩

/-- REFUSE_CNT (R427). -/
def Reg.RILL.REFUSE_CNT : Field := ⟨0x10214, 0, 32, 0, .ro⟩

/-- A rill refuses (R421): a partition rill during a health failure or while its seed has not arrived; any other
during a failure once it has made 2²⁰ calls. -/
def State.rillRefuses (s : State) (r : Nat) : Bool :=
  let v := s.rill r
  if r < 256 then s.spring.healthFail || !v.seeded else s.spring.healthFail && v.calls ≥ 2 ^ 20

/-- A rill serves: it is instantiated and does not refuse. -/
def State.rillServes (s : State) (r : Nat) : Bool := (s.rill r).seeded && !s.rillRefuses r

/-- A refused request counts (R427, R428). -/
def State.rillRefused (s : State) (r : Nat) : State :=
  let s := s.inc Reg.RILL.REFUSE_CNT
  if r < 256 then s.raise pgRill 0 else s

/-- `n` generate calls of a rill; a reseed falls due at its 65,536th (R415). -/
def State.rillCalls (s : State) (r n : Nat) : State :=
  let v := s.rill r
  let c := min (2 ^ 20) (v.calls + n)
  s.setRill r { v with calls := c, due := v.due || c ≥ 65536 }

/-- Wire rill 0 or 1 refuses from now on: its consumers' register and interrupt bits (R163, R218). -/
def State.wireExhausted (s : State) (r : Nat) : State :=
  if r = 320 && !s.bit Reg.CIPHER.MASK_EXHAUSTED then (s.setBit Reg.CIPHER.MASK_EXHAUSTED true).raise pgCipher 2
  else if r = 321 && !s.bit Reg.BNE.BLIND_EXHAUSTED then (s.setBit Reg.BNE.BLIND_EXHAUSTED true).raise pgBne 3
  else s

/-- One request to a rill: a fresh draw, or none where it refuses or is not instantiated. -/
def State.rillDraw (s : State) (r : Nat) (calls : Nat := 1) : Option Nat × State :=
  if s.rillServes r then
    let (k, s) := s.draw
    (some k, s.rillCalls r calls)
  else (none, s.rillRefused r)

/-- A seed reaches a rill: it is instantiated, or reseeded, which counts (R427); MASK_EXHAUSTED and BLIND_EXHAUSTED clear when wire
rills 0 and 1 serve again (Table 5.7, Table 6.13). -/
def State.seedRill (s : State) (r : Nat) : State :=
  let v := s.rill r
  let s := s.setRill r { seeded := true, due := false, calls := 0, ticks := 0 }
  let s := if v.seeded || v.due then s.inc Reg.RILL.RESEED_CNT else s
  if r = 320 then s.setBit Reg.CIPHER.MASK_EXHAUSTED false else if r = 321 then s.setBit Reg.BNE.BLIND_EXHAUSTED false else s

/-- A partition rill falls due for its first seed (R415): from the reserve at once where no other rill waits, or when its turn comes. -/
def State.startPartRill (s : State) (p : Nat) : State :=
  if s.spring.seedReady && !s.spring.healthFail && 0 < s.spring.reserve && s.spring.queue.isEmpty then
    { s with spring := { s.spring with reserve := s.spring.reserve - 1 } }.setRill p { seeded := true }
  else
    let s := s.setRill p {}
    { s with spring := { s.spring with queue := s.spring.queue.filter (· != p) ++ [p] } }

/-- A rill is to be reseeded: from the reserve at once, or when its turn comes; it keeps serving while its seed waits (R415). -/
def State.reseedRill (s : State) (r : Nat) : State :=
  if 0 < s.spring.reserve && !s.spring.healthFail && s.spring.queue.isEmpty then
    { s with spring := { s.spring with reserve := s.spring.reserve - 1 } }.seedRill r
  else
    let s := s.setRill r { s.rill r with due := true }
    if s.spring.queue.contains r then s else { s with spring := { s.spring with queue := s.spring.queue ++ [r] } }

/-- RESET and DESTROY reseed the rill of the partition (Table 11.4); one that still waits for its first seed waits on. -/
def State.reseedPartRill (s : State) (p : Nat) : State := if (s.rill p).seeded then s.reseedRill p else s

/-- `RILL_RESEED` : at the 65,536th call or the 1,024th tick; the rill keeps serving while its seed waits (R415). -/
def execRillReseed (r : Fin 324) (s : State) : Result :=
  let v := s.rill r
  if !v.seeded || (v.calls < 65536 && v.ticks < 1024 && !v.due) then .next s else .next (s.reseedRill r)

/-- `SEED_ARRIVAL` : the rill at the head of the queue gets its seed (R415, R422). -/
def execSeedArrival (r : Fin 324) (s : State) : Result :=
  match s.spring.queue with
  | q :: rest =>
    if q = r.val && 0 < s.spring.reserve && !s.spring.healthFail then
      .next ({ s with spring := { s.spring with reserve := s.spring.reserve - 1, queue := rest } }.seedRill r)
    else .next s
  | [] => .next s

/-- `RILL_REFUSING` : a yard or wire rill has made 2²⁰ calls during a health failure (R163, R218, R421, R428). -/
def execRillRefusing (r : Fin 324) (s : State) : Result :=
  if 256 ≤ r.val && s.rillRefuses r then .next ((s.raise pgRill1 (if r.val < 320 then 0 else 1)).wireExhausted r) else .next s

/-- `CONDITIONING_CALL` : 256 bits, gathered into seeds of 384 for the reserve of 64. A spoiled call is discarded; a
failed state check sets HEALTH_FAIL (R412, R415, R420). Under the test pattern the output only reaches TEST_OUT (R424). -/
def execConditioningCall (ok spoiled : Bool) (s : State) : Result :=
  if s.feeding.length < 8 || !(s.hd pgSpring).enable then .next s
  else if spoiled then .next s
  else if !ok then .next s.healthFail
  else
    let s := s.inc Reg.SPRING.COND_CNT
    if s.spring.testpat then
      let (k, s) := s.draw
      .next ((List.range 8).foldl (fun s i => s.setReg (Reg.SPRING.TEST_OUT i) (leNat (cut (randBytes k 32) (4 * i) 4))) s)
    else if s.spring.healthFail then .next s
    else
      let b := s.spring.bits + 256
      .next { s with spring := { s.spring with reserve := min 64 (s.spring.reserve + b / 384), bits := b % 384 } }

/-- `SUSPENDED_CELL_TEST` : a suspended cell feeds again after four passes in a row (R413); where eight cells feed by then it stands by
as a spare (R409). -/
def execSuspendedCellTest (c : Fin 10) (pass : Bool) (s : State) : Result :=
  let v := s.cell c
  if !v.suspended then .next s
  else if !pass then .next (s.setCell c { v with passes := 0 })
  else if v.passes + 1 < 4 then .next (s.setCell c { v with passes := v.passes + 1 })
  else .next (s.setCell c { v with passes := 0, suspended := false, feeding := decide (s.feeding.length < 8) })

/-- The existing partitions, ascending. -/
def State.livingParts (s : State) : List Nat :=
  (List.range 256).filter fun p => match (s.part p).st with
    | .none | .pending => false
    | _ => true

/-- `HEALTH_CLEAR` : eight cells feed again. Every instantiated rill reseeds before it serves, wire rills first, then
the partition rills, then the yard rills; rills that a wipe left uninstantiated are instantiated in that order (R422). -/
def execHealthClear (s : State) : Result :=
  if !s.spring.healthFail || s.feeding.length < 8 then .next s
  else
    let inst := fun r => (s.rill r).seeded
    let order := (List.range 4).map wireRill ++ s.livingParts ++ (List.range 64).map yardRill
    let s := { s with spring := { s.spring with
      healthFail := false, hfTicks := 0, queue := order.filter fun r => inst r || (r < 256 && s.spring.seedReady),
      rills := (s.spring.rills.map fun (e : Nat × Rill) => (e.1, { e.2 with seeded := false, due := e.2.seeded || e.2.due })).filter fun e => decide (e.2 ≠ ({} : Rill)) } }
    .next ((s.setDetail pgSpring 4 false).raise pgSpring 4)

/-- `HEALTH_FAIL_TIMEOUT` : still failing at the 64th tick: F3 (R423). -/
def execHealthFailTimeout (s : State) : Result :=
  if s.spring.healthFail && s.spring.hfTicks = 64 then .next (s.fault 3 srcSpring 0 0 true) else .next s

/-- `TESTPAT_EN` : works only in FACTORY (R424). Clearing EN restarts from the startup test row: STATE stays as it is (R425). -/
def execTestpatEn (en : Bool) (pattern : Fin 65536) (s : State) : Result :=
  if s.mode ≠ .factory then .next s
  else
    let s := (s.setBit Reg.SPRING.EN en).setReg Reg.SPRING.PATTERN pattern
    if en then
      .next { s with spring := { s.spring with
        testpat := true, seedReady := false, reserve := 0, bits := 0, rills := [], queue := [] } }
    else if s.spring.testpat then
      .next { s with spring := { s.spring with testpat := false, startupDone := false } }
    else .next s

/-! ### Start (R418, R419) -/

/-- Naris enables the Spring at boot step 6: the cells start and settle. -/
def State.springStart (s : State) : State :=
  let s := { s with spring := { s.spring with started := true } }
  let s := s.updHd pgSpring fun h => { h with enable := true, st := 1 }
  (s.updHd pgRill fun h => { h with enable := true, st := 2 }).updHd pgRill1 fun h => { h with enable := true, st := 2 }

/-- The eight lowest of the cells that pass their startup test feed; the others that pass are spares; cells that
fail and are not retired are suspended. -/
def State.springFeed (s : State) (pass : Nat → Bool) : State :=
  let good := (List.range 10).filter fun c => pass c && !(s.cell c).retired
  let feed := good.take 8
  { s with spring := { s.spring with
    cells := (List.range 10).foldl (fun m c =>
      let v := SMap.get {} m c
      SMap.put {} m c { v with feeding := feed.contains c, suspended := !v.retired && !good.contains c, passes := 0 }) s.spring.cells } }

end Sys2Proof.Machine
end

