-- ==== Sys2Proof/Machine/PortOps.lean ====
section
/-!
DEFINITION. What every port shares: the window check (R113), the tag of a grant (R150), delivery and discarding of
results (R114, R150), the status latch (R118) and the marks of unit faults (R161, R177, R178).
-/
set_option autoImplicit false

namespace Sys2Proof.Machine

/-! ### Windows -/

/-- The slot of a Sheave holds a window of units `first` to `first + count − 1` of a kind that contains fabric cycles
`a` to `b` (R113). -/
def State.window (s : State) (slot kind first count a b : Nat) : Bool :=
  match s.slotEnt slot with
  | some e => e.resv.any fun r => r.kind == kind && decide (r.first ≤ first) && decide (first + count ≤ r.first + r.countM1 + 1)
      && decide (r.start ≤ a) && decide (b ≤ r.stop)
  | none => false

/-- The fabric cycle at which the EGRESS window of a slot starts. -/
def State.egressAt (s : State) (slot : Nat) : Nat :=
  match s.slotEnt slot with
  | some e => ((e.resv.find? fun r => r.kind == 6).map Resv.start).getD 0
  | none => 0

/-! ### Tags (R150) -/

/-- The tag of a port grant to the item that a Sheave runs. -/
def State.tagOf (s : State) (y l : Nat) : Tag :=
  let sh := s.sheave y l
  let i := s.item sh.item
  { y := y, l := l, slot := sh.slot, gen := (s.yard y).gen, epoch := s.epochOf sh.slot, item := sh.item,
    part := (i.map Item.part).getD 0, cls := (i.map Item.cls).getD 0 }

/-- The item runs: it holds its slot and its EGRESS window has not started. -/
def Place.isRunning : Place → Bool
  | .running _ _ => true
  | _ => false

/-- The sequencer accepts a result under a tag: generation and epoch agree and the EGRESS window has not started. -/
def State.tagLive (s : State) (t : Tag) : Bool :=
  (s.yard t.y).gen == t.gen && s.epochOf t.slot == t.epoch
    && match s.item t.item with
       | some i => i.place.isRunning && i.place.slot == some t.slot
       | none => false

/-- A result of fabric cycle `r` is accepted. -/
def State.accepts (s : State) (t : Tag) (r : Nat) : Bool := s.tagLive t && decide (r < s.egressAt t.slot)

/-- A discarded result counts. -/
def State.stale (s : State) (y : Nat) : State := s.inc (Reg.YARD.STALE_CNT y)

/-! ### The status latch and unit faults -/

/-- Statuses that a port reports (Table 10.11). -/
def stKeyUsage : Nat := 0x08
def stKeyAbsent : Nat := 0x09
def stSigFault : Nat := 0x0D
def stRngHealth : Nat := 0x0E

/-- A fabric cycle of the frame as a time in quarters of a cycle. -/
def State.quarter (s : State) (r4 : Nat) : Nat := s.frame.ticks * 2 ^ 22 + r4

/-- A port reports a status for an item at a time: the first report stands (R118). -/
def State.report (s : State) (id t code : Nat) : State :=
  s.updItem id fun i => match i.latch with
    | some (u, _) => if t < u then { i with latch := some (t, code) } else i
    | none => { i with latch := some (t, code) }

/-- A report whose time is Sheave cycle `c` of the item that a Sheave runs; at or after the EGRESS window's start it is
discarded (R118). -/
def State.reportAt (s : State) (y l c code : Nat) : State :=
  let sh := s.sheave y l
  if 5 * c < 4 * s.egressAt sh.slot then s.report sh.item (s.quarter (5 * c)) code else s

/-- The result bytes of a unit fault (R177). -/
def unitBytes (code phys kind cyc : Nat) : List Byte :=
  [BitVec.ofNat 8 code, 3, BitVec.ofNat 8 phys, BitVec.ofNat 8 kind] ++ leBytes 2 cyc ++ [0, 0]

/-- A unit fault detected in fabric cycle `cyc` marks the item, unless its EGRESS window has started (R161); the
earliest mark fills the result (R178). Answers whether it marks. -/
def State.markItem (s : State) (t : Tag) (code phys kind cyc : Nat) : Bool × State :=
  if s.tagLive t && decide (cyc < s.egressAt t.slot) then
    let time := s.frame.ticks * 2 ^ 20 + cyc
    (true, s.updItem t.item fun i => match i.ufault with
      | some (u, _) => if time < u then { i with ufault := some (time, unitBytes code phys kind cyc) } else i
      | none => { i with ufault := some (time, unitBytes code phys kind cyc) })
  else (false, s)

/-- Count a fault of physical unit `p` in its nibble of a row of registers; it saturates at 15. -/
def State.nibble (s : State) (F : Nat → Field) (p : Nat) : State :=
  let v := s.reg (F (p / 8))
  s.setReg (F (p / 8)) (setBits v (4 * (p % 8)) 4 (min 15 (bitsOf v (4 * (p % 8)) 4 + 1)))

/-- An access of the BNE or the PU to the message buffer of an item, `n` bytes at offset `a` of yard memory: the access rules check it
under the unit's initiator ID, and a refusal marks the item with unit fault ART_DENIED (R21, R435, R177). -/
def State.unitAccess (s : State) (t : Tag) (pu : Bool) (k : AccKind) (a n cyc : Nat) : Bool × State :=
  let init := if pu then 0x051 else 0x050
  let (ok, s) := if n = 0 then (true, s) else s.netAccess init none false k (0x100000000 + t.y * 0x40000 + a) n
  if ok then (true, s)
  else
    let (m, s) := s.markItem t 0x5A (init % 256) 8 cyc
    (false, if m then s.fault 1 (if pu then srcPu else srcLane) 0 0 else s)

/-- Bytes that the BNE or the PU reads of a buffer; a refused read gives zeros (R435). -/
def State.unitRead (s : State) (t : Tag) (pu : Bool) (a n cyc : Nat) : List Byte × State :=
  let (ok, s) := s.unitAccess t pu .read a n cyc
  (if ok then s.ymemRead t.y a n else List.replicate n 0, s)

/-! ### Flights -/

/-- The operation of a unit whose result time comes first; of two with one result time, the one that started first (R114). -/
def firstDue (kind : UnitKind) (logic : Nat) : List Flight → Option Flight
  | [] => none
  | f :: fs =>
    match firstDue kind logic fs with
    | none => if f.kind = kind && f.logic = logic then some f else none
    | some g => if f.kind = kind && f.logic = logic && decide (f.r ≤ g.r) then some f else some g

/-- Take the result of a unit that comes first out of the list. -/
def takeFlight (kind : UnitKind) (logic : Nat) (fs : List Flight) : Option (Flight × List Flight) :=
  (firstDue kind logic fs).map fun f => (f, fs.erase f)

/-- Write the result of a unit into yard memory in fabric cycle `r`; the values before it stay known to a Sheave that reads in the
same cycle (R92). -/
def State.unitWrite (s : State) (y a : Nat) (bs : List Byte) (r : Nat) : State :=
  let k := y * 0x40000 + a
  let t := s.frame.ticks * 2 ^ 20 + r
  { s with unitPuts := (List.range bs.length).foldl (fun m i => SMap.put none m (k + i) (some (t, SMap.get 0 s.ymem (k + i)))) s.unitPuts }.ymemWrite y a bs

/-- The buffer output of a BNE or PU operation; a refused write writes nothing (R435). -/
def State.unitPut (s : State) (f : Flight) (b : BufOut) : State :=
  let (ok, s) := s.unitAccess f.tag (f.kind == .pu) .write b.addr b.bytes.length f.r
  if ok then s.unitWrite f.tag.y b.addr b.bytes f.r else s

/-- Add an operation that has started. -/
def State.launch (s : State) (f : Flight) : State := { s with flights := s.flights ++ [f] }

/-- Change the port interface of a Sheave. -/
def State.updPort (s : State) (y l : Nat) (f : PortIf → PortIf) : State :=
  s.setSheave y l { s.sheave y l with port := f (s.sheave y l).port }

/-- Write result registers. -/
def PortIf.results (p : PortIf) (q : List (Nat × Acc)) (w : List (Nat × Word)) : PortIf :=
  { p with q := q.foldl (fun m (e : Nat × Acc) => SMap.put {} m e.1 e.2) p.q,
           w := w.foldl (fun m (e : Nat × Word) => SMap.put 0 m e.1 e.2) p.w }

/-- The port interface as a read in Sheave cycle `c` finds it: the results that are readable by then are in their registers
(R114). -/
def PortIf.seen (p : PortIf) (c : Nat) : PortIf :=
  { (p.due.filter fun e => decide (e.cyc ≤ c)).foldl (fun (p : PortIf) e => p.results e.q e.w) p with
    due := p.due.filter fun e => decide (c < e.cyc) }

/-- A result of fabric time `r` that reaches the port interface: readable from Sheave cycle ⌈0.8 × r⌉ on (R114). -/
def PortIf.result (p : PortIf) (r : Nat) (q : List (Nat × Acc)) (w : List (Nat × Word)) : PortIf :=
  { p with due := p.due ++ [{ cyc := sheaveOf r, q := q, w := w }] }

/-- A register write of an operation that issued before every write still pending: it falls due before the others of
its cycle (R109). -/
def Cpu.dueFirst (u : Cpu) (due : Nat) (w : RegWrite) : Cpu :=
  let (a, b) := u.pend.span fun p => decide (p.due < due)
  ({ u with pend := a ++ { due := due, w := w } :: b } : Cpu).land u.cyc

/-- An accepted result is given to its registers, which show it from its cycle on, and makes its reports. -/
def State.deliver (s : State) (f : Flight) : State :=
  let s := f.latch.foldl (fun s c => s.report f.tag.item (s.quarter (4 * f.r)) c) s
  let s := s.updPort f.tag.y f.tag.l fun p => p.result f.r f.q f.w
  match f.qd with
  | some (r, v) =>
    let sh := s.sheave f.tag.y f.tag.l
    s.setSheave f.tag.y f.tag.l { sh with cpu := sh.cpu.dueFirst (sheaveOf f.r) (.q r v) }
  | none => s

/-- Deliver a result, or discard it (R150). -/
def State.conclude (s : State) (f : Flight) : State := if s.accepts f.tag f.r then s.deliver f else s.stale f.tag.y

/-- A sealed zero. -/
def sealedZero : Acc := { sealed := true }

/-- The bytes of a key that an accumulator holds. -/
def Acc.keyBytes (a : Acc) : List Byte := (quadBytes a.val ++ quadBytes a.ext).take a.len

/-- A staged accumulator of a port. -/
def PortIf.acc (p : PortIf) (off : Nat) : Acc := SMap.get {} p.q off

/-- A staged word of a port. -/
def PortIf.word (p : PortIf) (off : Nat) : Nat := (SMap.get 0 p.w off).toNat

/-- `STALE_RESULT_DISCARD` : the oldest result that reaches the sequencer of yard `y` under an old generation or epoch,
or after its EGRESS window started, is discarded and counts (R150). -/
def execStaleResultDiscard (y : Fin 64) (s : State) : Result :=
  match s.flights.find? fun f => f.tag.y == y.val && !s.accepts f.tag f.r with
  | some f => .next ({ s with flights := s.flights.erase f }.stale y)
  | none => .next s

/-! ### Masks of wire rill 0 (R163) -/

/-- Masks for `n` blocks: a generate call serves 2,048 blocks. Refused, no block is computed. -/
def State.maskBlocks (s : State) (n : Nat) : Bool × State :=
  if s.rillServes 320 then
    let b := s.reg Reg.CIPHER.BLOCK_CNT_LO
    let s := s.rillCalls 320 (ceilDiv (b % 2048 + n) 2048 - ceilDiv (b % 2048) 2048)
    (true, s.inc64 Reg.CIPHER.BLOCK_CNT_LO Reg.CIPHER.BLOCK_CNT_HI n)
  else
    (false, (s.rillRefused 320).wireExhausted 320)

end Sys2Proof.Machine
end

