-- ==== Sys2Proof/Machine/CleatStore.lean ====
section
/-!
DEFINITION. The Cleat store at work: read requests (R260, R261), row failures (R263), grant bounds and checkpoints (R277,
R281), writes and their guard (R266 to R275), vault records (R280).
-/
set_option autoImplicit false

namespace Sys2Proof.Machine

/-! ### Grant bounds (R260, R277, R281) -/

/-- The device's share of an entry's USE_LIMIT; none where there is no limit. -/
def State.share (s : State) (e : Entry) : Option Nat :=
  if e.useLimit = 0 then none
  else if s.stay.everPaired then some (if s.lowerTwin then ceilDiv e.useLimit 2 else e.useLimit / 2)
  else some e.useLimit

/-- The checkpoint of a persisted entry with a limit; before its first record it is that record's. -/
def Entry.checkpoint (e : Entry) (share : Nat) : Nat := e.ckpt.getD (min 4096 share)

/-- The grant bound, and whether it is a checkpoint below the share. -/
def State.grantBound (s : State) (e : Entry) : Option (Nat × Bool) :=
  (s.share e).map fun l => if e.persist then (min l (e.checkpoint l), decide (e.checkpoint l < l)) else (l, false)

/-! ### Vault records to be written (R280) -/

/-- Append a record. -/
def State.vaultAppend (s : State) (r : VaultRec) : State :=
  { s with cleat := { s.cleat with vaultOpen := s.cleat.vaultOpen ++ [r] } }

/-- Append the record of an entry with checkpoint `c` as its USE_COUNT (R281). -/
def State.vaultEntry (s : State) (head : Nat) (e : Entry) (c : Nat) : State :=
  s.vaultAppend (.entry head (s.rowGen head) { e with useCount := c, suspended := false, restoring := false, ckpt := none, ckptPend := none })

/-- The USE_COUNT of a record that sets a checkpoint anew: 4,096 grants beyond the count, within the grant bound; for the first
record of an entry that is the lower of 4,096 and the bound (R281). An entry without a limit has no checkpoint, and its record holds
its count. -/
def State.firstCkpt (s : State) (e : Entry) : Nat :=
  match s.share e with
  | some l => min (e.useCount + 4096) l
  | none => e.useCount

/-- A new checkpoint record falls due when USE_COUNT reaches C − 2,048 (R281). -/
def State.checkpointDue (s : State) (head : Nat) (e : Entry) : State :=
  match s.share e with
  | some l =>
    let c := e.checkpoint l
    if e.persist && e.ckptPend.isNone && c < l && c ≤ e.useCount + 2048 then
      let n := min (e.useCount + 4096) l
      (s.setEntry head (some { e with ckptPend := some n })).vaultEntry head e n
    else s
  | none => s

/-! ### Row failures (R263) -/

/-- The physical row behind a logical row is retired and a spare takes its place; F2, and the dependent F3 where no spare
row remains. -/
def State.retireRow (s : State) (r : Nat) : State :=
  let p := s.physRow r
  let s := s.fault 2 srcRow 0 p
  if 4096 ≤ s.cleat.retiredRows.length || s.rowSpares = 0 then
    let s := { s with cleat := { s.cleat with phys := SMap.put 0 s.cleat.phys r (voidRow + 1) } }
    s.exhausted { kind := 7, yard := 0, unit := p }
  else
    let n := s.nextSpare
    let s := { s with cleat := { s.cleat with phys := SMap.put 0 s.cleat.phys r (n + 1), sparesUsed := s.cleat.sparesUsed + 1 } }
    let s := { s with cleat := { s.cleat with retiredRows := s.cleat.retiredRows ++ [p], retDue := true } }
    let s := (s.inc Reg.SPARES.RETIRE_CNT).raise pgSpares 0
    if s.rowSpares < 256 then s.raise pgCleat 1 else s

/-- A logical row fails its CHECK: counted, the row retired, its entry suspended from the next guard. -/
def State.rowFail (s : State) (row : Nat) : State :=
  let s := (s.inc Reg.CLEAT0.CHECK_FAIL_CNT).inc (Reg.CVU.FIX_MM 2)
  let s := (s.setReg Reg.CLEAT0.LAST_BAD_ROW row).setReg Reg.CLEAT0.LAST_BAD_FRAME s.frame32
  let s := (s.setBit Reg.CLEAT0.RESTORED false).raise pgCleat 2
  let s := match s.headOf row with
    | some h => match s.entry h with
      | some e => s.setEntry h (some { e with restoring := true })
      | none => s
    | none => s
  s.retireRow row

/-! ### Requests (R260) -/

/-- The outcome of a read request. -/
inductive ReadOut where
  | absent
  | usage
  | check
  | granted (head : Nat) (e : Entry)

/-- Whether a USE value is satisfied (R259). -/
def Entry.allows (e : Entry) (use : Nat) : Bool := use == 7 || (decide (use ≤ 5) && bitOf e.usage use)

/-- A refusal with KEY_USAGE counts. -/
def State.usageRefused (s : State) : State := s.inc Reg.CLEAT0.USAGE_CNT

/-- A grant counts, except for USE 7. -/
def State.grant (s : State) (r : Nat) (e : Entry) (use : Nat) : ReadOut × State :=
  let s := s.inc64 Reg.CLEAT0.GRANT_CNT_LO Reg.CLEAT0.GRANT_CNT_HI 1
  if use = 7 then (.granted r e, s)
  else
    let e' := { e with useCount := min (2 ^ 32 - 1) (e.useCount + 1) }
    (.granted r e', (s.setEntry r (some e')).checkpointDue r e')

/-- A request of an item of partition `p` for USE `use`, checked in the order of R260; `bad` is the row of the entry that fails its
CHECK, `form` the form check. -/
def State.cleatRead (s : State) (p handle use : Nat) (bad : Option Nat) (form : Entry → Bool) : ReadOut × State :=
  match s.named handle with
  | none => (.absent, s.inc Reg.CLEAT0.ABSENT_CNT)
  | some (r, e) =>
    if e.part ≠ p || e.system || !s.cleat.ready || (s.part p).st == .exported then (.absent, s.inc Reg.CLEAT0.ABSENT_CNT)
    else if bad.isSome then (.check, s.rowFail (r + bad.getD 0 % e.rows))
    else if (e.notAfter ≠ 0 && e.notAfter < s.frame.no) || !e.allows use || !form e then (.usage, s.usageRefused)
    else
      match s.grantBound e with
      | some (b, ck) =>
        if b ≤ e.useCount then
          let s := s.usageRefused
          if e.persist && ck then
            let first (x : VaultRec) : Bool := x.head == r && x.isEntry
            let s := { s with cleat := { s.cleat with vaultOpen := s.cleat.vaultOpen.filter first ++ s.cleat.vaultOpen.filter (!first ·) } }
            (.usage, (s.inc Reg.CLEAT0.CKPT_STALL_CNT).raise pgCleat 5)
          else (.usage, s)
        else s.grant r e use
      | none => s.grant r e use

/-- The status that a refusal latches. -/
def ReadOut.status : ReadOut → List Nat
  | .absent => [stKeyAbsent]
  | .usage => [stKeyUsage]
  | .check => []
  | .granted _ _ => []

/-! ### Allocation (R258, R269, R274) -/

/-- The rows that the device may allocate: first and count. -/
def State.allocRange (s : State) : Nat × Nat :=
  match s.stayId with
  | none => (0, 131072)
  | some _ => if s.lowerTwin then (0, 65536) else (65536, 65536)

/-- Rows of entries and of pending creates: head and count. -/
def State.takenRuns (s : State) : List (Nat × Nat) :=
  (s.cleat.ents.filterMap fun x => x.2.map fun e => (x.1, e.rows)) ++ s.cleat.pending.filterMap fun w => match w.op with
    | .create e => some (w.head, e.rows)
    | _ => none

/-- A logical row that is free and not void. A row whose entry the vault may still restore is not free before the reload that
decides it (R256, R282). -/
def rowFree (s : State) (runs : List (Nat × Nat)) (r : Nat) : Bool :=
  !(runs.any fun x => decide (x.1 ≤ r) && decide (r < x.1 + x.2)) && SMap.get 0 s.cleat.phys r != voidRow + 1
    && !s.cleat.lostRows.contains r

/-- The first run of `n` rows from `r` on of which each satisfies `p`, within `fuel` rows. -/
def findRun (p : Nat → Bool) (n : Nat) : Nat → Nat → Nat → Option Nat
  | 0, _, _ => none
  | fuel + 1, r, got =>
    if p r then if got + 1 = n then some (r + 1 - n) else findRun p n fuel (r + 1) (got + 1)
    else findRun p n fuel (r + 1) 0

/-- The free row that has been free for the longest time; of rows free since the store started, the lowest
(notes/assumptions/24.md). -/
def State.oldestFree (s : State) (runs : List (Nat × Nat)) (lo n : Nat) : Option Nat :=
  match findRun (fun r => rowFree s runs r && SMap.get 0 s.cleat.freeAge r = 0) 1 n lo 0 with
  | some r => some r
  | none =>
    (s.cleat.freeAge.foldl (fun (best : Option (Nat × Nat)) x =>
      if lo ≤ x.1 && x.1 < lo + n && rowFree s runs x.1 then
        match best with
        | some b => if x.2 < b.2 then some x else best
        | none => some x
      else best) none).map Prod.fst

/-- The head row of a new entry of `n` rows. -/
def State.allocate (s : State) (n : Nat) : Option Nat :=
  let (lo, len) := s.allocRange
  let runs := s.takenRuns
  if n = 1 then s.oldestFree runs lo len else findRun (rowFree s runs) n len lo 0

/-! ### Accepting writes (R267, R268) -/

/-- Rows pending in the frame. -/
def State.pendingRows (s : State) : Nat := (s.cleat.pending.map CleatWrite.rows).foldl (· + ·) 0

/-- The entry is of partition `p`: a SYSTEM entry is Naris's (Table 8.3). -/
def Entry.ofPart (e : Entry) (p : Nat) : Bool := e.part == p && !e.system

/-- Rows in use by a partition's entries, those pending creation counted. -/
def State.partRows (s : State) (p : Nat) : Nat :=
  (s.cleat.ents.map fun x => match x.2 with
    | some e => if e.ofPart p then e.rows else 0
    | none => 0).foldl (· + ·) 0
  + (s.cleat.pending.map fun w => match w.op with
    | .create e => if e.ofPart p then e.rows else 0
    | _ => 0).foldl (· + ·) 0

/-- A write to the entry is pending. -/
def State.writePending (s : State) (head : Nat) : Bool := s.cleat.pending.any fun w => w.head == head

/-- Add a pending write. -/
def State.pushWrite (s : State) (w : CleatWrite) : State := { s with cleat := { s.cleat with pending := s.cleat.pending ++ [w] } }

/-- The write record of a mirrored write (R395). -/
def State.mirrorBytes (s : State) (w : CleatWrite) : List Byte :=
  let hdr (op rows : Nat) : List Byte :=
    [BitVec.ofNat 8 op, BitVec.ofNat 8 rows, 0, 0] ++ leBytes 4 (s.handleOf w.head) ++ leBytes 6 s.frame.no ++ [0, 0]
  match w.op with
  | .create e => hdr 1 e.rows ++ (List.range e.rows).flatMap fun i => e.rowImage w.head (s.rowGen w.head) 0 i
  | .delete => hdr 2 0
  | .restrict u l n =>
    match s.entry w.head with
    | some e =>
      let e : Entry := { e with usage := u, useLimit := l, notAfter := n }
      hdr 3 1 ++ e.rowImage w.head (s.rowGen w.head) 0 0
    | none => hdr 3 0

/-- A paired device sends an accepted write to its twin; the item waits for the acknowledgement (R275, R276). -/
def State.mirrorWrite (s : State) (w : CleatWrite) (item : Nat) : State :=
  if !s.paired then s
  else
    let s := s.sendMsg 4 (s.mirrorBytes w)
    let q := s.lastSeq
    let s := { s with stay := { s.stay with
      mirror := s.stay.mirror ++ [({ seq := q, item := item, head := w.head } : MirrorOut)], settled := s.stay.settled ++ [w.head] } }
    s.updItem item fun i => { i with mirrorWait := i.mirrorWait ++ [q] }

/-- An entry with another MIRROR state. -/
def Entry.mirrored (e : Entry) (m : Nat) : Entry := { e with mirror := m }

/-- KREASON of a write that has passed its checks (R268). -/
inductive Accept where
  | ok (head : Nat)
  | refused (reason : Nat)

/-- Accept the creation of an entry for partition `p`: quota, rows, room in the frame. -/
def State.acceptCreate (s : State) (e : Entry) (writer : Writer) (item : Nat) : Accept × State :=
  if (s.part e.part).cleatQuota < s.partRows e.part + e.rows && !e.system then (.refused 1, s)
  else
    match s.allocate e.rows with
    | none => (.refused 2, s)
    | some r =>
      if 256 < s.pendingRows + e.rows then (.refused 3, s)
      else
        let w : CleatWrite := { head := r, rows := e.rows, op := .create (e.mirrored (if s.paired then 2 else 0)), writer := writer }
        (.ok r, (s.pushWrite w).mirrorWrite w item)

/-- Accept a delete or restrict of the entry at `head`. -/
def State.acceptChange (s : State) (head rows : Nat) (op : CleatOp) (writer : Writer) (item : Nat) : Accept × State :=
  if 256 < s.pendingRows + rows then (.refused 3, s)
  else if s.writePending head then (.refused 4, s)
  else
    let w : CleatWrite := { head := head, rows := rows, op := op, writer := writer }
    (.ok head, (s.pushWrite w).mirrorWrite w item)

/-- A restriction's new limit or NOT_AFTER: it never widens (R267). -/
def narrow (old new : Nat) : Nat := if new ≠ 0 ∧ (old = 0 ∨ new < old) then new else old

/-- What a restriction with a template's values makes of an entry: USAGE, USE_LIMIT, NOT_AFTER. -/
def Entry.restricted (e : Entry) (usage limit na : Nat) : CleatOp :=
  .restrict (e.usage &&& usage) (narrow e.useLimit limit) (narrow e.notAfter na)

/-! ### KSTORE at its result time (R266 to R270) -/

/-- The template's fields: an entry without owner, rows and counts (R267). -/
def tmplEntry (t : List Byte) : Entry :=
  let f (o n : Nat) : Nat := leNat (cut t o n)
  { alg := f 0 1, klen := f 1 1, usage := f 2 1, exportF := f 4 1, persist := bitOf (f 6 1) 0, kbits := f 8 2, pubexp := f 10 4,
    tr31 := cut t 16 16, useLimit := f 0x24 4, notAfter := f 0x28 6 }

/-- A template that R267 and R586 accept. -/
def tmplOk (s : State) (e : Entry) : Bool :=
  decide (e.exportF ≤ 2) && algAgree e.alg e.klen e.kbits e.pubexp && e.usage != 0
    && (e.usage &&& usagePermitted e.alg) == e.usage && (!e.persist || s.reg Reg.CLEAT0.VAULT_STATE == 2)

/-- The entry that a create mode makes of a template and material. -/
def makeEntry (t : Entry) (part : Nat) (mat : List Byte) : Entry :=
  let (rows, packed) := rowsFor mat.length
  { t with part := part, material := mat, rows := rows, packed := packed }

/-- The outcome of a KSTORE: result code, and the 8 B output where the code is OK. -/
def State.kstore (s : State) (q : KReq) (part item : Nat) : Nat × List Byte × State :=
  let answer (h : Nat) (k : Nat) : List Byte := leBytes 4 h ++ leBytes 4 k
  let target := match s.named q.handle with
    | some (r, e) => if e.ofPart part then some (r, e) else none
    | none => none
  let t := tmplEntry q.tmpl
  let finish (a : Accept) (s : State) (h : Nat → Nat) : Nat × List Byte × State := match a with
    | .ok r => (0, answer (h r) 0, s)
    | .refused k => (0, answer 0 k, s)
  if (q.mode = 2 || q.mode = 5 || q.mode = 6) && target.isNone then (stKeyAbsent, [], s)
  else
    match q.mode, target with
    | 5, some (r, e) =>
      let (a, s) := s.acceptChange r e.rows .delete (.rig item) item
      finish a s fun _ => q.handle
    | 6, some (r, e) =>
      let (a, s) := s.acceptChange r 1 (e.restricted t.usage t.useLimit t.notAfter) (.rig item) item
      finish a s fun _ => q.handle
    | _, _ =>
      let wrap := match target with
        | some (_, e) => q.mode ≠ 2 || bitOf e.usage 6
        | none => true
      if !q.ok || !tmplOk s t || !wrap || (!q.rng && weakTdes t.alg q.mat) then (stKeyUsage, [], s)
      else if q.rng then (stRngHealth, [], s)
      else
        let (a, s) := s.acceptCreate (makeEntry t part q.mat) (.rig item) item
        finish a s fun r => s.handleOf r

/-! ### The guard (R263, R271, R272) -/

/-- Free the rows of an entry: their generations advance. -/
def CleatSt.freeRows (c : CleatSt) (head n : Nat) : CleatSt :=
  let c := { c with freeSeq := c.freeSeq + 1 }
  (List.range n).foldl (fun c i =>
    let g := SMap.get 0 c.gens (head + i) + 1
    { c.setGen (head + i) (nextGen g) with freeAge := SMap.put 0 c.freeAge (head + i) c.freeSeq }) c

/-- Delete an entry; a tombstone for a PERSIST entry. -/
def State.removeEntry (s : State) (head : Nat) : State :=
  match s.entry head with
  | none => s
  | some e =>
    let g := s.rowGen head
    let s := s.setEntry head none
    let s := { s with cleat := s.cleat.freeRows head e.rows }
    if e.persist then s.vaultAppend (.tomb head g) else s

/-- Write an entry in effect at its rows, at a generation. -/
def State.placeEntry (s : State) (head gen : Nat) (e : Entry) : State :=
  let c := (List.range e.rows).foldl (fun c i => { CleatSt.setGen c (head + i) gen with freeAge := SMap.del c.freeAge (head + i) }) s.cleat
  { s with cleat := { c with ents := SMap.put none c.ents head (some e) } }

/-- The checkpoint of the record that a restriction writes: the one that stands or is under way, within the new bound, and a first one
where the entry had no limit before (R281). -/
def State.restrictCkpt (s : State) (e : Entry) : Nat :=
  match s.share e with
  | some l => min ((e.ckptPend <|> e.ckpt).getD (s.firstCkpt e)) l
  | none => e.useCount

/-- Apply one write. -/
def State.applyWrite (s : State) (w : CleatWrite) : State :=
  match w.op with
  | .create e =>
    let s := s.placeEntry w.head (w.gen.getD (s.rowGen w.head)) e
    if e.persist then s.vaultEntry w.head e (s.firstCkpt e) else s
  | .delete =>
    let s := s.removeEntry w.head
    match w.gen with
    | some g => { s with cleat := (List.range w.rows).foldl (fun c i => CleatSt.setGen c (w.head + i) g) s.cleat }
    | none => s
  | .restrict u l n =>
    match s.entry w.head with
    | none => s
    | some e =>
      let e := { e with usage := u, useLimit := l, notAfter := n }
      if !e.persist then s.setEntry w.head (some e)
      else
        let c := s.restrictCkpt e
        (s.setEntry w.head (some { e with ckptPend := if l = 0 then none else some c })).vaultEntry w.head e c

/-- The rank of a writer at the guard. -/
def Writer.rank : Writer → Nat
  | .rig _ => 0 | .twin => 1 | .manager => 2 | .naris => 3 | .guardReset => 4

/-- An entry that cannot be restored is deleted as a DELETE deletes it, and so on the twin too (R263, R275). -/
def State.loseEntry (s : State) (head : Nat) (e : Entry) : State :=
  let s := s.mirrorWrite { head := head, rows := e.rows, op := .delete, writer := .naris } 0
  (s.removeEntry head).raise pgCleat 3

/-- The suspensions of R263 at the guard: a failed entry is suspended for its restore, or deleted; a restored one
serves again. -/
def State.suspendGuard (s : State) (head : Nat) (e : Entry) : State :=
  if e.restoring && !e.suspended then
    if e.persist && e.vaulted then s.setEntry head (some { e with suspended := true })
    else s.loseEntry head e
  else if e.suspended && !e.restoring then
    (s.setEntry head (some { e with suspended := false })).setBit Reg.CLEAT0.RESTORED true
  else s

/-- A manager command that waited for its guard is done (R285). -/
def State.cleatCmdDone (s : State) : State :=
  let s := { s with cleat := { s.cleat with cmd := none } }
  let s := ((s.setBit Reg.CLEAT1.BUSY false).setBit Reg.CLEAT1.DONE true).setDetail pgCleat1 4 false
  s.raise pgCleat1 0

/-- The Cleat store's guard. -/
def State.cleatGuard (s : State) : State :=
  let ws := s.cleat.pending
  let ordered := (List.range 5).flatMap fun k => ws.filter fun w => w.writer.rank == k
  let s := { s with cleat := { s.cleat with pending := [] } }
  let s := ordered.foldl State.applyWrite s
  let s := s.cleat.ents.foldl (fun s x => match x.2 with
    | some e => s.suspendGuard x.1 e
    | none => s) s
  match s.cleat.cmd with
  | some (op, _) => if op = 2 || op = 3 then s.cleatCmdDone else s
  | none => s

end Sys2Proof.Machine
end

