-- ==== Sys2Proof/Machine/Cleat.lean ====
section
/-!
DEFINITION. The commands of the Cleat store: QKEY (R117, R260, R261), scrub and restore (R263, R264), manager commands (R283,
R285), the vault (R280 to R282).
-/
set_option autoImplicit false

namespace Sys2Proof.Machine

/-! ### QKEY -/

/-- The key algorithm of an ALG code that QKEY loads. -/
def keyAlg (alg : Nat) : KAlg := if 1 ≤ alg ∧ alg ≤ 3 then .aes else if alg = 4 ∨ alg = 5 then .tdes else if alg = 8 then .hmac else .none

/-- A single-row AES, TDES or HMAC key; an HMAC key by USE 2 only (Table 8.2). -/
def qkeyForm (use : Nat) (e : Entry) : Bool := keyAlg e.alg != .none && (e.alg != 8 || use == 2)

/-- The accumulator that a granted QKEY fills. -/
def keyAcc (e : Entry) (use : Nat) : Acc :=
  { val := bytesQuad e.material, ext := bytesQuad (e.material.drop 16), sealed := true, key := true, alg := keyAlg e.alg,
    len := e.klen, usage := some use }

/-- `QKEY` : reserves the Cleat read port for 60 fabric cycles; the outcome follows at QKEY_RESULT. -/
def execQkey (x : XHdr) (qd : Fin 4) (dh : Fin 16) (use : BitVec 4) (s : State) : Result :=
  issueX x (fun s => notNaris' x.ex s && decide (use.toNat ≤ 4)) 1 (fun s u =>
    match x.ex with
    | .naris => .ok s [] none
    | .sheave y l =>
      let tag := s.tagOf y l
      let a := fabricOf u.cyc
      if !s.window tag.slot 5 0 1 a (a + 60) then .fault 0x06
      else .ok (s.launch {
        kind := .cleat, logic := 0, tag := tag, start := a, stop := a + 60, r := a + 60, qd := some (qd, {}),
        args := [(u.dr dh).toNat, use.toNat] }) [] none) s
where
  /-- Naris is refused (R124). -/
  notNaris' (ex : Exec) (_ : State) : Bool := !isNaris ex

/-- A row check failure during a request marks the item (R263). -/
def State.markRow (s : State) (t : Tag) (r : Nat) : State :=
  let (m, s) := s.markItem t 0x58 0 5 r
  if m then s.fault 1 srcRow 0 0 else s

/-- `QKEY_RESULT` : the oldest QKEY ends with its grant or refusal. -/
def execQkeyResult (bad : Bool) (s : State) : Result :=
  match takeFlight .cleat 0 s.flights with
  | none => .next s
  | some (f, rest) =>
    let s := { s with flights := rest }
    let handle := f.args.headD 0
    let use := f.args.getD 1 0
    let (o, s) := s.cleatRead f.tag.part handle use (if bad then some 0 else none) (qkeyForm use)
    let s := match o with
      | .check => s.markRow f.tag f.r
      | _ => s
    let (acc, info) : Acc × Nat := match o with
      | .granted _ e => (keyAcc e use, e.usage * 2 ^ 16 + e.klen * 2 ^ 8 + e.alg)
      | _ => ({ sealed := true, key := true }, 0)
    .next (s.conclude { f with
      qd := f.qd.map fun q => (q.1, acc), w := [(0x50000, BitVec.ofNat 32 info)], latch := o.status })

/-! ### Scrub and restore -/

/-- `SCRUB_ROW` : one row of the pass is read and checked (R264). -/
def execScrubRow (bad : Bool) (s : State) : Result :=
  if !s.bit Reg.CLEAT0.SCRUB_EN || !s.cleat.ready then .next s
  else
    let r := s.cleat.scrubPos
    let s := if bad then s.rowFail r else s
    let s := if r + 1 = 131072 then s.inc Reg.CLEAT0.SCRUB_PASS_CNT else s
    .next { s with cleat := { s.cleat with scrubPos := (r + 1) % 131072 } }

/-- An entry with a limit that the vault has restored gets a new record at once where its checkpoint lies below its share
(R281). -/
def State.reloadCkpt (s : State) (head : Nat) : State :=
  match s.entry head with
  | some e => s.checkpointDue head e
  | none => s

/-- Initiator 0x052 reads or writes vault sectors in banks 2 and 3 (R21, Table 14.3). -/
def State.vaultAccess (s : State) (k : AccKind) (i n : Nat) : Bool × State :=
  s.netAccess 0x052 none (k == .write) k (0x80000000 + vaultAddr i) (4096 * n)

/-- `ROW_RESTORE` : Naris restores a suspended entry from its latest vault record, with the counters of the checkpoint;
it serves again from the next guard (R263). Without a record the entry is deleted. While a bank of the vault is under program or
erase its records cannot be read, and nothing is done yet (R452). -/
def execRowRestore (row : Fin 131072) (s : State) : Result :=
  match s.headOf row, s.cleat.vaultKey with
  | some h, some key =>
    match s.entry h with
    | some e =>
      if !(e.suspended && e.restoring) || s.vaultTaken then .next s
      else
        let (k, s) := s.draw
        match latestRec (s.vaultScan key (randBytes k 16)).1 h with
        | some (_, .entry _ _ v) =>
          let s := s.setEntry h (some { v with vaulted := true, mirror := e.mirror, suspended := true, ckpt := some v.useCount })
          .next (s.reloadCkpt h)
        | _ => .next (s.loseEntry h e)
    | none => .next s
  | _, _ => .next s

/-! ### Manager commands (R283, R285) -/

/-- The answer of a manager command that ends at once. -/
def State.cleatAnswer (s : State) (result kreason : Nat) : State :=
  let s := (s.setReg Reg.CLEAT1.RESULT result).setReg Reg.CLEAT1.KREASON kreason
  (s.setBit Reg.CLEAT1.DONE true).raise pgCleat1 0

/-- A manager command is accepted and waits. -/
def State.cleatBusy (s : State) (op : Nat) : State :=
  let s := { s with cleat := { s.cleat with cmd := some (op, s.reg Reg.CLEAT1.CMD_HANDLE) } }
  let s := (s.setReg Reg.CLEAT1.RESULT 0).setReg Reg.CLEAT1.KREASON 0
  ((s.setBit Reg.CLEAT1.BUSY true).setBit Reg.CLEAT1.DONE false).setDetail pgCleat1 4 true

/-- A write of CMD_OP: refused while a command runs or the store is not enabled. -/
def cleatCommand (s : State) (f : State → State) : Result :=
  if s.cleat.cmd.isSome then .next (s.refuse pgCleat1 0x50)
  else if !(s.hd pgCleat).enable then .next (s.refuse pgCleat1 0x51)
  else .next (f s)

/-- `INSPECT` : ATTR and COUNTERS of any entry, never its material. -/
def execInspect (s : State) : Result :=
  cleatCommand s fun s =>
    match s.named (s.reg Reg.CLEAT1.CMD_HANDLE) with
    | none => s.cleatAnswer stKeyAbsent 0
    | some (r, e) =>
      let at' := e.attr (s.rowGen r)
      let cn := e.counters e.useCount
      let s := (List.range 8).foldl (fun s i => s.setReg (Reg.CLEAT1.ATTR i) (leNat (cut at' (4 * i) 4))) s
      let s := (List.range 4).foldl (fun s i => s.setReg (Reg.CLEAT1.CNT i) (leNat (cut cn (4 * i) 4))) s
      (s.setReg Reg.CLEAT1.PHYS_ROW (s.physRow r)).cleatAnswer 0 0

/-- A change that the manager asks for: it waits for the guard. -/
def managerChange (op : Nat) (f : Entry → Nat × CleatOp) (s : State) : State :=
  match s.named (s.reg Reg.CLEAT1.CMD_HANDLE) with
  | none => s.cleatAnswer stKeyAbsent 0
  | some (r, e) =>
    if e.system then s.cleatAnswer stKeyAbsent 0
    else
      match s.acceptChange r (f e).1 (f e).2 .manager 0 with
      | (.ok _, s) => s.cleatBusy op
      | (.refused k, s) => s.cleatAnswer 0 k

/-- `CLEAT_DELETE` : deletes any partition's entry at the next guard. -/
def execCleatDelete (s : State) : Result := cleatCommand s (managerChange 2 fun e => (e.rows, .delete))

/-- `CLEAT_RESTRICT` : narrows an entry from the RESTRICT registers. -/
def execCleatRestrict (s : State) : Result :=
  let na := s.reg Reg.CLEAT1.RESTRICT_NA_LO + 2 ^ 32 * s.reg Reg.CLEAT1.RESTRICT_NA_HI
  cleatCommand s (managerChange 3 fun e => (1, e.restricted (s.reg Reg.CLEAT1.RESTRICT_USAGE) (s.reg Reg.CLEAT1.RESTRICT_LIMIT) na))

/-- Nothing waits for the vault. -/
def State.vaultIdle (s : State) : Bool := s.cleat.vaultOpen.isEmpty && s.cleat.vaultProg.isNone

/-- `FLUSH` : every partly filled sector is to be programmed at once; done when nothing waits any more. -/
def execFlush (s : State) : Result :=
  cleatCommand s fun s => if s.vaultIdle then s.cleatAnswer 0 0 else s.cleatBusy 4

/-! ### The vault -/

/-- A record of a scanned sector is live: it is the latest of its head row, and where it is a tombstone another sector
still holds a record that it drops. -/
def liveRec (scan : List (Nat × Nat × List VaultRec)) (seq : Nat) (r : VaultRec) : Bool :=
  match latestRec scan r.head with
  | some (q, l) => q == seq && l == r && (r.isEntry || scan.any fun x => x.2.1 != seq && x.2.2.any fun z => z.head == r.head)
  | none => false

/-- The live records of a sector. -/
def liveOf (scan : List (Nat × Nat × List VaultRec)) (i : Nat) : List VaultRec :=
  (scan.filter fun x => x.1 == i).flatMap fun x => x.2.2.filter (liveRec scan x.2.1)

/-- Vault sectors that hold no live record, in turn from the next (notes/assumptions/25.md). -/
def State.deadSectors (s : State) (scan : List (Nat × Nat × List VaultRec)) : List Nat :=
  ((List.range vaultSectors).map fun k => (s.cleat.vaultNext + k) % vaultSectors).filter fun i => (liveOf scan i).isEmpty

/-- Bytes of records. -/
def recsLen (rs : List VaultRec) : Nat := (rs.map fun r => r.bytes.length).foldl (· + ·) 0

/-- The sector whose live records take the fewest bytes. -/
def leastLive (scan : List (Nat × Nat × List VaultRec)) : List VaultRec :=
  ((scan.map fun x => liveOf scan x.1).mergeSort fun a b => decide (recsLen a ≤ recsLen b)).headD []

/-- The next vault sector and the records that it takes: those that wait, and, where it is the last one without a live record,
before them the live records of the sector that holds the fewest bytes of them, which is thereby free (R279, R280,
notes/assumptions/25.md). -/
def State.nextVault (s : State) (scan : List (Nat × Nat × List VaultRec)) : Nat × List VaultRec × List VaultRec :=
  match s.deadSectors scan with
  | [] => (s.cleat.vaultNext, sectorFill sectorRoom s.cleat.vaultOpen)
  | [i] =>
    let old := leastLive scan
    let (recs, rest) := sectorFill (sectorRoom - recsLen old) s.cleat.vaultOpen
    (i, old ++ recs, rest)
  | i :: _ => (i, sectorFill sectorRoom s.cleat.vaultOpen)

/-- `VAULT_SECTOR_PROGRAM` : Naris starts to program the records that wait into the next vault sector (R280); it waits for a flash
operation that runs. Until the read-back some of the units stand in the array, the last one, which ends the tag, not among them: a
reset or a wipe that comes first leaves a sector without its tag (R462, notes/assumptions/83.md). -/
def execVaultSectorProgram (s : State) : Result :=
  match s.cleat.vaultKey with
  | none => .next s
  | some key =>
    if s.cleat.vaultProg.isSome || s.cleat.vaultOpen.isEmpty || s.flash.op.isSome then .next s
    else
      let (i, recs, rest) := s.nextVault (s.vaultScan key []).1
      match s.vaultAccess .write i 1 with
      | (false, s) => .next s
      | (true, s) =>
        let fa := vaultAddr i
        let (k, s) := s.draw
        let (d, s) := s.draw
        let seq := s.cleat.vaultSeq + 1
        let img := sectorBytes key (randBytes k 12) seq recs
        let n := Config.freeNat d % 256
        let s := s.rewrite (fa / 0x800000) (s.sector (fa / 0x800000) (fa % 0x800000 / 4096))
        let s := s.flashProgram fa (img.take (16 * n))
        .next ({ s with cleat := { s.cleat with
          vaultOpen := rest, vaultProg := some (i, recs), vaultImg := img, vaultDone := n, vaultSeq := seq } }.setDetail pgCleat 5 true)

/-- A record has been read back: its entry is VAULTED, and the checkpoint of an entry with a limit stands. -/
def State.vaulted (s : State) (r : VaultRec) : State :=
  match r with
  | .tomb _ _ => s
  | .entry h g v =>
    match s.entry h with
    | some e =>
      if s.rowGen h ≠ g then s
      else s.setEntry h (some { e with
        vaulted := true, ckpt := if v.useLimit = 0 then none else some v.useCount,
        ckptPend := if e.ckptPend = some v.useCount then none else e.ckptPend })
    | none => s

/-- The units of the sector that are still to be programmed. -/
def State.vaultRest (s : State) (i : Nat) : State :=
  let n := 16 * s.cleat.vaultDone
  let s := s.flashProgram (vaultAddr i + n) (s.cleat.vaultImg.drop n)
  { s with cleat := { s.cleat with vaultProg := none, vaultImg := [], vaultDone := 0 } }

/-- `VAULT_READBACK` : the sector is programmed and reads back, or it is remapped to a spare and its records wait again (R280); with no
spare left it reads as failed. -/
def execVaultReadback (ok : Bool) (s : State) : Result :=
  match s.cleat.vaultProg with
  | none => .next s
  | some (i, recs) =>
    let s := (s.vaultRest i).setDetail pgCleat 5 false
    if ok then
      let s := recs.foldl State.vaulted s
      let s := { s with cleat := { s.cleat with vaultNext := (i + 1) % vaultSectors } }
      match s.cleat.cmd with
      | some (4, _) => .next (if s.vaultIdle then s.cleatCmdDone else s)
      | _ => .next s
    else
      let live := recs.filter fun r => !s.cleat.vaultOpen.contains r
      let s := { s with cleat := { s.cleat with vaultOpen := live ++ s.cleat.vaultOpen } }
      let bank := vaultAddr i / 0x800000
      let s := { s with flash := { s.flash with dead := SMap.put false s.flash.dead (s.flashKey (vaultAddr i) / 16) true } }
      match s.freeSpare bank with
      | some j =>
        let sec := vaultAddr i % 0x800000 / 4096
        let s := { s with flash := { s.flash with remap := s.flash.remap.toSpare bank sec j } }
        .next ((s.optChange fun o => { o with remap := o.remap.toSpare bank sec j }).showRemap)
      | none => .next { s with cleat := { s.cleat with vaultNext := (i + 1) % vaultSectors } }

/-- SYSTEM entries alone are loaded in MAINTENANCE and CEREMONY (notes/assumptions/26.md). -/
def State.systemOnly (s : State) : Bool := s.mode == .maintenance || s.mode == .ceremony

/-- The rows of a wipe that no restored entry covers take a new generation (R256). -/
def State.advanceLost (s : State) : State :=
  let lost := s.cleat.lostRows.filter fun r => (s.headOf r).isNone
  let c := lost.foldl (fun c r => CleatSt.setGen c r (nextGen (SMap.get 0 c.gens r + 1))) s.cleat
  { s with cleat := { c with lostRows := [] } }

/-- Logical rows of vault records. -/
def recRows (rs : List (Nat × Nat × Entry)) : List Nat := rs.flatMap fun x => (List.range x.2.2.rows).map (x.1 + ·)

/-- `VAULT_RELOAD` : the latest record of each head row is restored with its generation, checkpoint and MIRROR state
(R282). A vault engine that fails its inverse check releases nothing, and the reload has FAILED until Naris starts it again (R278,
notes/assumptions/83.md). It waits while a bank of the vault is under program or erase (R452). -/
def execVaultReload (s : State) : Result :=
  match s.cleat.vaultKey with
  | none => .next s
  | some key =>
    if s.reg Reg.CLEAT0.VAULT_STATE ≠ 1 && s.reg Reg.CLEAT0.VAULT_STATE ≠ 3 then .next s
    else if s.vaultTaken then .next s
    else
      let (k, s) := s.draw
      if !Config.vaultEngineOk k then .next ((s.setReg Reg.CLEAT0.VAULT_STATE 3).setDetail pgCleat 4 false) else
      match s.vaultAccess .read 0 vaultSectors with
      | (false, s) => .next s
      | (true, s) =>
        match s.rillDraw 322 with
        | (none, s) => .next s
        | (some mk, s) =>
          let (k, s) := s.draw
          let (us, s) := s.draw
          let (scan, bad) := s.vaultScan key (randBytes k 16)
          let heads := ((scan.flatMap fun x => x.2.2.map VaultRec.head).mergeSort fun a b => decide (a ≤ b)).eraseDups
          let recs := heads.filterMap fun h => match latestRec scan h with
            | some (_, .entry _ g e) => some (h, g, e)
            | _ => none
          let (kept, left) := recs.partition fun x => x.2.2.system || !s.systemOnly
          let s := { s with cleat := { s.cleat with maskKey := some mk } }
          let s := kept.foldl (fun s x => s.placeEntry x.1 x.2.1 { x.2.2 with
            vaulted := true, ckpt := if x.2.2.useLimit = 0 then none else some x.2.2.useCount }) s
          let top := scan.foldl (fun (b : Nat × Nat) x => if b.1 < x.2.1 then (x.2.1, x.1 + 1) else b) (0, 0)
          let s := { s with cleat := { s.cleat with ready := true, vaultSeq := top.1, vaultNext := top.2 % vaultSectors } }
          let s := if s.systemOnly then { s with cleat := { s.cleat with lostRows := (s.cleat.lostRows ++ recRows left).eraseDups } } else s.advanceLost
          let s := (s.setReg Reg.CLEAT0.VAULT_STATE 2).setReg Reg.CLEAT0.VAULT_SECT_BAD bad
          let s := s.setReg Reg.CLEAT0.RELOAD_US (Config.freeNat us)
          let s := (List.range bad).foldl (fun s _ => (s.raise pgCleat 4).fault 0 srcRow) s
          let s := ((s.setOn pgCleat true).setOn pgCleat1 true).setDetail pgCleat 4 false
          .next ((kept.foldl (fun s x => s.reloadCkpt x.1) s).bootStage 8 |>.raise pgCleat 0).changeEnd

/-- The SYSTEM entries in effect, in ascending rows. -/
def State.sysEntries (s : State) : List (Nat × Entry) :=
  s.cleat.ents.filterMap fun x => match x.2 with
    | some e => if e.system && !e.suspended then some (x.1, e) else none
    | none => none

end Sys2Proof.Machine
end

