-- ==== Sys2Proof/Machine/RigImage.lean ====
section
/-!
DEFINITION. The rig image: its layout (R38 to R44) and the checks of Table 2.10 in their order (R46), with the byte
offset that ERR_INFO holds. Where several fields fail one check, the offset is the lowest of the first group that fails
(notes/assumptions/12.md).
-/
set_option autoImplicit false

namespace Sys2Proof.Machine

/-- A little-endian field of an image. -/
def fld (img : List Byte) (off n : Nat) : Nat := leNat (cut img off n)

/-- A directory entry in use (Table 2.4), with its own offset. -/
structure DirEnt where
  at'   : Nat
  typ   : Nat
  count : Nat
  off   : Nat
  len   : Nat

/-- The eight directory entries. -/
def rigDir (img : List Byte) : List DirEnt :=
  (List.range 8).map fun i =>
    let a := 0x40 + 16 * i
    { at' := a, typ := fld img a 1, count := fld img (a + 2) 2, off := fld img (a + 4) 4, len := fld img (a + 8) 4 }

/-- The entry of a section type. -/
def rigSec (img : List Byte) (t : Nat) : Option DirEnt := (rigDir img).find? fun d => d.typ == t

/-- The bytes of a section; empty where the image has none. -/
def rigBytes (img : List Byte) (t : Nat) : List Byte :=
  match rigSec img t with
  | some d => cut img d.off d.len
  | none => []

/-- Offset of a section in the image. -/
def rigOff (img : List Byte) (t : Nat) : Nat := ((rigSec img t).map DirEnt.off).getD 0

/-! ### Check 1 -/

/-- The first offset at which a byte of a range is not zero. -/
def firstNonzero (img : List Byte) (a n : Nat) : Option Nat :=
  ((List.range n).find? fun i => (img.getD (a + i) 0) != 0).map (a + ·)

/-- What R39 asks of one directory entry, without overlaps. -/
def dirBad (img : List Byte) (imgLen : Nat) (d : DirEnt) : Option Nat :=
  if d.typ = 0 then firstNonzero img d.at' 16
  else if 7 < d.typ || 1 < ((rigDir img).filter fun e => e.typ == d.typ).length then some d.at'
  else if d.off % 64 ≠ 0 || d.off < 0x100 then some (d.at' + 4)
  else if imgLen - 2420 < d.off + d.len then some (d.at' + 8)
  else if d.typ = 1 && d.len ≠ 65536 then some (d.at' + 8)
  else if d.typ = 1 && d.count ≠ 4096 then some (d.at' + 2)
  else if d.typ = 2 && (d.len % 8 ≠ 0 || d.len < 8 || 2097152 < d.len) then some (d.at' + 8)
  else if d.typ = 2 && d.count ≠ d.len / 8 % 65536 then some (d.at' + 2)
  else if d.typ = 3 && d.len ≠ 8192 then some (d.at' + 8)
  else if d.typ = 3 && d.count ≠ 256 then some (d.at' + 2)
  else none

/-- Two ranges of bytes overlap. -/
def rangesMeet (a n b m : Nat) : Bool := decide (a < b + m) && decide (b < a + n)

/-- Check 1: the offset of the field that fails it. DESIGN CHOICE (notes/assumptions/67.md): where a required section is missing the
offset is that of the directory. -/
def rigCheck1 (img : List Byte) (imgLen : Nat) : Option Nat :=
  if fld img 0 4 ≠ 0x4752584F then some 0
  else if fld img 4 2 ≠ 1 then some 4
  else if fld img 6 2 ≠ 0x100 then some 6
  else if imgLen < 0x100 + 2420 || 0x400000 < imgLen then some 8
  else
    let ds := rigDir img
    match ds.findSome? (dirBad img imgLen) with
    | some a => some a
    | none =>
      if !([1, 2, 3, 4] : List Nat).all (fun t => ds.any fun d => d.typ == t) then some 0x40
      else
        (ds.find? fun d => d.typ != 0 && ds.any fun e => e.typ != 0 && e.at' < d.at' && rangesMeet d.off d.len e.off e.len).map
          fun d => d.at' + 4

/-! ### Parsing -/

/-- A class table entry with its present bit (Table 2.6). -/
def classOfBytes (b : List Byte) : Bool × ClassEnt :=
  let f := fld b 1 1
  (bitOf f 7, {
    carry := bitOf f 0, input := bitOf f 1, output := bitOf f 2, carryLimit := fld b 2 1, defDeadline := fld b 3 1,
    entry := fld b 4 2, bufLen := fld b 6 2, maxIn := fld b 8 4, maxOut := fld b 12 4, cycles := fld b 16 4, service := fld b 20 4 })

/-- A reservation record (Table 2.8). -/
def resvOfBytes (b : List Byte) : Resv :=
  let d0 := fld b 0 4
  let d1 := fld b 4 4
  { kind := bitsOf d1 0 4, first := bitsOf d1 16 8, countM1 := bitsOf d1 24 5, start := bitsOf d0 0 16, stop := bitsOf d0 16 16 }

/-- A slot map entry as its bytes give it: valid, entry without records, index and count of its records (Table 2.7). -/
def slotOfBytes (b : List Byte) : Bool × SlotEnt × Nat × Nat :=
  let d0 := fld b 0 4
  let d1 := fld b 4 4
  let d2 := fld b 8 4
  let d3 := fld b 12 4
  (bitOf d0 31, {
    lsheave := bitsOf d0 8 4, cls := bitsOf d0 0 8, start := bitsOf d1 0 16, stop := bitsOf d1 16 16,
    bufA := bitsOf d2 0 12, bufB := bitsOf d2 12 12, resv := [] }, bitsOf d3 0 24, bitsOf d3 24 8)

/-- The code images of SHEAVE_CODE, after its index: the images and whether the walk ends at the section's end. DESIGN CHOICE
(notes/assumptions/67.md): a zero length ends the walk, and bytes that are zero may follow the last image. -/
def walkImages : Nat → List Byte → List (List Byte) × Bool
  | 0, bs => ([], bs.isEmpty)
  | n + 1, bs =>
    if bs.length < 4 then ([], bs.all (· == 0))
    else
      let l := fld bs 0 4
      if l = 0 || l % 4 ≠ 0 || 0x4000 < l || bs.length < 4 + l then ([], bs.all (· == 0))
      else
        let (r, ok) := walkImages n (bs.drop (4 + l))
        (cut bs 4 l :: r, ok)

/-- The records of TABLES: destination word, data, offset of the record in the section. The walk ends as that of the code images
(DESIGN CHOICE, notes/assumptions/67.md). -/
def walkTables : Nat → Nat → List Byte → List (Nat × TableRec) × Bool
  | 0, _, bs => ([], bs.isEmpty)
  | n + 1, a, bs =>
    if bs.length < 8 then ([], bs.all (· == 0))
    else
      let w := fld bs 0 4
      let l := fld bs 4 4
      let p := (l + 3) / 4 * 4
      if l = 0 || bs.length < 8 + p then ([], bs.all (· == 0))
      else
        let (r, ok) := walkTables n (a + 8 + p) (bs.drop (8 + p))
        ((a, { kind := bitsOf w 28 4, yard := bitsOf w 22 6, off := bitsOf w 0 20, data := cut bs 8 l }) :: r, ok)

/-- Everything that an image gives, parsed. -/
structure RigParse where
  rig     : Rig
  classes : List (Bool × ClassEnt)
  slots   : List (Bool × SlotEnt × Nat × Nat)
  records : List Resv
  index   : List Nat
  tables  : List (Nat × TableRec)
  codeOk  : Bool
  tabOk   : Bool

/-- A sparse table of the present elements of a list. -/
def smapOf {α : Type} : Nat → List (Bool × α) → SMap (Option α)
  | _, [] => []
  | k, (b, v) :: r => if b then (k, some v) :: smapOf (k + 1) r else smapOf (k + 1) r

/-- Parse an image whose check 1 passes; `h` is its hash. -/
def rigParse (img h : List Byte) : RigParse :=
  let classes := (blocks 32 (rigBytes img 3)).map classOfBytes
  let records := (blocks 8 (rigBytes img 2)).map resvOfBytes
  let slots := (blocks 16 (rigBytes img 1)).map slotOfBytes
  let code := rigBytes img 4
  let index := (blocks 4 (code.take 4096)).map leNat
  let (images, wok) := walkImages (code.length / 4) (code.drop 4096)
  let cok := wok && decide (4096 ≤ code.length)
  let (tables, tok) := walkTables ((rigBytes img 7).length / 4) 0 (rigBytes img 7)
  let full := slots.map fun (e : Bool × SlotEnt × Nat × Nat) => (e.1, { e.2.1 with resv := (records.drop e.2.2.1).take e.2.2.2 })
  { rig := {
      frameLen := fld img 0xF 1, rigId := fld img 0x10 8, version := fld img 0x18 4, hash := h, loadFrames := fld img 0x1E 1,
      slots := smapOf 0 full, classes := smapOf 0 classes,
      imageOf := (index.zip (List.range index.length)).filterMap fun e => if e.1 < images.length then some (e.2, e.1 + 1) else none,
      images := images, tables := tables.map Prod.snd,
      bneMicro := Config.microprograms 5 (rigBytes img 5), puMicro := Config.microprograms 6 (rigBytes img 6) },
    classes := classes, slots := slots, records := records, index := index, tables := tables, codeOk := cok, tabOk := tok }

/-! ### Check 7 -/

/-- The offset of the first nonzero reserved bit, in ascending sections (R46). -/
def rigReserved (img : List Byte) : Option Nat :=
  let dir := (List.range 8).findSome? fun i => (firstNonzero img (0x41 + 16 * i) 1).orElse fun _ => firstNonzero img (0x4C + 16 * i) 4
  let hdr := if 2 ≤ fld img 0x1F 1 then some 0x1F else none
  let bitByte (b : List Byte) (base : Nat) (masks : List (Nat × Nat)) : Option Nat :=
    (masks.find? fun m => (b.getD m.1 0).toNat &&& m.2 != 0).map fun m => base + m.1
  let rows (t n : Nat) (masks : List (Nat × Nat)) : Option Nat :=
    let bs := blocks n (rigBytes img t)
    (bs.zip (List.range bs.length)).findSome? fun e => bitByte e.1 (rigOff img t + n * e.2) masks
  let cls := rows 3 32 ([(1, 0x78), (0x16, 0xFF), (0x17, 0x7F)] ++ (List.range 8).map fun i => (0x18 + i, 0xFF))
  let slots := rows 1 16 [(1, 0xF0), (2, 0xFF), (3, 0x7F), (11, 0xFF)]
  let recs := rows 2 8 [(4, 0xF0), (5, 0xFF), (7, 0xE0)]
  hdr.orElse fun _ => dir.orElse fun _ => (firstNonzero img 0xC0 64).orElse fun _ =>
    cls.orElse fun _ => slots.orElse fun _ => recs

/-- Units of a resource kind (Table 2.9), and whether a record may name several. -/
def kindUnits (k : Nat) : Nat :=
  match k with
  | 0 => 32 | 1 => 64 | 2 => 32 | 3 => 32 | 4 => 16 | 5 => 1 | 6 => 4 | _ => 0

/-- A record keeps Table 2.9. -/
def Resv.inTable (r : Resv) : Bool :=
  decide (r.kind ≤ 6) && decide (r.first + r.countM1 < kindUnits r.kind) && (r.kind == 3 || r.kind == 4 || r.countM1 == 0)

/-- Offset of the class table entry `c`. -/
def classAt (img : List Byte) (c : Nat) : Nat := rigOff img 3 + 32 * c

/-- A class entry that breaks R40. -/
def classBad (img : List Byte) (c : Nat) (e : Bool × ClassEnt) : Option Nat :=
  let a := classAt img c
  let k := e.2
  if fld img a 1 ≠ c then some a
  else if !e.1 then firstNonzero img (a + 1) 31
  else if (k.carry && (k.carryLimit < 1 || 4 < k.carryLimit)) || (!k.carry && k.carryLimit ≠ 0) then some (a + 2)
  else if k.defDeadline = 0 then some (a + 3)
  else if k.entry % 4 ≠ 0 then some (a + 4)
  else if k.bufLen = 0 || 4096 < k.bufLen then some (a + 6)
  else if k.bufLen * 64 < k.maxIn + k.maxOut then some (a + 12)
  else if bitOf k.service 31 && k.bufLen * 64 < k.maxIn + k.maxOut + 128 then some (a + 6)
  else none

/-- A valid slot that breaks R41 to R44. -/
def slotBad (img : List Byte) (p : RigParse) (n : Nat) (e : Bool × SlotEnt × Nat × Nat) : Option Nat :=
  if !e.1 then none
  else
    let a := rigOff img 1 + 16 * n
    let v := e.2.1
    match SMap.get none p.rig.classes v.cls with
    | none => some a
    | some c =>
      let im := ((p.rig.images)[p.index.getD (n / 64 * 16 + v.lsheave) 0xFFFFFFFF]?)
      let rs := (p.records.drop e.2.2.1).take e.2.2.2
      let rAt (i : Nat) := rigOff img 2 + 8 * (e.2.2.1 + i)
      let eg := rs.filter fun r => r.kind == 6
      let egStart := (eg.head?.map Resv.start).getD 0
      if v.start < 100 || v.stop ≤ v.start || frameCycles p.rig.frameLen < v.stop then some (a + 4)
      else if 0x40000 < 64 * (v.bufA + c.bufLen) || 0x40000 < 64 * (v.bufB + c.bufLen) then some (a + 8)
      else if e.2.2.2 < 1 || 64 < e.2.2.2 then some (a + 15)
      else if p.records.length < e.2.2.1 + e.2.2.2 then some (a + 12)
      else
        match (rs.zip (List.range rs.length)).find? fun (x : Resv × Nat) =>
            x.1.stop ≤ x.1.start || x.1.start < v.start || v.stop < x.1.stop || (x.1.kind != 6 && egStart < x.1.stop) with
        | some x => some (rAt x.2)
        | none =>
          if eg.length ≠ 1 || (eg.head?.map Resv.stop) ≠ some v.stop then some (a + 12)
          else
            match im with
            | none => some (rigOff img 4 + 4 * (n / 64 * 16 + v.lsheave))
            | some code => if code.length ≤ c.entry then some (classAt img v.cls + 4) else none

/-- The destination of a TABLES record lies in its memory. Reserved bits of the destination word are ignored (R11): the list of R46
does not name this section. -/
def tableBad (img : List Byte) (e : Nat × TableRec) : Option Nat :=
  let a := rigOff img 7 + e.1
  let lim := if e.2.kind = 2 then 0x8000 else 0x40000
  if 2 < e.2.kind then some a
  else if lim < e.2.off + e.2.data.length then some a else none

/-- The valid slots with their numbers. -/
def RigParse.valid (p : RigParse) : List (Nat × SlotEnt) :=
  p.rig.slots.filterMap fun (e : Nat × Option SlotEnt) => e.2.map fun v => (e.1, v)

/-- A slot runs a carry class. -/
def RigParse.carries (p : RigParse) (v : SlotEnt) : Bool := ((SMap.get none p.rig.classes v.cls).map ClassEnt.carry).getD false

/-- A carry-class slot whose logical Sheave runs another slot (check 7), or one of whose PU clusters another slot
reserves (R239). -/
def carryBad (img : List Byte) (p : RigParse) : Option Nat :=
  let vs := p.valid
  (vs.find? fun e => p.carries e.2 && vs.any fun x => x.1 ≠ e.1 &&
    ((x.1 / 64 == e.1 / 64 && x.2.lsheave == e.2.lsheave)
      || e.2.resv.any fun r => r.kind == 4 && x.2.resv.any fun q => q.kind == 4 && rangesMeet r.first (r.countM1 + 1) q.first (q.countM1 + 1))).map
    fun e => rigOff img 1 + 16 * e.1

/-- More than 256 valid slots run audited classes (R318): the offset of the 257th. -/
def auditBad (img : List Byte) (p : RigParse) : Option Nat :=
  ((p.valid.filter fun e => bitOf ((SMap.get none p.rig.classes e.2.cls).map ClassEnt.service |>.getD 0) 31)[256]?).map
    fun e => rigOff img 1 + 16 * e.1

/-- An element with its place in a list. -/
def indexed {α : Type} (l : List α) : List (Nat × α) := (List.range l.length).zip l

/-- An index word of SHEAVE_CODE that is neither the number of an image nor 0xFFFF_FFFF. -/
def indexBad (img : List Byte) (p : RigParse) : Option Nat :=
  ((indexed p.index).find? fun e => decide (p.rig.images.length ≤ e.2) && e.2 != 0xFFFFFFFF).map fun e => rigOff img 4 + 4 * e.1

/-- Check 7: the offset at which it fails. -/
def rigCheck7 (img : List Byte) (p : RigParse) : Option Nat :=
  (rigReserved img).orElse fun _ =>
  if 2 < p.rig.frameLen then some 0xF
  else if fld img 0x1C 2 ≠ (p.classes.filter Prod.fst).length || fld img 0x1C 2 = 0 then some 0x1C
  else if p.rig.loadFrames = 0 then some 0x1E
  else
    let countOf (t n : Nat) (ok : Bool) : Option Nat := match rigSec img t with
      | some d => if !ok || d.count ≠ n % 65536 then some (d.at' + 2) else none
      | none => none
    (countOf 4 p.rig.images.length p.codeOk).orElse fun _ => (countOf 5 p.rig.bneMicro.length true).orElse fun _ =>
    (countOf 6 p.rig.puMicro.length true).orElse fun _ => (countOf 7 p.tables.length p.tabOk).orElse fun _ =>
    (indexBad img p).orElse fun _ =>
    ((indexed p.classes).findSome? fun e => classBad img e.1 e.2).orElse fun _ =>
    ((indexed p.records).findSome? fun e => if e.2.inTable then none else some (rigOff img 2 + 8 * e.1)).orElse fun _ =>
    ((indexed p.slots).findSome? fun e => slotBad img p e.1 e.2).orElse fun _ =>
    (p.tables.findSome? (tableBad img)).orElse fun _ => (carryBad img p).orElse fun _ => auditBad img p

/-! ### Check 8 -/

/-- Windows of one unit overlap, slots of one logical Sheave overlap, or buffers of one yard overlap each other or a
TABLES destination: the lowest offset of a slot entry or record concerned. -/
def rigCheck8 (img : List Byte) (p : RigParse) : Option Nat :=
  let vs := p.valid
  let recs := vs.flatMap fun e => (indexed e.2.resv).map fun r => (rigOff img 2 + 8 * ((p.slots.getD e.1 (false, e.2, 0, 0)).2.2.1 + r.1), e.1, r.1, r.2)
  let win := recs.filter fun x => recs.any fun z => (z.2.1 ≠ x.2.1 || z.2.2.1 ≠ x.2.2.1) && z.2.2.2.kind == x.2.2.2.kind
    && rangesMeet z.2.2.2.first (z.2.2.2.countM1 + 1) x.2.2.2.first (x.2.2.2.countM1 + 1)
    && rangesMeet z.2.2.2.start (z.2.2.2.stop - z.2.2.2.start) x.2.2.2.start (x.2.2.2.stop - x.2.2.2.start)
  let bufs := vs.flatMap fun e =>
    let n := 64 * ((SMap.get none p.rig.classes e.2.cls).map ClassEnt.bufLen |>.getD 0)
    [(e.1, 0, 64 * e.2.bufA, n), (e.1, 1, 64 * e.2.bufB, n)]
  let slotHit (e : Nat × SlotEnt) : Bool := vs.any fun x => x.1 ≠ e.1 && x.1 / 64 == e.1 / 64 && x.2.lsheave == e.2.lsheave
    && rangesMeet x.2.start (x.2.stop - x.2.start) e.2.start (e.2.stop - e.2.start)
  let bufHit (b : Nat × Nat × Nat × Nat) : Bool :=
    bufs.any (fun x => (x.1 ≠ b.1 || x.2.1 ≠ b.2.1) && x.1 / 64 == b.1 / 64 && rangesMeet x.2.2.1 x.2.2.2 b.2.2.1 b.2.2.2)
      || p.tables.any fun t => (t.2.kind == 0 || (t.2.kind == 1 && t.2.yard == b.1 / 64)) && rangesMeet t.2.off t.2.data.length b.2.2.1 b.2.2.2
  let offs := win.map Prod.fst ++ (vs.filter slotHit).map (fun e => rigOff img 1 + 16 * e.1)
    ++ (bufs.filter bufHit).map fun b => rigOff img 1 + 16 * b.1 + 8
  match offs with
  | [] => none
  | a :: r => some (r.foldl min a)

/-! ### All checks (Table 2.10) -/

/-- The image hash H (R45). -/
def rigHash (img : List Byte) (imgLen : Nat) : List Byte := sha3_256 (img.take (imgLen - 2420))

/-- The checks of Table 2.10 over a rig slot's bytes: the rig, or ERR_CODE and ERR_INFO. -/
def rigCheck (slot expect : List Byte) (key : Option (List Byte)) (floor : Nat) : Except (Nat × Nat) Rig :=
  let len := fld slot 8 4
  let img := slot.take len
  match rigCheck1 slot len with
  | some a => .error (0x10, a)
  | none =>
    let h := rigHash img len
    if fld img 0xC 2 ≠ 0x1024 then .error (0x11, 0xC)
    else if fld img 0xE 1 ≠ 1 then .error (0x11, 0xE)
    else if h ≠ expect then .error (0x12, 0)
    else if (key.map sha3_256) ≠ some (cut img 0x20 32) then .error (0x13, 0x20)
    else if !mldsaVerify (key.getD []) "OXRIG" h (img.drop (len - 2420)) then .error (0x14, len - 2420)
    else if fld img 0x18 4 < floor then .error (0x15, 0x18)
    else
      let p := rigParse img h
      match rigCheck7 img p with
      | some a => .error (0x16, a)
      | none =>
        match rigCheck8 img p with
        | some a => .error (0x17, a)
        | none => .ok p.rig

end Sys2Proof.Machine
end

