-- ==== Sys2Proof/Machine/Rig.lean ====
section
/-!
DEFINITION. Staging, activating and loading a rig (R47 to R51), and what a rig loads into the Sheaves (R44, R144).
-/
set_option autoImplicit false

namespace Sys2Proof.Machine

/-! ### Reading a rig slot -/

/-- `n` entries of a table from key `a` on, in one pass; the table's keys rise from `a` on. -/
def SMap.fill (d : Byte) : Nat → Nat → SMap Byte → List Byte
  | 0, _, _ => []
  | n + 1, _, [] => d :: SMap.fill d n 0 []
  | n + 1, a, (k, v) :: m => if k = a then v :: SMap.fill d n (a + 1) m else d :: SMap.fill d n (a + 1) ((k, v) :: m)

/-- One sector as the controller reads it. -/
def State.sectorRead (s : State) (area sec : Nat) : List Byte :=
  let p := s.sector area sec
  let k := sectorKey area p
  let bs := SMap.fill 0xFF 4096 k (s.flash.mem.filter fun e => decide (k ≤ e.1) && decide (e.1 < k + 4096))
  if s.incomplete area p then List.replicate 4096 0
  else if s.flash.dead.any fun e => e.1 / 256 == k / 4096 then
    (blocks 16 bs).zip (List.range 256) |>.flatMap fun e => if SMap.get false s.flash.dead (k / 16 + e.2) then List.replicate 16 0 else e.1
  else bs

/-- Flash byte address of a rig slot. -/
def rigSlotAddr (src : Nat) : Nat := src * 0x800000 + 0x400000

/-- The bytes of a rig slot that an image with the header there can need: the header alone where it is no rig header. -/
def State.rigSlotBytes (s : State) (src : Nat) : List Byte :=
  let h := s.sectorRead src 1024
  let len := fld h 8 4
  if fld h 0 4 ≠ 0x4752584F || 0x400000 < len then h
  else (List.range (ceilDiv len 4096)).flatMap fun i => s.sectorRead src (1024 + i)

/-- The enrolled rig-signing key: the SYSTEM entry of ALG 0x41 with TR31_HDR "OXRIGKEY". -/
def State.rigKey (s : State) : Option (List Byte) :=
  (s.sysEntries.find? fun e => e.2.alg == 0x41 && e.2.tr31.take 8 == ascii "OXRIGKEY").map fun e => e.2.material

/-- The checks of Table 2.10 on rig slot `src` against an expected hash. -/
def State.checkSlot (s : State) (src : Nat) (expect : List Byte) : Except (Nat × Nat) Rig :=
  rigCheck (s.rigSlotBytes src) expect s.rigKey s.flash.opt.rigFloor

/-! ### Staging and activating -/

/-- STAGE_HASH. -/
def State.stageHash (s : State) : List Byte := (List.range 8).flatMap fun i => leBytes 4 (s.reg (Reg.FRAME.STAGE_HASH i))

/-- `STAGE` : Naris starts to check a rig slot (R47). -/
def execStage (src : Fin 2) (s : State) : Result :=
  if s.mode ≠ .maintenance then .next (s.refuse pgFrame 0x18)
  else
    let r := match s.checkSlot src s.stageHash with
      | .ok r => (some r, 0, 0)
      | .error e => (none, e.1, e.2)
    .next ({ s with rig := { s.rig with staging := some (src.val, r.1, r.2.1, r.2.2), staged := none } }.setReg Reg.FRAME.STAGE_STATE 1)

/-- `RIG_STAGE_DONE` : staging ends with STAGED or FAILED (R46, R47); STAGE_SRC names the slot of a staged rig. -/
def execRigStageDone (s : State) : Result :=
  match s.rig.staging with
  | none => .next s
  | some (src, some r, _, _) =>
    let s := { s with rig := { s.rig with staging := none, staged := some (src, r) } }
    let s := (s.setReg Reg.FRAME.STAGE_STATE 2).setReg Reg.FRAME.STAGE_SRC src
    .next ((s.setReg Reg.FRAME.STAGE_LOAD_FRAMES r.loadFrames).raise pgFrame 1)
  | some (_, none, code, info) =>
    let s := { s with rig := { s.rig with staging := none } }
    let s := s.setReg Reg.FRAME.STAGE_STATE 3
    .next ((s.refuse pgFrame code info).raise pgFrame 2)

/-- `ACTIVATE` : the staged slot becomes the active one in the next option generation; the previous active slot is kept
as the fallback (R48). -/
def execActivate (_src : Fin 2) (s : State) : Result :=
  match s.rig.staged with
  | some (slot, r) =>
    if s.mode ≠ .maintenance then .next (s.refuse pgFrame 0x19)
    else .next (s.optChange fun o => { o with
      rigActive := slot, rigActiveHash := r.hash, rigFallback := o.rigActive, rigFallbackHash := o.rigActiveHash })
  | none => .next (s.refuse pgFrame 0x19)

/-- A program or erase of a staged rig slot returns STAGE_STATE to NONE (R48): `n` bytes of a bank from `off` on, of which some lie
in the slot. DESIGN CHOICE (notes/assumptions/70.md): a slot whose staging runs is given up in the same way, without an interrupt,
and a REMAP of one of its sectors counts as a program. -/
def State.spoilStage (s : State) (area off n : Nat) : State :=
  let hit (src : Nat) : Bool := src == area && decide (0x400000 < off + n)
  if (s.rig.staged.any fun e => hit e.1) || (s.rig.staging.any fun e => hit e.1) then
    { s with rig := { s.rig with staged := none, staging := none } }.setReg Reg.FRAME.STAGE_STATE 0
  else s

/-! ### Loading (R49, R50, R398) -/

/-- No rig loads: MAINTENANCE with no rig. During boot BOOT_HOLD names the case; after a mode change MAINTENANCE is
re-entered, or entered, by another change (R49, R481, Table 16.2). -/
def State.noRig (s : State) : State :=
  let s := { s with rig := { s.rig with due := false } }
  if !s.glob.booted then
    { s with glob := { s.glob with mode := .maintenance } }.setReg Reg.GLOBAL.BOOT_HOLD 4
  else
    let c : Change := { target := .maintenance, cause := .device, orderly := false, failed := true }
    ({ s with glob := { s.glob with change := some c } }.setDetail pgGlobal 4 true).setBit Reg.GLOBAL.CHANGING true

/-- A load starts; a paired twin is told of it with a proposal (R398). -/
def State.startLoad (s : State) (src : Nat) (r : Rig) (fallback : Bool) : State :=
  let s := { s with rig := { s.rig with due := false, loading := some (src, r) } }
  let s := if fallback then s.setBit Reg.GLOBAL.RIG_FALLBACK_USED true else s
  if s.paired then
    let take := s.frame.no + r.loadFrames + 1
    let s := s.sendMsg 6 (r.hash ++ leBytes 8 take)
    let s := { s with stay := { s.stay with rigOwn := some take } }
    match s.stay.rigProposal with
    | some (h, t) =>
      if h = r.hash then
        let m := max (max take t) (s.reg Reg.FRAME.TAKE_FRAME_LO + 2 ^ 32 * s.reg Reg.FRAME.TAKE_FRAME_HI)
        let s := { s with stay := { s.stay with rigProposal := some (h, m) } }
        (s.setReg Reg.FRAME.TAKE_FRAME_LO m).setReg Reg.FRAME.TAKE_FRAME_HI (m / 2 ^ 32)
      else s
    | none => s
  else s

/-- The rig loader may start: after the tests and the last yard rill, and after the reload (R49, R418, Table 16.4). -/
def State.rigMayLoad (s : State) : Bool :=
  s.rig.due && s.glob.katRun && ((List.range 64).all fun y => (s.rill (yardRill y)).seeded) && s.reg Reg.CLEAT0.VAULT_STATE != 1

/-- A failed load records the first check that failed in ERR_CODE and ERR_INFO of the FRAME page (R46). A slot that the
boot configuration does not name has no image to check. -/
def State.loadFailed (s : State) (slot : Nat) (h : List Byte) : State :=
  if 2 ≤ slot then s
  else match s.checkSlot slot h with
    | .ok _ => s
    | .error e => s.refuse pgFrame e.1 e.2

/-- The rig of a slot of the boot configuration, if it passes every check. -/
def State.loadable (s : State) (slot : Nat) (h : List Byte) : Option Rig :=
  if 2 ≤ slot then none else (s.checkSlot slot h).toOption

/-- `RIG_LOAD` : the active slot under its recorded hash, then the fallback; ERR_CODE keeps the failure of the active slot
(R46, R49). -/
def execRigLoad (s : State) : Result :=
  if !s.rigMayLoad then .next s
  else
    let o := s.flash.opt
    match s.loadable o.rigActive o.rigActiveHash with
    | some r => .next (s.startLoad o.rigActive r false)
    | none =>
      let t := s.loadFailed o.rigActive o.rigActiveHash
      match s.loadable o.rigFallback o.rigFallbackHash with
      | some r => .next (t.startLoad o.rigFallback r true)
      | none => .next t.noRig

/-! ### What a rig loads -/

/-- The code image of a logical Sheave. -/
def Rig.image (r : Rig) (y l : Nat) : List Byte :=
  match SMap.get 0 r.imageOf (shKey y l) with
  | 0 => []
  | n => r.images.getD (n - 1) []

/-- Write a physical Sheave's RAMs from a rig: the code image, the TABLES records of kind 2, zero elsewhere (R44, R144). -/
def State.fillSheave (s : State) (r : Rig) (y l p : Nat) : State :=
  let b := ramBase y p
  let iram := SMap.putRun 0 (SMap.clear s.iram b 0x8000) b (r.image y l)
  let dram := r.tables.foldl (fun m t => if t.kind = 2 then SMap.putRun 0 m (b + t.off) t.data else m) (SMap.clear s.dram b 0x8000)
  { s with iram := iram, dram := dram }

/-- Write the TABLES records of kinds 0 and 1 into yard memory. -/
def State.fillYards (s : State) (r : Rig) : State :=
  { s with ymem := r.tables.foldl (fun m t =>
      if t.kind = 0 then (List.range 64).foldl (fun m y => SMap.putRun 0 m (y * 0x40000 + t.off) t.data) m
      else if t.kind = 1 then SMap.putRun 0 m (t.yard * 0x40000 + t.off) t.data else m) s.ymem }

/-- Load the microprograms of the engine and of the polynomial unit (R44). -/
def State.fillMicro (s : State) (r : Rig) : State :=
  { s with bne := { s.bne with micro := r.bneMicro }, pu := { s.pu with micro := r.puMicro } }

/-- Every logical Sheave that is not void, as yard and number. -/
def State.liveSheaves (s : State) : List (Nat × Nat × Nat) :=
  (List.range 1024).filterMap fun k => ((s.yard (k / 16)).phys (k % 16)).map fun p => (k / 16, k % 16, p)

/-- Every yard block is ON once its slot entries are loaded (R151). -/
def State.yardsOn (s : State) : State := (List.range 64).foldl (fun s y => s.setOn (pgYard y) true) s

/-- `RIG_LOAD_DONE` : the Sheaves and the yards hold the rig; it waits for its guard (R50). During boot the Stay link is
enabled next (Table 16.4). -/
def execRigLoadDone (s : State) : Result :=
  match s.rig.loading with
  | none => .next s
  | some (src, r) =>
    let s := s.liveSheaves.foldl (fun s e => s.fillSheave r e.1 e.2.1 e.2.2) s
    let s := (s.fillYards r).fillMicro r
    let s := { s with rig := { s.rig with loading := none, ready := some (src, r) } }.yardsOn.bootStage 9
    .next (if s.glob.booted then s.stayTrains.changeEnd else s.stayBoot)

/-- TAKE_FRAME. -/
def State.takeFrame (s : State) : Nat := s.reg Reg.FRAME.TAKE_FRAME_LO + 2 ^ 32 * s.reg Reg.FRAME.TAKE_FRAME_HI

/-- A loaded rig takes effect at the guard of TAKE_FRAME, or at the first one after its load (R50). A preload of a Sheave
swap restarts from it (R144). -/
def State.rigGuard (s : State) : State :=
  match s.rig.ready with
  | none => s
  | some (src, r) =>
    if s.frame.no < s.takeFrame then s
    else
      let s := { s with rig := { s.rig with eff := some r, effSrc := src, ready := none }, frame := { s.frame with len := r.frameLen, stepped := true } }
      let s := { s with yards := s.yards.map fun (e : Nat × Yard) => (e.1, { e.2 with swap := { e.2.swap with preloaded := false } }) }
      (s.setDetail pgFrame 4 true).raise pgFrame 4

end Sys2Proof.Machine
end

