-- ==== Sys2Proof/Machine/Yards.lean ====
section
/-!
DEFINITION. Aging, swap requests and what they do at a guard (R131, R138 to R149), in yards and in pools.
-/
set_option autoImplicit false

namespace Sys2Proof.Machine

/-! ### Wear (R138, R139) -/

/-- The MARGIN field of a physical Sheave. -/
def marginField (y p : Nat) : Field := if p < 16 then Reg.YARD.MARGIN y p else Reg.YARD.MARGIN16 y

/-- The last measurement of a physical Sheave lies below WEAR_THRESHOLD. -/
def State.worn (s : State) (y p : Nat) : Bool := decide (s.reg (marginField y p) < s.reg (Reg.YARD.WEAR_THRESHOLD y))

/-- What Naris does at a wear finding on the physical Sheave of logical `l` (R139). -/
def State.wearAct (s : State) (y l p : Nat) : State :=
  let v := s.yard y
  if !s.bit Reg.SPARES.AUTO_SPARE || v.swap.pending then s
  else match v.spare with
    | none => s.raise (pgYard y) 1
    | some t => if s.worn y t then s.raise (pgYard y) 1 else s.requestSheave y l p 2 true true

/-- The turn of a yard's aging monitor is at a physical Sheave (R138): each 1,024 ticks after a measurement it goes to the next of the
17. DESIGN CHOICE (notes/assumptions/76.md): the first measurement after reset may fall on any tick and any Sheave. -/
def State.agingTurn (s : State) (y p : Nat) : Bool :=
  match (s.yard y).aging with
  | none => true
  | some (t, q) => decide (t < s.frame.ticks) && (s.frame.ticks - t) % 1024 == 0 && p == (q + (s.frame.ticks - t) / 1024) % 17

/-- `AGING_MEASURE` : the margin of the Sheave in turn is measured; the second in a row below the threshold is a wear finding. -/
def execAgingMeasure (y : Fin 64) (p : Fin 17) (ps : Fin 1023) (s : State) : Result :=
  if !s.agingTurn y p then .next s
  else
    let before := s.worn y p
    let s := s.setYard y { s.yard y with aging := some (s.frame.ticks, p) }
    let s := s.setReg (marginField y p) ps
    match (s.yard y).logicalOf p with
    | none => .next s
    | some l =>
      if before && s.worn y p then
        let s := s.setReg (Reg.YARD.WEAR_FLAGS y) (orBit (s.reg (Reg.YARD.WEAR_FLAGS y)) p)
        .next ((s.raise (pgYard y) 0).wearAct y l p)
      else .next s

/-! ### Requests of the manager (R140, R142) -/

/-- `SWAP` : SWAP_CMD with OP SWAP. -/
def execSwap (y : Fin 64) (l : Fin 16) (retire : Bool) (s : State) : Result :=
  let v := s.yard y
  if v.swap.pending then .next (s.refuse (pgYard y) 0x30)
  else match v.spare, v.phys l with
    | some t, some p =>
      if s.worn y t then .next (s.refuse (pgYard y) 0x32) else .next (s.requestSheave y l p 3 false retire)
    | _, _ => .next (s.refuse (pgYard y) 0x31)

/-- `SWAP_CANCEL` : SWAP_CMD with OP CANCEL. -/
def execSwapCancel (y : Fin 64) (s : State) : Result :=
  let w := (s.yard y).swap
  if !w.pending then .next (s.refuse (pgYard y) 0x33)
  else if w.auto then .next (s.refuse (pgYard y) 0x34)
  else .next (s.setSwap y { w with pending := false, preloaded := false })

/-- `POOL_RETIRE` : POOL_CMD with OP RETIRE. A value outside Table 2.9 has no kind whose request or spare could be
judged, so it is judged first (notes/assumptions/11.md). -/
def execPoolRetire (kind : Fin 16) (unit : Fin 128) (s : State) : Result :=
  if 3 < kind.val || poolUnits kind ≤ unit.val then .next (s.refuse pgSpares 0x01)
  else
    let p := s.pool kind
    if p.swap.pending then .next (s.refuse pgSpares 0x30)
    else match p.spares, p.phys unit with
      | _ :: _, some f => .next ((s.requestPool kind unit f 3 false).showPool kind)
      | _, _ => .next (s.refuse pgSpares 0x31)

/-- `POOL_CANCEL` : POOL_CMD with OP CANCEL. -/
def execPoolCancel (kind : Fin 16) (_unit : Fin 128) (s : State) : Result :=
  if 3 < kind.val then .next (s.refuse pgSpares 0x01)
  else
    let p := s.pool kind
    if !p.swap.pending then .next (s.refuse pgSpares 0x33)
    else if p.swap.auto then .next (s.refuse pgSpares 0x34)
    else .next ((s.setPool kind { p with swap := { p.swap with pending := false, blocking := false } }).showPool kind)

/-- The rig in effect as Naris reads it again from its slot in flash, checked against the rig hash (R144). -/
def State.rigReread (s : State) (r : Rig) : Option Rig :=
  let slot := s.rigSlotBytes s.rig.effSrc
  let len := fld slot 8 4
  if len ≤ slot.length && rigHash (slot.take len) len == r.hash then some (rigParse (slot.take len) r.hash).rig else none

/-- `PRELOAD_DONE` : the incoming Sheave holds the image and the tables of the rig in effect (R144). DESIGN CHOICE
(notes/assumptions/77.md): data that fails the rig hash ends no preload; the swap stays pending. -/
def execPreloadDone (y : Fin 64) (s : State) : Result :=
  let w := (s.yard y).swap
  match s.rig.eff.bind s.rigReread with
  | some r =>
    if !w.pending || w.preloaded then .next s
    else .next ((s.fillSheave r y w.lsheave w.dst).setSwap y { w with preloaded := true })
  | none => .next s

/-! ### The guard (R131, R146 to R149) -/

/-- An item is parked in a slot that satisfies a condition. -/
def State.parkedIn (s : State) (p : Nat → SlotEnt → Bool) : Bool :=
  s.adm.items.any fun i => match i.place with
    | .parked k _ => match s.slotEnt k with
      | some e => p k e
      | none => false
    | _ => false

/-- A carried item holds logical Sheave `l` of yard `y`. -/
def State.carryHolds (s : State) (y l : Nat) : Bool := s.parkedIn fun k e => k / 64 == y && e.lsheave == l

/-- A retirement that waited for the swap before it is requested (R143). -/
def State.nextWaiting (s : State) (y : Nat) : State :=
  let v := s.yard y
  match v.swap.pending && v.swap.auto, v.waiting with
  | false, p :: rest => (s.setYard y { v with waiting := rest }).meetSheave y p
  | _, _ => s

/-- A preloaded Sheave swap takes effect: the map changes, GEN increments, the outgoing Sheave is cleared (R146 to R149);
SWAP_STAT no longer shows PENDING, PRELOADED and AUTO (Table 4.5). A swap for wear or by the manager is logged as F0 (R137). -/
def State.swapEffect (s : State) (y : Nat) : State :=
  let v := s.yard y
  let w := v.swap
  if !w.pending || !w.preloaded || s.carryHolds y w.lsheave then s
  else
    let s := s.setYard y { v with
      map := SMap.put 0 v.map w.lsheave (if w.dst = w.lsheave then 0 else w.dst + 1),
      spare := if w.retire then none else some w.frm,
      retired := if w.retire then v.retired ++ [w.frm] else v.retired,
      gen := (v.gen + 1) % 256, swap := { w with pending := false, preloaded := false, auto := false } }
    let s := s.setDetail (pgYard y) 4 false
    let s := s.setSheave y w.lsheave { s.sheave y w.lsheave with cpu := {} }
    let b := ramBase y w.frm
    let s := { s with iram := SMap.clear s.iram b 0x8000, dram := SMap.clear s.dram b 0x8000 }
    let s := (s.setReg (Reg.YARD.SWAP_FRAME y) s.frame32).raise (pgYard y) 4
    let s := if w.cause = 1 then s else s.fault 0 srcSheave y w.frm
    if w.retire then
      let s := (s.listRetired { kind := 8, yard := y, unit := w.frm }).2
      let s := (s.setDetail (pgYard y) 5 true).raise (pgYard y) 3
      (s.noteRetired 8 y w.frm w.cause).sparesLow s.noSheaveSpare
    else s

/-- A pool swap whose unit a carried item's slot reserves waits, and blocks new items of carry slots (R147). -/
def State.poolHeld (s : State) (k u : Nat) : Bool :=
  s.parkedIn fun _ e => e.resv.any fun r => r.kind == k && decide (r.first ≤ u) && decide (u ≤ r.first + r.countM1)

/-- A pool's part of the guard: a retirement that waits meets the request that stands (R143), or the swap takes effect. -/
def State.poolGuard (s : State) (k : Nat) : State :=
  let v := s.pool k
  let w := v.swap
  match w.pending && w.auto, v.waiting with
  | false, p :: rest => (s.setPool k { v with waiting := rest }).meetPool k p
  | _, _ =>
  if !w.pending then s
  else if s.poolHeld k w.lunit then (s.setPool k { v with swap := { w with blocking := true } }).refreshPool k
  else
    let s := s.setPool k { v with
      map := SMap.put 0 v.map w.lunit (if w.dst = w.lunit then 0 else w.dst + 1),
      spares := v.spares.filter (· != w.dst), retired := v.retired ++ [w.frm],
      swap := { w with pending := false, blocking := false, auto := false } }
    let s := (s.refreshPool k).raise pgSpares 1
    let s := if w.cause = 1 then s else s.fault 0 (poolSrc k) 0 w.frm
    let s := (s.listRetired { kind := k, yard := 0, unit := w.frm }).2
    (s.noteRetired k 0 w.frm w.cause).sparesLow (s.pool k).spares.isEmpty

/-- The spare maps change in fabric cycle 1 of the tick (R131). -/
def State.mapGuard (s : State) : State :=
  let s := (List.range 64).foldl (fun s y => (s.nextWaiting y).swapEffect y) s
  (List.range 4).foldl State.poolGuard s

/-- A pool swap blocks a new item in a carry slot that reserves its unit (R147). -/
def State.poolBlocks (s : State) (e : SlotEnt) : Bool :=
  e.resv.any fun r => decide (r.kind < 4) && match (s.pool r.kind).swap with
    | w => w.pending && w.blocking && decide (r.first ≤ w.lunit) && decide (w.lunit ≤ r.first + r.countM1)

/-! ### Maps at boot (R133) and void units (R492) -/

/-- The map of `n` logical units onto the physical units that are not retired, in ascending order, and the spares. -/
def bootMap (n phys : Nat) (retired : List Nat) : SMap Nat × List Nat :=
  let live := (List.range phys).filter fun p => !retired.contains p
  let m := (List.range n).foldl (fun m l => match live[l]? with
    | some p => if p = l then m else SMap.put 0 m l (p + 1)
    | none => SMap.put 0 m l voidUnit) []
  (m, live.drop n)

/-- The units of a kind and yard in a retirement list. -/
def retiredOf (l : List RetEnt) (kind yard : Nat) : List Nat :=
  l.filterMap fun e => if e.kind = kind && e.yard = yard then some e.unit else none

/-- Every spare map is built from the retirement list; every generation is 0 (R133). -/
def State.buildMaps (s : State) : State :=
  let ret := s.flash.opt.retired
  let s := (List.range 64).foldl (fun s y =>
    let (m, sp) := bootMap 16 17 (retiredOf ret 8 y)
    let s := s.setYard y { map := m, spare := sp.head?, retired := retiredOf ret 8 y }
    s.setDetail (pgYard y) 5 sp.isEmpty) s
  let s := (List.range 4).foldl (fun s k =>
    let (m, sp) := bootMap (poolUnits k) (poolPhys k) (retiredOf ret k 0)
    s.setPool k { map := m, spares := sp, retired := retiredOf ret k 0 }) s
  let s := { s with spring := { s.spring with cells := (List.range 10).foldl (fun m c =>
    if (retiredOf ret 10 0).contains c then SMap.put {} m c { retired := true } else m) s.spring.cells } }
  let s := (s.setReg Reg.SPARES.RETIRED_TOTAL ret.length).setOn pgSpares true
  let gap (m : SMap Nat) : Bool := m.any fun (x : Nat × Nat) => x.2 == voidUnit
  { s with glob := { s.glob with void := ret.filter fun e =>
      (e.kind == 8 && gap (s.yard e.yard).map) || (decide (e.kind < 4) && gap (s.pool e.kind).map) } }

/-- The void units take effect on entry to DEGRADED: the unit is retired and listed, and its logical unit has none (R492). -/
def State.voidEntry (s : State) : State :=
  s.glob.void.foldl (fun s e =>
    if e.kind = 8 then
      let v := s.yard e.yard
      match v.logicalOf e.unit with
      | some l =>
        let s := s.setYard e.yard { v with map := SMap.put 0 v.map l voidUnit, retired := v.retired ++ [e.unit] }
        let s := (s.listRetired e).2
        (s.noteRetired 8 e.yard e.unit 1).raise (pgYard e.yard) 3
      | none => s
    else if e.kind < 4 then
      let v := s.pool e.kind
      match v.logicalOf (poolUnits e.kind) e.unit with
      | some l =>
        let s := s.setPool e.kind { v with map := SMap.put 0 v.map l voidUnit, retired := v.retired ++ [e.unit] }
        ((s.listRetired e).2).noteRetired e.kind 0 e.unit 1
      | none => s
    else if e.kind = 4 then
      let s := if (SMap.get {} s.pu.clusters e.unit).void then s else (s.inc Reg.SPARES.RETIRE_CNT).raise pgSpares 0
      { s with pu := { s.pu with clusters := SMap.upd {} s.pu.clusters e.unit fun (c : Cluster) => { c with void := true } } }
    else s) s

/-- A slot whose logical Sheave or a reserved unit is void idles (R492), and one whose yard's sequencer has been retired. -/
def State.slotVoid (s : State) (slot : Nat) (e : SlotEnt) : Bool :=
  s.glob.void.contains { kind := kindSequencer, yard := slot / 64, unit := 0 } || ((s.yard (slot / 64)).phys e.lsheave).isNone || e.resv.any fun r =>
    (List.range (r.countM1 + 1)).any fun i =>
      (decide (r.kind < 4) && ((s.pool r.kind).phys (r.first + i)).isNone)
        || (r.kind == 4 && (SMap.get {} s.pu.clusters (r.first + i)).void)

end Sys2Proof.Machine
end

