-- ==== Sys2Proof/Machine/HostIo.lean ====
section
/-!
DEFINITION. Writes to host memory and their dirty record (R326, R371, R372), completion entries and interrupts (R344,
R345, R350), batches (R346), and the end of an entry.
-/
set_option autoImplicit false

namespace Sys2Proof.Machine

/-! ### Writes to the host -/

/-- Room for one more word in the dirty accumulator, the record that is being merged included (R372). -/
def State.dirtyRoom (s : State) : Bool := decide (s.parts.acc.length + s.parts.merge.length < 4096)

/-- Add a page to the record of the frame; false where the accumulator is full. -/
def State.dirtyPage (s : State) (p page : Nat) : Bool × State :=
  let v := s.part p
  if v.dirtySpan ≤ page then
    (true, (s.setPart p { v with beyond := true }).raise pgPart 3)
  else
    let same (w : DirtyWord) : Bool := w.part == p && w.inB == v.dirtyB && w.word == page / 64
    if s.parts.acc.any same then
      let acc := s.parts.acc.map fun w => if same w then { w with bits := orBit w.bits (page % 64) } else w
      (true, { s with parts := { s.parts with acc := acc } })
    else if s.dirtyRoom then
      let w : DirtyWord := { part := p, inB := v.dirtyB, word := page / 64, bits := 2 ^ (page % 64) }
      (true, { s with parts := { s.parts with acc := s.parts.acc ++ [w] } })
    else (false, s)

/-- The pages of `n` bytes at an address. -/
def pagesOf (addr n : Nat) : List Nat := (List.range ((addr + n - 1) / 4096 + 1 - addr / 4096)).map (addr / 4096 + ·)

/-- Record the pages of a write; false where one finds the accumulator full. -/
def State.dirtyPages (s : State) (p : Nat) : List Nat → Bool × State
  | [] => (true, s)
  | g :: gs =>
    let (ok, s) := s.dirtyPage p g
    if ok then State.dirtyPages s p gs else (false, s)

/-- A DMA write on behalf of a partition: recorded while its dirty logging is on, and issued; a write that finds the
accumulator full waits, and so do the later writes of logged partitions (R371, R372). `ro` marks output data, which takes
Relaxed Ordering where the host has enabled it (R327). -/
def State.hostWr (s : State) (p addr : Nat) (bs : List Byte) (ro : Bool := false) : State :=
  let v := s.part p
  let send (s : State) : State := s.emit (.hostWrite v.pasid addr bs (ro && s.host.cfg.relaxed))
  if bs.isEmpty || !s.hostUp then s
  else if !v.dirtyOn then send s
  else
    let wait (s : State) : State := { s with parts := { s.parts with waitWrites := s.parts.waitWrites ++ [.write p addr bs ro], accFull := true } }
    if !s.parts.waitWrites.isEmpty then wait s
    else
      match s.dirtyPages p (pagesOf addr bs.length) with
      | (true, s) => send s
      | (false, s) => wait s

/-- The partition on whose behalf a write or message waits. -/
def Waiting.part : Waiting → Nat
  | .write p _ _ _ => p
  | .msix p _ => p

/-- Send the message of a ring's vector, behind the writes of its partition that still wait (R351). -/
def State.ringMsix (s : State) (p v : Nat) : State :=
  if s.parts.waitWrites.any fun w => w.part == p then
    { s with parts := { s.parts with waitWrites := s.parts.waitWrites ++ [.msix p v] } }
  else s.sendMsix v

/-- Writes that waited for the accumulator proceed in order, and the messages behind them. -/
def State.dirtyDrain (s : State) : State :=
  let ws := s.parts.waitWrites
  ws.foldl (fun s w => match w with
    | .write p addr bs ro => s.hostWr p addr bs ro
    | .msix p v => s.ringMsix p v) { s with parts := { s.parts with waitWrites := [] } }

/-! ### Errors and stops -/

/-- An entry of the host error FIFO (R357). -/
def State.hostErr (s : State) (cause ring part index : Nat) : State :=
  if s.host.herr.length < 64 then
    let e : HErr := { cause := cause, ring := ring, part := part, index := index % 65536, frame := s.frame32 }
    { s with host := { s.host with herr := s.host.herr ++ [e] } }.raise pgHost 3
  else s.raise pgHost 4

/-- Entries whose reads are on their way: those of every request of the ring that is outstanding (R338, R343). -/
def Ring.reads (v : Ring) : Nat := (v.reqs.map Prod.snd).foldl (· + ·) 0

/-- A ring stops (R354): reads on their way return nothing, and their reservations are released. -/
def State.stopRing (s : State) (r cause : Nat) : State :=
  let v := s.ring r
  if v.st = .active then
    (s.setRing r { v with st := .stopped, cause := cause, reqs := [], cqRsv := v.cqRsv - v.reads }).raise pgHost 2
  else s

/-! ### Completions -/

/-- The rank of a status (Table 10.11). -/
def statusRank (st : Nat) : Nat :=
  if st = 0x00 then 0 else if st = 0x01 then 3 else if st = 0x02 then 6 else if st = 0x03 then 6 else if st = 0x04 then 2
  else if st = 0x05 then 8 else if st = 0x06 then 8 else if st = 0x0A then 4 else if st = 0x0B then 4 else if st = 0x0C then 4
  else if st = 0x0D then 7 else if st = 0x0E then 7 else if st = 0x10 then 6 else if st = 0x11 then 1 else if st = 0x12 then 6
  else if st = 0x14 then 7 else if st = 0x15 then 4 else 5

/-- A flag as a bit. -/
def flag (b : Bool) (n : Nat) : Nat := if b then 2 ^ n else 0

/-- The 32 B of a completion entry (Table 10.9). -/
def cplBytes (ring index : Nat) (phase coal : Bool) (tag : Nat) (seq : Word) (frame sqHead count : Nat) (e : Ended) : List Byte :=
  let d0 := flag phase 31 + flag coal 30 + flag e.dataWritten 29 + flag e.unmirrored 28 + flag e.carried 27 + e.status % 256 * 65536 + tag % 65536
  let b := leBytes 4 d0 ++ leBytes 4 seq.toNat ++ leBytes 4 frame ++ leBytes 4 e.outLen ++ leBytes 4 (sqHead * 65536 + count % 65536) ++ fitBytes 8 e.result
  b ++ leBytes 4 (crc32c b (ring * 65536 + index))

/-- Interrupt of a completion (R350). -/
def State.cplInt (s : State) (r : Nat) : State :=
  let v := s.ring r
  match v.imode with
  | 1 => s.ringMsix v.part v.vector
  | 2 => s.setRing r { v with fresh := true }
  | 3 =>
    if v.icount ≤ v.since + 1 then (s.setRing r { v with fresh := true, since := 0 }).ringMsix v.part v.vector
    else s.setRing r { v with fresh := true, since := v.since + 1 }
  | _ => s

/-- The record of an open batch is discarded: its items write no completion, and those that have ended release their
reservations (R354, R436). -/
def Ring.killOpen (v : Ring) : Ring :=
  let opn (b : Batch) : Bool := !b.closed && !b.dead
  let ended := ((v.batches.filter opn).map fun b => (b.ents.filter fun x => x.done.isSome).length).foldl (· + ·) 0
  let kill (b : Batch) : Batch := if opn b then { b with dead := true, ents := b.ents.filter fun x => x.done.isNone } else b
  { v with cqRsv := v.cqRsv - ended, batches := (v.batches.map kill).filter fun b => !b.ents.isEmpty }

/-- Write one completion that frees `rsv` reservations. With no link to the host it is discarded (R329); `checked` tells
that the ART has permitted it, and a refusal stops the ring (R436, notes/assumptions/30.md). -/
def State.writeCpl (s : State) (r rsv : Nat) (coal : Bool) (tag : Nat) (seq : Word) (count : Nat) (e : Ended) (checked : Bool := false) : State :=
  let v := s.ring r
  let s := s.setRing r { v with cqRsv := v.cqRsv - rsv }
  if !s.hostUp || v.st == .none then s
  else
    let (ok, s) := if checked then (true, s) else s.hostAccess v.part .write
    if !ok then (s.stopRing r 2).updRing r Ring.killOpen
    else
      let v := s.ring r
      let b := cplBytes r v.cqTail v.cqPhase coal tag seq s.frame32 v.sqFetch count e
      let s := s.hostWr v.part (v.cqBase + 32 * v.cqTail) b
      let t := (v.cqTail + 1) % 2 ^ v.cqLog2
      let s := s.setRing r { v with cqTail := t, cqPhase := if t = 0 then !v.cqPhase else v.cqPhase }
      (s.inc64 Reg.HOSTIF.CPL_CNT_LO Reg.HOSTIF.CPL_CNT_HI 1).cplInt r

/-- How many completions have been written, to tell one that is discarded or refused. -/
def State.cplCount (s : State) : Nat := s.reg Reg.HOSTIF.CPL_CNT_LO

/-- The record of a completion for the twin's duplicate table, while the link is up (R400). -/
def State.cplRec (s : State) (r part : Nat) (seq : Word) (e : Ended) : State :=
  s.sendMsg 8 (leBytes 2 r ++ [BitVec.ofNat 8 part, BitVec.ofNat 8 e.status] ++ leBytes 4 seq.toNat ++ leBytes 4 s.frame32
    ++ [BitVec.ofNat 8 (flag e.dataWritten 2 + flag e.unmirrored 1 + flag e.carried 0), 0, 0, 0])

/-- The completion of a batch all of whose items have ended (R346). -/
def Batch.ended (b : Batch) : Ended :=
  let es := b.ents.filterMap BatchEnt.done
  let top := (es.map fun e => statusRank e.status).foldl max 0
  let e := (es.find? fun e => statusRank e.status == top).getD { status := 0 }
  { status := e.status, result := e.result, outLen := (es.map Ended.outLen).foldl (· + ·) 0,
    dataWritten := es.any Ended.dataWritten, unmirrored := es.any Ended.unmirrored, carried := es.any Ended.carried }

/-- Write the completion of every batch of a ring that is closed and whose items have ended; while its partition quiesces an open
batch closes as its items end (R346, R365). -/
def State.flushBatches (s : State) (r : Nat) : State :=
  let stop := (s.part (s.ring r).part).quiesce
  let full (b : Batch) : Bool := (b.closed || stop) && !b.dead && b.ents.all fun x => x.done.isSome
  let ready := (s.ring r).batches.filter full
  let s := s.updRing r fun v => { v with batches := v.batches.filter fun b => !full b }
  ready.foldl (fun s b => match b.ents.getLast? with
    | some l => s.writeCpl r b.ents.length true l.tag l.seq b.ents.length b.ended
    | none => s) s

/-- The entry of an item that has not ended, in a batch. -/
def BatchEnt.isOf (item : Nat) (x : BatchEnt) : Bool := x.item == item && item != 0 && x.done.isNone

/-- Take an item out of the batches of its ring. -/
def Ring.leaveBatch (v : Ring) (item : Nat) : Ring :=
  { v with batches := (v.batches.map fun (b : Batch) => { b with ents := b.ents.filter fun x => !x.isOf item }).filter fun b => !b.ents.isEmpty }

/-- An entry ends: its batch takes it, or its own completion is written (R345, R346). An accepted item's own completion
sends its record to the twin, once it is written. An item of a discarded batch writes none. -/
def State.endEntry (s : State) (r part item tag : Nat) (seq : Word) (e : Ended) (checked : Bool := false) : State :=
  match (s.ring r).batches.find? fun b => b.ents.any (BatchEnt.isOf item) with
  | some b =>
    if b.dead then s.updRing r fun v => { v.leaveBatch item with cqRsv := v.cqRsv - 1 }
    else
      let put (b : Batch) : Batch := { b with ents := b.ents.map fun x => if x.isOf item then { x with done := some e } else x }
      (s.updRing r fun v => { v with batches := v.batches.map put }).flushBatches r
  | none =>
    let n := s.cplCount
    let s := s.writeCpl r 1 false tag seq 1 e checked
    if item = 0 || s.cplCount == n then s else s.cplRec r part seq e

/-! ### Descriptors -/

/-- Dword `n` of a descriptor. -/
def descWord (d : List Word) (n : Nat) : Nat := (d.getD n 0).toNat

/-- TAG of an item. -/
def Item.tag (i : Item) : Nat := descWord i.desc 0 % 65536

/-- SEQ of an item. -/
def Item.seq (i : Item) : Word := i.desc.getD 1 0

/-- FENCE of an item. -/
def Item.fence (i : Item) : Bool := bitOf (descWord i.desc 0) 28

/-- IN_LEN of an item. -/
def Item.inLen (i : Item) : Nat := descWord i.desc 7

/-- IN_ADDR of an item. -/
def Item.inAddr (i : Item) : Nat := descWord i.desc 5 + 2 ^ 32 * descWord i.desc 6

/-- OUT_ADDR of an item. -/
def Item.outAddr (i : Item) : Nat := descWord i.desc 8 + 2 ^ 32 * descWord i.desc 9

end Sys2Proof.Machine
end

