-- ==== Sys2Proof/Machine/Admit.lean ====
section
/-!
DEFINITION. The admission unit: ownership and bindings (R52 to R54), binding items to slots (R55 to R57, R62 to R64), the end
of an item, and the commands of the ADMIT page (R66, R85).
-/
set_option autoImplicit false

namespace Sys2Proof.Machine

/-! ### Slots -/

/-- The valid slots of the rig in effect, ascending. -/
def State.validSlots (s : State) : List (Nat × SlotEnt) :=
  match s.rig.eff with
  | some r => r.slots.filterMap fun (e : Nat × Option SlotEnt) => e.2.map fun v => (e.1, v)
  | none => []

/-- Slots in the order of their instances: START, then yard, then slot number (R55). -/
def slotOrder (l : List (Nat × SlotEnt)) : List (Nat × SlotEnt) := l.mergeSort fun a b => decide (a.2.start ≤ b.2.start)

/-- The item that executes or is parked in a slot. -/
def State.holder (s : State) (k : Nat) : Option Item := s.adm.items.find? fun i => match i.place with
  | .running q _ | .parked q _ => q == k
  | _ => false

/-- The item bound to a slot. -/
def State.boundItem (s : State) (k : Nat) : Option Item := s.adm.items.find? fun i => match i.place with
  | .bound q _ => q == k
  | _ => false

/-- Key of a class binding. -/
def bindKey (p c : Nat) : Nat := p * 256 + c

/-- The ring to which a partition's class is bound (R53). -/
def State.ringOf (s : State) (p c : Nat) : Option Nat :=
  match SMap.get 0 s.adm.binding (bindKey p c) with
  | 0 => none
  | n => some (n - 1)

/-- The owner of a slot (R52). -/
def State.ownerOf (s : State) (k : Nat) : Option Nat :=
  match SMap.get 0 s.adm.owner k with
  | 0 => none
  | n => some (n - 1)

/-! ### Binding -/

/-- The input of an item counts as complete once it is bound: its class reads none, or its length is zero. -/
def State.noInput (s : State) (i : Item) : Bool := !((s.classEnt i.cls).map ClassEnt.input).getD false || i.inLen == 0

/-- Bind an item to a slot; its input read is issued (R57, R343). DESIGN CHOICE (notes/assumptions/69.md): the item takes the buffer
that the slot's executing or carried item does not hold, and BUF_A where there is none. -/
def State.attach (s : State) (i : Item) (k : Nat) : State :=
  let b := ((s.holder k).map fun h => !h.place.bufB).getD false
  let done := s.noInput i
  let s := s.updItem i.id fun i => { i with place := .bound k b, inDone := done }
  if done then s
  else
    let (ok, s) := s.hostAccess i.part .read
    if ok && s.hostUp then s.emit (.hostRead (s.part i.part).pasid i.inAddr i.inLen) else s

/-- An item with FENCE waits for every earlier item of its ring (R63). -/
def State.fenced (s : State) (i : Item) : Bool :=
  i.fence && (s.adm.items.any (fun o => o.ring == i.ring && decide (o.id < i.id)) || s.host.held.any fun h => h.ring == i.ring && decide (h.item < i.id))

/-- The slot that an item binds to: the earliest free instance that its partition owns for its class, if its class is
bound to its ring (R53, R55). -/
def State.slotFor (s : State) (order : List (Nat × SlotEnt)) (i : Item) : Option Nat :=
  if s.ringOf i.part i.cls ≠ some i.ring then none
  else (order.find? fun e => e.2.cls == i.cls && s.ownerOf e.1 == some i.part && (s.boundItem e.1).isNone && !s.slotVoid e.1 e.2).map Prod.fst

/-- Bind waiting items in order; `stop` are the rings whose item with FENCE has not bound: no later item of such a ring binds
before it (R63). -/
def State.bindGo (order : List (Nat × SlotEnt)) : List Item → List Nat → State → State
  | [], _, s => s
  | i :: is, stop, s =>
    if stop.contains i.ring then State.bindGo order is stop s
    else if s.fenced i then State.bindGo order is (i.ring :: stop) s
    else match s.slotFor order i with
      | some k => State.bindGo order is stop (s.attach i k)
      | none => State.bindGo order is (if i.fence then i.ring :: stop else stop) s

/-- Bind every waiting item that finds a slot (R56); items bind from fabric cycle 100 of the frame on (Table 2.2). -/
def State.bindAll (s : State) : State :=
  if s.frame.cycle < 100 then s else
  State.bindGo (slotOrder s.validSlots) (s.adm.items.filter fun i => i.place == .waiting) [] s

/-! ### The end of an item -/

/-- Items of a partition in the in-flight table, held completions included (R276). -/
def State.inFlight (s : State) (p : Nat) : Nat :=
  (s.adm.items.filter fun i => i.part == p).length + (s.host.held.filter fun h => h.part == p).length

/-- Items of a ring in the in-flight table. -/
def State.ringInFlight (s : State) (r : Nat) : Nat :=
  (s.adm.items.filter fun i => i.ring == r).length + (s.host.held.filter fun h => h.ring == r).length

/-- A quiescing partition with nothing in flight is QUIESCED (R365). -/
def State.settle (s : State) (p : Nat) : State :=
  let v := s.part p
  if v.st = .quiescing && v.quiesce && s.inFlight p = 0 then (s.setPart p { v with st := .quiesced }).raise pgPart 1 else s

/-- STOPPING ends once no admitted item is left (R66). -/
def State.checkOff (s : State) : State :=
  let h := s.hd pgAdmit
  let busy := s.adm.items.any fun i => match i.place with
    | .running _ _ | .parked _ _ => true
    | _ => false
  if h.st = 3 && !busy then s.setHd pgAdmit { h with st := 0 } else s

/-- Take an item out of the in-flight table. -/
def State.dropItem (s : State) (id : Nat) : State :=
  { s with adm := { s.adm with items := s.adm.items.filter fun i => i.id != id } }

/-- An item leaves the in-flight table; its instance is free again (R64). -/
def State.leave (s : State) (i : Item) : State :=
  let s := ((s.dropItem i.id).settle i.part).checkOff
  match i.place with
  | .bound _ _ => s.bindAll
  | _ => s

/-- An item ends with its completion. -/
def State.endItem (s : State) (i : Item) (e : Ended) (checked : Bool := false) : State :=
  ((s.dropItem i.id).endEntry i.ring i.part i.id i.tag i.seq { e with carried := i.carriedEver } checked).leave i

/-- An item ends with a status for which the spec states no result: the 8 B are free (notes/assumptions/31.md). -/
def State.endOpen (s : State) (i : Item) (status : Nat) : State :=
  let (k, s) := s.draw
  s.endItem i { status := status, result := leBytes 8 (Config.freeNat k) }

/-- The items that satisfy a condition end with a status, in order. -/
def State.endWhere (s : State) (p : Item → Bool) (status : Nat) : State :=
  (s.adm.items.filter p).foldl (fun s i => s.endOpen i status) s

/-- Not admitted: waiting or bound. -/
def Place.unadmitted : Place → Bool
  | .waiting | .bound _ _ => true
  | _ => false

/-! ### Ownership and bindings in effect (R54, R62) -/

/-- Put tables in effect; answers the bound items that the change concerns. -/
def State.putTables (s : State) (owner binding : SMap Nat) : List Nat × State :=
  let hit (i : Item) : Bool := match i.place with
    | .bound k _ => SMap.get 0 s.adm.owner k != SMap.get 0 owner k
        || SMap.get 0 s.adm.binding (bindKey i.part i.cls) != SMap.get 0 binding (bindKey i.part i.cls)
    | _ => false
  ((s.adm.items.filter hit).map Item.id, { s with adm := { s.adm with owner := owner, binding := binding } })

/-- A bound item returns to waiting; its input is read again when it binds anew (R62). -/
def State.release (s : State) (id : Nat) : State :=
  s.updItem id fun i => match i.place with
    | .bound _ _ => { i with place := .waiting, inDone := false }
    | _ => i

/-- The own commit is in effect. -/
def State.commitDone (s : State) : State :=
  let s := { s with adm := { s.adm with commit := false } }
  ((s.setBit Reg.ADMIT.PENDING false).setReg Reg.ADMIT.COMMIT_FRAME s.frame32).raise pgAdmit 0

/-! ### Commands of the ADMIT page -/

/-- A partition that exists for R54, one whose CREATE is pending included. -/
def State.partExists (s : State) (p : Nat) : Bool := (s.part p).st != .none

/-- A binding to a ring that its partition does not own. -/
def State.badRing (s : State) (e : Nat × Nat) : Bool :=
  let v := s.ring (e.2 - 1)
  v.st == .none || v.part != e.1 / 256

/-- Bytes of a mirrored command; the manual gives no layout (notes/assumptions/28.md). -/
def CfgCmd.bytes : CfgCmd → List Byte
  | .part op p q res => [0, BitVec.ofNat 8 op, BitVec.ofNat 8 p, if q then 1 else 0] ++ res.flatMap (leBytes 4)
  | .commit o b => [1, 0, 0, 0] ++ (o ++ b).flatMap fun e => leBytes 4 e.1 ++ leBytes 4 e.2
  | .exported p => [2, 0, BitVec.ofNat 8 p, 0]

/-- A paired device tells its twin of a command accepted in this frame; it takes effect at the guard of the frame after
next (R397). -/
def State.mirrorCfg (s : State) (c : CfgCmd) : State :=
  if s.stay.pstate = 1 then
    let m : CfgMsg := { atTick := s.frame.ticks + 2, lower := s.lowerTwin, cmd := c }
    { s with stay := { s.stay with cfg := s.stay.cfg ++ [m] } }.sendMsg 5 (leBytes 8 s.frame.no ++ c.bytes)
  else s

/-- `COMMIT` : the shadow tables are checked as a whole and wait for their guard (R54, R85). -/
def execCommit (s : State) : Result :=
  let a := s.adm
  if a.commit then .next (s.refuse pgAdmit 0x03)
  else if a.ownerSh.any (fun (e : Nat × Nat) => !s.partExists (e.2 - 1)) || a.bindingSh.any (fun (e : Nat × Nat) => !s.partExists (e.1 / 256)) then
    .next (s.refuse pgAdmit 0x04)
  else if a.bindingSh.any s.badRing then .next (s.refuse pgAdmit 0x05)
  else
    let s := { s with adm := { a with commit := true } }.setBit Reg.ADMIT.PENDING true
    .next (s.mirrorCfg (.commit a.ownerSh a.bindingSh))

/-- The mode or the ADMIT page withholds fetch (R339, R356). -/
def State.fetchHold (s : State) : Bool := !(s.admitMode && (s.hd pgAdmit).st == 2)

/-- `ADMIT_ENABLE` : a write of CTRL.ENABLE of the ADMIT page (R66, R358). -/
def execAdmitEnable (en : Bool) (s : State) : Result :=
  let h := s.hd pgAdmit
  if en then
    if h.st = 3 then .next (s.refuse pgAdmit 0x02)
    else if h.st = 0 then .next s.admitStart
    else .next s
  else if h.st = 1 || h.st = 2 then .next (s.setHd pgAdmit { h with enable := false, st := 3 }).checkOff
  else .next s

/-- The admission unit admits: STATE is ON, the mode allows it, and the rig and the store are there (R66, Table 1.3). -/
def State.admitting (s : State) : Bool := (s.hd pgAdmit).st == 2 && s.admitReady

end Sys2Proof.Machine
end

