-- ==== Sys2Proof/Machine/Align.lean ====
section
/-!
DEFINITION. The numbering of frames and the alignment of the tick (R34, R76 to R82).
-/
set_option autoImplicit false

namespace Sys2Proof.Machine

/-! ### Signed fields -/

/-- A signed value in a field of `w` bits, cut to its range. -/
def signedField (w : Nat) (v : Int) : Nat :=
  let lim : Int := 2 ^ (w - 1)
  let v := max (-lim) (min (lim - 1) v)
  (v % (2 * lim)).toNat

/-- The value of a signed field of `w` bits. -/
def fieldInt (w v : Nat) : Int := if v < 2 ^ (w - 1) then v else (v : Int) - 2 ^ w

/-! ### Tracking (R76, R77) -/

/-- LOCKED, which STATE[5] repeats. -/
def State.setLocked (s : State) (b : Bool) : State := (s.setBit Reg.FRAME.LOCKED b).setDetail pgFrame 5 b

/-- A measurement of the phase: LOCKED while it lies within ALIGN_LIMIT. The law of the trim loop is not given: the trim is
a free value within ±100 ppm (notes/assumptions/29.md). -/
def State.track (s : State) (phase : Int) : State :=
  let (k, s) := s.draw
  let trim : Int := (Config.freeNat k % 201 : Nat) - 100
  let s := (s.setReg Reg.FRAME.PHASE_ERR (signedField 16 phase)).setReg Reg.FRAME.TRIM (signedField 8 trim)
  s.setLocked (decide (phase.natAbs ≤ s.reg Reg.FRAME.ALIGN_LIMIT))

/-- `FSYNC_IN_EDGE` : a rising edge of the domain time source; FSYNC_SKEW is added to it. -/
def execFsyncInEdge (phase : Int) (s : State) : Result :=
  if s.reg Reg.FRAME.SOURCE ≠ 1 then .next s
  else
    let s := { s with frame := { s.frame with noRef := 0 } }
    .next (s.track (phase - fieldInt 16 (s.reg Reg.FRAME.FSYNC_SKEW)))

/-- The last trim is held and LOCKED clears; when the reference returns the device only slews (R81). -/
def State.alignLost (s : State) : State :=
  ({ s with frame := { s.frame with stepped := true } }.setLocked false).raise pgFrame 3

/-- `ALIGN_LOST` : three frames without an edge of FSYNC_IN, or the twin that is the reference is lost. -/
def execAlignLost (twin : Bool) (s : State) : Result :=
  let src := s.reg Reg.FRAME.SOURCE
  if twin then .next (if src = 2 && s.stay.pstate = 3 then s.alignLost else s)
  else .next (if src = 1 && 3 ≤ s.frame.noRef then s.alignLost else s)

/-- A new reference is selected: FREE holds the trim at 0 and locks to nothing; the count of frames without an edge starts anew
(Table 2.11, R77, R81). -/
def State.takeSource (s : State) (src : Nat) : State :=
  let s := if s.reg Reg.FRAME.SOURCE = src then s else { s with frame := { s.frame with noRef := 0 } }.setReg Reg.FRAME.SOURCE src
  if src = 0 then (s.setReg Reg.FRAME.TRIM 0).setLocked false else s

/-- `TICK_STEP` : before its first rig takes effect the device steps its tick once to the reference phase (R78); not after the
reference has been lost (R81). -/
def execTickStep (s : State) : Result :=
  if s.reg Reg.FRAME.SOURCE = 0 || s.frame.stepped || s.rig.eff.isSome then .next s
  else .next (({ s with frame := { s.frame with stepped := true } }.setReg Reg.FRAME.PHASE_ERR 0).setLocked true)

/-! ### FSYNC_OUT (R80) -/

/-- The level of FSYNC_OUT; a change is sent out. -/
def State.setFsync (s : State) (b : Bool) : State :=
  if s.pins.fsyncOut == b then s else { s with pins := { s.pins with fsyncOut := b } }.emit (.pin "FSYNC_OUT" b)

/-- FSYNC_OUT rises at the tick where it is enabled. -/
def State.fsyncRise (s : State) : State := if s.bit Reg.FRAME.FSYNC_OUT_EN then s.setFsync true else s

/-! ### Loading a number (R82) -/

/-- The next tick takes a number; FRAME_HWM is raised before it does (R34, R82). -/
def State.loadFrame (s : State) (v : Nat) : State :=
  { s with frame := { s.frame with load := some v, hwm := max s.frame.hwm (v + 2 ^ 17) } }

/-- A device whose SOURCE is TWIN takes its twin's numbering (R82): `no` is the number of the frame that runs on the twin. DEDUCED
(notes/assumptions/79.md): at the next tick, and never a number lower than FRAME_NO + 1. -/
def State.takeNumber (s : State) (no : Nat) : State :=
  if s.reg Reg.FRAME.SOURCE = 2 && decide (s.frame.no < no) then s.loadFrame (no + 1) else s

/-- The tick of a frame by its number: of this frame, the one before, or a later one; none for an older frame (R35). -/
def State.tickOf (s : State) (no : Nat) : Option Nat :=
  if s.frame.no ≤ no then some (s.frame.ticks + (no - s.frame.no))
  else if no = s.frame.prev then some (s.frame.ticks - 1) else none

/-- `LOAD` : the next tick takes the number in FRAME_LOAD. -/
def execLoad (s : State) : Result :=
  let v := s.reg Reg.FRAME.FRAME_LOAD_LO + 2 ^ 32 * s.reg Reg.FRAME.FRAME_LOAD_HI
  if v < s.frame.no + 1 then .next (s.refuse pgFrame 0x20)
  else if s.reg Reg.FRAME.SOURCE = 2 then .next (s.refuse pgFrame 0x21)
  else .next (s.loadFrame v)

/-- The start value of FRAME_NO after a reset (R34); it is not defined for a large RTC_SEC. -/
def State.startNo (s : State) : Nat × State :=
  let t := s.tamper
  if 1407374883 ≤ t.rtcSec then
    let (k, s) := s.draw
    (Config.freeNat k % 2 ^ 48, s)
  else (max (t.rtcSec * 200000 + t.rtcSub * 200000 / 32768) s.frame.hwm, s)

/-- FRAME_HWM stays more than 2¹⁶ above FRAME_NO. DESIGN CHOICE (notes/assumptions/68.md): where the start number of the RTC lies
far above the mark, the mark is raised by the smallest multiple of 2¹⁷ that puts it there. -/
def raiseHwm (no hwm : Nat) : Nat :=
  if hwm ≤ no + 2 ^ 16 then hwm + 2 ^ 17 * ((no + 2 ^ 16 - hwm) / 2 ^ 17 + 1) else hwm

/-- FRAME_NO at the tick: the loaded number, the start value at the first tick, or the next one (R34, R82). DESIGN CHOICE
(notes/assumptions/68.md): a LOAD accepted before the first tick after a reset wins over the start value. Frames without an
edge count while SOURCE is FSYNC_IN (R81). -/
def State.frameStep (s : State) : State :=
  let (no, s) := match s.frame.load, s.frame.first with
    | some v, _ => (v, s)
    | none, true => s.startNo
    | none, false => ((s.frame.no + 1) % 2 ^ 48, s)
  { s with frame := { s.frame with
      no := no, prev := s.frame.no, hwm := raiseHwm no s.frame.hwm, ticks := s.frame.ticks + 1, cycle := 0, first := false, load := none,
      noRef := if s.reg Reg.FRAME.SOURCE = 1 then s.frame.noRef + 1 else 0 } }

end Sys2Proof.Machine
end

