-- ==== Sys2Proof/Machine/Modular.lean ====
section
/-!
DEFINITION. Modular arithmetic of the big-number engine (R206 to R209) and the deterministic nonces of RFC 6979
(R211). Every loop runs on explicit fuel.
-/
set_option autoImplicit false

namespace Sys2Proof.Machine

/-- `b ^ e mod n`, most significant bit of `e` first, over the `k` low bits of `e`. -/
def modPowAux (n b e : Nat) : Nat → Nat → Nat
  | 0, r => r
  | k + 1, r =>
    let r := (r * r) % n
    modPowAux n b e k (if e.testBit k then (r * b) % n else r)

/-- Bits that a number takes. -/
def bitLen (v : Nat) : Nat := if v = 0 then 0 else Nat.log2 v + 1

/-- `b ^ e mod n`. -/
def modPow (n b e : Nat) : Nat := modPowAux n b e (bitLen e) (1 % n)

/-- Extended Euclid: (r0, r1) with the coefficients of `a`. -/
def egcdAux : Nat → Int → Int → Int → Int → Int × Int
  | 0, r0, _, t0, _ => (r0, t0)
  | k + 1, r0, r1, t0, t1 => if r1 = 0 then (r0, t0) else egcdAux k r1 (r0 - r0 / r1 * r1) t1 (t0 - r0 / r1 * t1)

/-- The inverse of `a` modulo `n`, where it has one. -/
def modInv (n a : Nat) : Option Nat :=
  let (g, t) := egcdAux (2 * bitLen n + 4) n (a % n) 0 1
  if g = 1 then some (t % (n : Int)).toNat else none

/-- A difference modulo `n`. -/
def modSub (n a b : Nat) : Nat := (a % n + (n - b % n)) % n

/-- The digest truncated to the bit length of the order (FIPS 186-5). -/
def ecTrunc (ord : Nat) (dig : List Byte) : Nat :=
  let q := bitLen ord
  let v := beNat dig
  if q < 8 * dig.length then v >>> (8 * dig.length - q) else v

/-! ### RFC 6979 -/

/-- Generate bytes until they make a nonce in [1, order − 1]; zero where the fuel ends first. -/
def rfcLoop (hm : List Byte → List Byte → List Byte) (ord hlen : Nat) : Nat → List Byte → List Byte → Nat
  | 0, _, _ => 0
  | n + 1, k, v =>
    let q := bitLen ord
    let cnt := ceilDiv ((q + 7) / 8) hlen
    let (t, v) := (List.range cnt).foldl (fun (e : List Byte × List Byte) _ => let v := hm k e.2; (e.1 ++ v, v)) (([] : List Byte), v)
    let c := ecTrunc ord t
    if 1 ≤ c && c < ord then c
    else
      let k := hm k (v ++ [0])
      rfcLoop hm ord hlen n k (hm k v)

/-- The nonce of RFC 6979 for key `x` and digest number `h`. -/
def rfc6979 (hm : List Byte → List Byte → List Byte) (hlen ord x h : Nat) : Nat :=
  let rl := (bitLen ord + 7) / 8
  let xh := beBytes rl x ++ beBytes rl (h % ord)
  let v := List.replicate hlen (1 : Byte)
  let k := List.replicate hlen (0 : Byte)
  let k := hm k (v ++ [0] ++ xh)
  let v := hm k v
  let k := hm k (v ++ [1] ++ xh)
  let v := hm k v
  rfcLoop hm ord hlen 64 k v

end Sys2Proof.Machine
end

