-- ==== Sys2Proof/Machine/Ec.lean ====
section
/-!
DEFINITION. The curves of the big-number engine: P-256, P-384, P-521 and brainpoolP256r1 with ECDSA and ECDH (R210,
R211), Ed25519 of RFC 8032 and X25519 of RFC 7748 (R212).
-/
set_option autoImplicit false

namespace Sys2Proof.Machine

/-- A Weierstrass curve y² = x³ + ax + b with its base point and order. -/
structure Curve where
  p  : Nat
  a  : Nat
  b  : Nat
  gx : Nat
  gy : Nat
  n  : Nat

/-- P-256 of FIPS 186-5. -/
def p256 : Curve :=
  { p := 0xffffffff00000001000000000000000000000000ffffffffffffffffffffffff
    a := 0xffffffff00000001000000000000000000000000fffffffffffffffffffffffc
    b := 0x5ac635d8aa3a93e7b3ebbd55769886bc651d06b0cc53b0f63bce3c3e27d2604b
    gx := 0x6b17d1f2e12c4247f8bce6e563a440f277037d812deb33a0f4a13945d898c296
    gy := 0x4fe342e2fe1a7f9b8ee7eb4a7c0f9e162bce33576b315ececbb6406837bf51f5
    n := 0xffffffff00000000ffffffffffffffffbce6faada7179e84f3b9cac2fc632551 }

/-- P-384 of FIPS 186-5. -/
def p384 : Curve :=
  { p := 0xfffffffffffffffffffffffffffffffffffffffffffffffffffffffffffffffeffffffff0000000000000000ffffffff
    a := 0xfffffffffffffffffffffffffffffffffffffffffffffffffffffffffffffffeffffffff0000000000000000fffffffc
    b := 0xb3312fa7e23ee7e4988e056be3f82d19181d9c6efe8141120314088f5013875ac656398d8a2ed19d2a85c8edd3ec2aef
    gx := 0xaa87ca22be8b05378eb1c71ef320ad746e1d3b628ba79b9859f741e082542a385502f25dbf55296c3a545e3872760ab7
    gy := 0x3617de4a96262c6f5d9e98bf9292dc29f8f41dbd289a147ce9da3113b5f0b8c00a60b1ce1d7e819d7a431d7c90ea0e5f
    n := 0xffffffffffffffffffffffffffffffffffffffffffffffffc7634d81f4372ddf581a0db248b0a77aecec196accc52973 }

/-- P-521 of FIPS 186-5. -/
def p521 : Curve :=
  { p := 2 ^ 521 - 1
    a := 2 ^ 521 - 4
    b := 0x0051953eb9618e1c9a1f929a21a0b68540eea2da725b99b315f3b8b489918ef109e156193951ec7e937b1652c0bd3bb1bf073573df883d2c34f1ef451fd46b503f00
    gx := 0x00c6858e06b70404e9cd9e3ecb662395b4429c648139053fb521f828af606b4d3dbaa14b5e77efe75928fe1dc127a2ffa8de3348b3c1856a429bf97e7e31c2e5bd66
    gy := 0x011839296a789a3bc0045c8a5fb42c7d1bd998f54449579b446817afbd17273e662c97ee72995ef42640c550b9013fad0761353c7086a272c24088be94769fd16650
    n := 0x1fffffffffffffffffffffffffffffffffffffffffffffffffffffffffffffffffa51868783bf2f966b7fcc0148f709a5d03bb5c9b8899c47aebb6fb71e91386409 }

/-- brainpoolP256r1 of RFC 5639. -/
def bp256 : Curve :=
  { p := 0xa9fb57dba1eea9bc3e660a909d838d726e3bf623d52620282013481d1f6e5377
    a := 0x7d5a0975fc2c3057eef67530417affe7fb8055c126dc5c6ce94a4b44f330b5d9
    b := 0x26dc5c6ce94a4b44f330b5d9bbd77cbf958416295cf7e1ce6bccdc18ff8c07b6
    gx := 0x8bd2aeb9cb7e57cb2c4b482ffc81b7afb9de27e1e3bd23c23a4453bd9ace3262
    gy := 0x547ef835c3dac4fd97f8461a14611dc9c27745132ded8e545c1d54c72f046997
    n := 0xa9fb57dba1eea9bc3e660a909d838d718c397aa3b561a6f7901e0e82974856a7 }

/-- A point; `none` is the point at infinity. -/
abbrev Point := Option (Nat × Nat)

/-- The sum of two points. -/
def Curve.addP (c : Curve) : Point → Point → Point
  | none, q => q
  | p, none => p
  | some (x1, y1), some (x2, y2) =>
    let num := if x1 = x2 then (3 * x1 * x1 + c.a) % c.p else modSub c.p y2 y1
    let den := if x1 = x2 then (2 * y1) % c.p else modSub c.p x2 x1
    if x1 = x2 && (y1 + y2) % c.p = 0 then none
    else
      let l := (num * (modInv c.p den).getD 0) % c.p
      let x := modSub c.p (modSub c.p (l * l) x1) x2
      some (x, modSub c.p (l * modSub c.p x1 x) y1)

/-- A multiple, over the `k` low bits of the scalar. -/
def Curve.mulAux (c : Curve) (d : Nat) (p : Point) : Nat → Point → Point
  | 0, r => r
  | k + 1, r =>
    let r := c.addP r r
    Curve.mulAux c d p k (if d.testBit k then c.addP r p else r)

/-- A multiple of a point. -/
def Curve.mulP (c : Curve) (d : Nat) (p : Point) : Point := c.mulAux d p (bitLen d) none

/-- The base point. -/
def Curve.g (c : Curve) : Point := some (c.gx, c.gy)

/-- The curve equation; coordinates are checked against `p` before (R217). -/
def Curve.on (c : Curve) (x y : Nat) : Bool := (y * y) % c.p == (x * x * x + c.a * x + c.b) % c.p

/-- The affine x of a point, zero for the point at infinity. -/
def xOf (p : Point) : Nat := (p.map Prod.fst).getD 0

/-- The affine y of a point, zero for the point at infinity. -/
def yOf (p : Point) : Nat := (p.map Prod.snd).getD 0

/-- An ECDSA signature with a given nonce; r or s may be zero (R211). -/
def Curve.sign (c : Curve) (d k h : Nat) : Nat × Nat :=
  let r := xOf (c.mulP k c.g) % c.n
  ((r, ((modInv c.n k).getD 0 * (h + r * d)) % c.n))

/-- ECDSA verification; r and s are in range. -/
def Curve.verify (c : Curve) (q : Nat × Nat) (h r s : Nat) : Bool :=
  match modInv c.n s with
  | none => false
  | some w =>
    match c.addP (c.mulP ((h * w) % c.n) c.g) (c.mulP ((r * w) % c.n) (some q)) with
    | none => false
    | some (x, _) => x % c.n == r

/-! ### Curve25519 -/

/-- The field prime of Curve25519. -/
def p25519 : Nat := 2 ^ 255 - 19
/-- The order of the base point of edwards25519. -/
def l25519 : Nat := 2 ^ 252 + 27742317777372353535851937790883648493
/-- d of edwards25519. -/
def ed25519D : Nat := 37095705934669439343138083508754565189542113879843219016388785533085940283555
/-- A square root of −1. -/
def ed25519I : Nat := modPow p25519 2 ((p25519 - 1) / 4)
/-- The base point of edwards25519. -/
def ed25519B : Nat × Nat :=
  (15112221349535400772501151409588531511454012693041857206046113283949847762202,
   46316835694926478169428394003475163141307993866256225615783033603165251855960)

/-- The sum of two points of edwards25519. -/
def edAdd (a b : Nat × Nat) : Nat × Nat :=
  let p := p25519
  let t := (ed25519D * (a.1 * b.1 % p) % p) * (a.2 * b.2 % p) % p
  let x := ((a.1 * b.2 + b.1 * a.2) % p) * (modInv p (1 + t)).getD 0 % p
  let y := ((a.2 * b.2 + a.1 * b.1) % p) * (modInv p (modSub p 1 t)).getD 0 % p
  (x, y)

/-- A multiple over the low `k` bits. -/
def edMulAux (d : Nat) (q : Nat × Nat) : Nat → Nat × Nat → Nat × Nat
  | 0, r => r
  | k + 1, r =>
    let r := edAdd r r
    edMulAux d q k (if d.testBit k then edAdd r q else r)

/-- A multiple of a point of edwards25519. -/
def edMul (d : Nat) (q : Nat × Nat) : Nat × Nat := edMulAux d q (bitLen d) (0, 1)

/-- The 32-byte encoding of a point, as a number. -/
def edEncode (q : Nat × Nat) : Nat := q.2 + (q.1 % 2) * 2 ^ 255

/-- The point of an encoding; the y field must be below p and x must exist (R213). -/
def edDecode (v : Nat) : Option (Nat × Nat) :=
  let p := p25519
  let y := v % 2 ^ 255
  let sgn := v / 2 ^ 255 % 2
  if p ≤ y then none
  else
    let u := modSub p (y * y) 1
    let w := (ed25519D * (y * y % p) + 1) % p
    let xx := u * (modInv p w).getD 0 % p
    let x := modPow p xx ((p + 3) / 8)
    let x := if x * x % p = xx then x else x * ed25519I % p
    if x * x % p ≠ xx then none
    else if x = 0 && sgn = 1 then none
    else some (if x % 2 = sgn then x else p - x, y)

/-- The scalar and prefix of a seed. -/
def edExpand (seed : List Byte) : Nat × List Byte :=
  let h := sha512 seed
  let a := leNat (h.take 32)
  (2 ^ 254 + a % 2 ^ 254 - a % 8, h.drop 32)

/-- The public key of a seed, as the number of its encoding. -/
def edPublic (seed : List Byte) : Nat := edEncode (edMul (edExpand seed).1 ed25519B)

/-- R ‖ S of a message (RFC 8032), as bytes. -/
def edSignMsg (seed : List Byte) (pk : Nat) (m : List Byte) : List Byte :=
  let (a, pre) := edExpand seed
  let r := leNat (sha512 (pre ++ m)) % l25519
  let rr := leBytes 32 (edEncode (edMul r ed25519B))
  let k := leNat (sha512 (rr ++ leBytes 32 pk ++ m)) % l25519
  rr ++ leBytes 32 ((r + k * a) % l25519)

/-- The cofactored equation [8][S]B = [8]R + [8][k]A (R212), on decoded points. -/
def edVerifyPts (aPt rPt : Nat × Nat) (aEnc rEnc sc : Nat) (m : List Byte) : Bool :=
  let k := leNat (sha512 (leBytes 32 rEnc ++ leBytes 32 aEnc ++ m)) % l25519
  let l := edMul 8 (edMul sc ed25519B)
  let r := edAdd (edMul 8 rPt) (edMul 8 (edMul k aPt))
  l == r

/-- One step of the Montgomery ladder. -/
def xLadder (x1 k : Nat) : Nat → Nat × Nat × Nat × Nat → Nat × Nat × Nat × Nat
  | 0, st => st
  | t + 1, (x2, z2, x3, z3) =>
    let p := p25519
    let sw := k.testBit t
    let (x2, x3) := if sw then (x3, x2) else (x2, x3)
    let (z2, z3) := if sw then (z3, z2) else (z2, z3)
    let a := (x2 + z2) % p
    let aa := a * a % p
    let b := modSub p x2 z2
    let bb := b * b % p
    let e := modSub p aa bb
    let c := (x3 + z3) % p
    let d := modSub p x3 z3
    let da := d * a % p
    let cb := c * b % p
    let x3 := (da + cb) * (da + cb) % p
    let df := modSub p da cb
    let z3 := x1 * (df * df % p) % p
    let x2 := aa * bb % p
    let z2 := e * ((aa + 121665 * e) % p) % p
    let (x2, x3) := if sw then (x3, x2) else (x2, x3)
    let (z2, z3) := if sw then (z3, z2) else (z2, z3)
    xLadder x1 k t (x2, z2, x3, z3)

/-- X25519 of RFC 7748 on numbers: the scalar is clamped and bit 255 of u is masked. -/
def x25519Fn (k u : Nat) : Nat :=
  let k := 2 ^ 254 + k % 2 ^ 254 - k % 8
  let u := (u % 2 ^ 255) % p25519
  let (x2, z2, _, _) := xLadder u k 255 (1, 0, u, 1)
  x2 * modPow p25519 z2 (p25519 - 2) % p25519

end Sys2Proof.Machine
end

