-- ==== Sys2Proof/Machine/Bne.lean ====
section
/-!
DEFINITION. The big-number engine and operand memory (R183 to R224), and the creation of cleats from operands and buffers
(R205, R266).
-/
set_option autoImplicit false

namespace Sys2Proof.Machine

/-! ### Statuses of Table 10.11 that the engine gives -/

def stAuthFail : Nat := 0x01
def stInputZero : Nat := 0x0A
def stInputRange : Nat := 0x0B
def stNotOnCurve : Nat := 0x0C
def stInternal : Nat := 0x14

/-! ### Unit fault codes (Table 6.4a) -/

def ufMisuse : Nat := 0x50
def ufOwned : Nat := 0x51
def ufStale : Nat := 0x52
def ufSec : Nat := 0x53
def ufOpmUe : Nat := 0x54

/-! ### Commands (R197) -/

/-- The words of a command (Table 6.3), CMD0 to CMD15, with the operation that starts. -/
structure BneCmd where
  op : Nat
  w  : List Nat

/-- The command staged in a mailbox; `op` stands for its OP where the command's own row gives it. -/
def PortIf.bneCmd (p : PortIf) (op : Option Nat) : BneCmd :=
  let w := (List.range 16).map fun i => p.word (0x40000 + 4 * i)
  { op := op.getD (w.getD 0 0 / 2 ^ 24), w := w }

/-- A field of a command word. -/
def BneCmd.f (c : BneCmd) (i lo w : Nat) : Nat := bitsOf (c.w.getD i 0) lo w
/-- DOM. -/
def BneCmd.dom (c : BneCmd) : Nat := c.f 0 16 8
/-- Bit `i` of CMD0. -/
def BneCmd.flag (c : BneCmd) (i : Nat) : Bool := bitOf (c.w.getD 0 0) i
/-- SA. -/
def BneCmd.sa (c : BneCmd) : Nat := c.f 1 16 16
/-- SB. -/
def BneCmd.sb (c : BneCmd) : Nat := c.f 1 0 16
/-- SC. -/
def BneCmd.sc (c : BneCmd) : Nat := c.f 2 16 16
/-- SD. -/
def BneCmd.sd (c : BneCmd) : Nat := c.f 2 0 16
/-- SOUT. -/
def BneCmd.sout (c : BneCmd) : Nat := c.f 3 16 16
/-- SOUT2. -/
def BneCmd.sout2 (c : BneCmd) : Nat := c.f 3 0 16
/-- The gang size. -/
def BneCmd.g (c : BneCmd) : Nat := c.f 4 8 5 + 1
/-- LANE, or the first cluster. -/
def BneCmd.lane (c : BneCmd) : Nat := c.f 4 0 5
/-- IN_OFF. -/
def BneCmd.inOff (c : BneCmd) : Nat := c.f 5 0 20
/-- IN_LEN. -/
def BneCmd.inLen (c : BneCmd) : Nat := c.f 6 0 16
/-- OUT_OFF. -/
def BneCmd.outOff (c : BneCmd) : Nat := c.f 7 0 20
/-- HANDLE. -/
def BneCmd.handle (c : BneCmd) : Nat := c.f 8 0 32
/-- ROWS. -/
def BneCmd.rows (c : BneCmd) : Nat := c.f 9 8 6
/-- USE, or KMODE of a KSTORE. -/
def BneCmd.use (c : BneCmd) : Nat := c.f 9 0 4
/-- FIRSTWIN. -/
def BneCmd.firstWin (c : BneCmd) : Nat := c.f 10 16 16
/-- NWIN. -/
def BneCmd.nWin (c : BneCmd) : Nat := c.f 10 0 16
/-- LE, DET, BUF_OUT, DEC, HALF_Q. -/
def BneCmd.le (c : BneCmd) : Bool := c.flag 8
def BneCmd.det (c : BneCmd) : Bool := c.flag 9
def BneCmd.bufOut (c : BneCmd) : Bool := c.flag 10
def BneCmd.dec (c : BneCmd) : Bool := c.flag 11
def BneCmd.halfQ (c : BneCmd) : Bool := c.flag 12

/-- The reserved bits of the command words of the engine (Table 6.3). -/
def bneRsv (i : Nat) : Nat :=
  match i with
  | 0 => 0xE0FF | 4 => 0xFFFFE0E0 | 5 => 0xFFF00000 | 6 => 0xFFFF0000 | 7 => 0xFFF00000 | 9 => 0xFFFFC0F0 | _ => 0

/-- A reserved bit of a word in use, or one of CMD11 to CMD15, is set (R197). -/
def BneCmd.reserved (c : BneCmd) (rsv : Nat → Nat) (words : List Nat) : Bool :=
  (words.any fun i => (c.w.getD i 0) &&& rsv i != 0) || (c.w.drop 11).any (· != 0)

/-! ### Operand memory (R189 to R196) -/

/-- One slot of a partition's region. -/
def State.opSlot (s : State) (part i : Nat) : OpSlot := SMap.get {} s.bne.slots (part * 65536 + i)

/-- A partition's region: slots and slot length in bits; no slots where there is no region. -/
def State.opRegion (s : State) (part : Nat) : Nat × Nat :=
  let p := s.part part
  if p.st = .none then (0, 64 * p.opmSlotLen) else (p.opmSlots, 64 * p.opmSlotLen)

/-- Slots that an operand of `bits` bits takes (R190). -/
def slotsOf (bits len : Nat) : Nat := ceilDiv bits len

/-- The value of an operand: the first slot holds the least significant words. -/
def State.operand (s : State) (part len first bits : Nat) : Nat :=
  ((List.range (slotsOf bits len)).foldl (fun v i => v + (s.opSlot part (first + i)).val * 2 ^ (len * i)) 0) % 2 ^ bits

/-- The LINK that ties a private operand to a public operand by their first slots; `pub` in the public one. -/
def linkOf (priv pub : Nat) (isPub : Bool) : Nat := 1 + 2 * (priv * 65536 + pub) + (if isPub then 1 else 0)

/-- The operands at `priv` and `pub` are linked to each other (R194). -/
def State.linked (s : State) (part priv n pub base m : Nat) : Bool :=
  ((List.range n).all fun i => (s.opSlot part (priv + i)).link == linkOf priv base false)
    && ((List.range m).all fun i => (s.opSlot part (pub + i)).link == linkOf priv base true)

/-- Break the link that a slot belongs to, at both of its operands. -/
def BneSt.unlink (b : BneSt) (part i : Nat) : BneSt :=
  let l := (SMap.get {} b.slots (part * 65536 + i)).link
  if l = 0 then b
  else
    let hit (e : Nat × OpSlot) : Bool := decide (e.1 / 65536 = part) && e.2.link != 0 && decide ((e.2.link - 1) / 2 = (l - 1) / 2)
    { b with slots := b.slots.filterMap fun (e : Nat × OpSlot) =>
        if hit e then (if ({ e.2 with link := 0 } : OpSlot) = {} then none else some (e.1, ({ e.2 with link := 0 } : OpSlot))) else some e }

/-- Write a slot as an output: SEC is kept, STALE clears, the first write claims the slot (R192, R193, R221). -/
def BneSt.putSlot (b : BneSt) (part own : Nat) (o : SlotOut) : BneSt :=
  let b := b.unlink part o.slot
  { b with slots := SMap.upd {} b.slots (part * 65536 + o.slot) fun (x : OpSlot) =>
      { val := o.val, sec := x.sec || o.sec, stale := false, owner := if x.owner = 0 then own + 1 else x.owner, link := 0 } }

/-- Set the link of a slot that has just been written. -/
def BneSt.linkSlot (b : BneSt) (part : Nat) (o : SlotOut) : BneSt :=
  match o.link with
  | some l => { b with slots := SMap.upd {} b.slots (part * 65536 + o.slot) fun (x : OpSlot) => { x with link := l } }
  | none => b

/-- CLEAR one slot (R202). -/
def BneSt.clearSlot (b : BneSt) (part i : Nat) : BneSt :=
  let b := b.unlink part i
  { b with slots := SMap.del b.slots (part * 65536 + i) }

/-- Slots take the abort state (R220). -/
def State.markStale (s : State) (part : Nat) (l : List Nat) : State :=
  let fresh := l.eraseDups.filter fun i => !(s.opSlot part i).stale
  if fresh.isEmpty then s
  else
    let slots := fresh.foldl (fun m i => SMap.upd {} m (part * 65536 + i) fun (x : OpSlot) => { x with stale := true }) s.bne.slots
    let s := { s with bne := { s.bne with slots := slots } }
    (s.incBy Reg.BNE.STALE_MARK_CNT fresh.length).raise pgBne 1

/-! ### Shapes: what an operation reads, writes and costs -/

/-- An operand: its first slot and its length in bits. -/
structure Opd where
  first : Nat
  bits  : Nat

/-- `k` operands of one length that follow one another. -/
def opds (first bits k len : Nat) : List Opd := (List.range k).map fun i => ⟨first + i * slotsOf bits len, bits⟩

/-- The slots of an operand. -/
def Opd.slots (o : Opd) (len : Nat) : List Nat := (List.range (slotsOf o.bits len)).map (o.first + ·)

/-- A linked pair: first slots and numbers of slots of the private and the public operand, and where the public operand
that LINK names begins. -/
structure Pair where
  priv : Nat
  n    : Nat
  pub  : Nat
  m    : Nat
  base : Nat

/-- The shape of an operation (Table 6.5 to Table 6.8). -/
structure Shape where
  words  : List Nat
  cost   : Nat
  h      : Nat := 0
  gmax   : Nat := 1
  ins    : List Opd := []
  /-- Output operands, and whether a table marks them secret. -/
  outs   : List (Opd × Bool) := []
  /-- The outputs are signatures or public keys, which stay public (R192). -/
  pub    : Bool := false
  /-- State of the previous chunk, which a slot without an owner cannot hold (R207). -/
  chunk  : List Opd := []
  inB    : Option (Nat × Nat) := none
  outB   : Option (Nat × Nat) := none
  misuse : Bool := false
  need   : Option Pair := none
  make   : Option Pair := none
  /-- Bytes drawn from the partition rill (R218). -/
  fresh  : Nat := 0
  checked : Bool := false

/-- A curve of Table 6.7 with its costs. -/
structure EcDom where
  c     : Curve
  bits  : Nat
  gmax  : Nat
  keygen : Nat
  sign   : Nat
  verify : Nat
  ecdh   : Nat
  pubchk : Nat

/-- The curve that DOM names. -/
def ecDom (dom : Nat) : Option EcDom :=
  match dom with
  | 1 => some ⟨p256, 256, 8, 21800, 15800, 7900, 6400, 120⟩
  | 2 => some ⟨p384, 384, 16, 130800, 94800, 47400, 38400, 240⟩
  | 3 => some ⟨p521, 576, 32, 399000, 289200, 144600, 117200, 540⟩
  | 4 => some ⟨bp256, 256, 8, 24000, 17400, 8700, 7000, 120⟩
  | _ => none

/-- Bytes of a coordinate, of r and of s in the buffer (R210). -/
def EcDom.bytes (e : EcDom) : Nat := ceilDiv (bitLen e.c.p) 8

/-- The cost of a modular multiplication of `k` digits (R186). -/
def ckOf (k : Nat) : Nat := k * k - k / 2

/-- Digits of a length. -/
def digits (bits : Nat) : Nat := ceilDiv bits 256

/-- Window width of an exponentiation (R206). -/
def winBits (k : Nat) : Nat := if k ≤ 8 then 4 else 6

/-- CMD7 is used where the operation writes the buffer. -/
def outWord (b : Bool) : List Nat := if b then [7] else []

/-- The shape of a modular or RSA operation; DOM is an operand length of 4 to 128 words. -/
def modShape (c : BneCmd) (len : Nat) : Option Shape :=
  let bits := 64 * c.dom
  let k := digits bits
  let ck := ckOf k
  let w := winBits k
  let gmax := min 32 (2 * k)
  let o (first : Nat) : Opd := ⟨first, bits⟩
  let out := [(o c.sout, false)]
  let table := opds c.sd bits (2 ^ w) len
  let win := ceilDiv bits w
  let cost := c.nWin * (w + 1) * ck + 64 + (if c.firstWin = 0 then 2 ^ w * ck else 0)
  let chunk := if c.firstWin = 0 then [] else o c.sout :: table
  let writes (sec : Bool) := (o c.sout, sec) :: (if c.firstWin = 0 then table.map (·, sec) else [])
  if c.dom < 4 || 128 < c.dom then none
  else
    match c.op with
    | 0x10 | 0x11 => some { words := [0, 1, 2, 3, 4], cost := 2 * k + 8, gmax := gmax, ins := [o c.sa, o c.sb, o c.sc], outs := out }
    | 0x12 => some { words := [0, 1, 2, 3, 4], cost := ck + 8, gmax := gmax, ins := [o c.sa, o c.sb, o c.sc], outs := out }
    | 0x13 => some { words := [0, 1, 2, 3, 4], cost := 3 * bits * k + 64, gmax := gmax, ins := [o c.sa, o c.sc], outs := out }
    | 0x14 => some {
        words := [0, 1, 2, 3, 4, 10], cost := cost, gmax := gmax, ins := [o c.sa, o c.sb, o c.sc] ++ chunk, outs := writes false,
        chunk := chunk, misuse := win < c.firstWin + c.nWin }
    | 0x20 => some {
        words := [0, 1, 3, 4, 5] ++ outWord c.bufOut, cost := 34 * ck + 64, gmax := gmax, ins := [o c.sa, o c.sb], outs := out,
        inB := some (c.inOff, bits / 8), outB := if c.bufOut then some (c.outOff, bits / 8) else none }
    | 0x21 => some {
        words := [0, 1, 2, 3, 4, 5, 10], cost := cost, gmax := gmax, ins := opds c.sa bits 5 len ++ chunk, outs := writes true,
        chunk := chunk, inB := some (c.inOff, bits / 4), misuse := win < c.firstWin + c.nWin }
    | _ =>
      let half := bits / 2
      let hs := slotsOf half len
      let ns := slotsOf bits len
      some {
        words := [0, 1, 2, 3, 4, 5] ++ outWord c.bufOut, cost := 43 * ck + 20, gmax := gmax,
        ins := opds c.sa half 5 len ++ [o c.sb, ⟨c.sc, half⟩, ⟨c.sd, half⟩], outs := [(o c.sout, c.dec)], pub := !c.dec,
        inB := some (c.inOff, bits / 8), outB := if c.bufOut then some (c.outOff, bits / 8) else none,
        need := some ⟨c.sa, 5 * hs, c.sb, ns, c.sb - ns⟩, misuse := c.sb < ns, checked := true }

/-- The shape of an operation on a curve of Table 6.7. -/
def ecShape (c : BneCmd) (len : Nat) : Option Shape :=
  (ecDom c.dom).bind fun e =>
    let b := e.bits
    let n := slotsOf b len
    let xy (first : Nat) := opds first b 2 len
    match c.op with
    | 0x30 => some {
        words := [0, 3, 4], cost := e.keygen, gmax := e.gmax, outs := (⟨c.sout, b⟩, true) :: (xy c.sout2).map (·, false), pub := true,
        make := some ⟨c.sout, n, c.sout2, 2 * n, c.sout2⟩, fresh := (b + 64) / 8, checked := true }
    | 0x31 => some {
        words := [0, 1, 3, 4, 5, 6] ++ outWord c.bufOut, cost := e.sign, h := if c.det then (if b = 256 then 960 else 1280) else 0,
        gmax := e.gmax, ins := ⟨c.sa, b⟩ :: xy c.sb, outs := (xy c.sout).map (·, false), pub := true,
        inB := some (c.inOff, c.inLen), outB := if c.bufOut then some (c.outOff, 2 * e.bytes) else none,
        misuse := c.inLen < 1 || 64 < c.inLen, need := some ⟨c.sa, n, c.sb, 2 * n, c.sb⟩,
        fresh := if c.det then 0 else (b + 64) / 8, checked := true }
    | 0x32 => some {
        words := [0, 1, 4, 5, 6], cost := e.verify, gmax := e.gmax, ins := xy c.sa ++ xy c.sb, inB := some (c.inOff, c.inLen),
        misuse := c.inLen < 1 || 64 < c.inLen }
    | 0x33 => some {
        words := [0, 1, 3, 4], cost := e.ecdh, gmax := e.gmax, ins := ⟨c.sa, b⟩ :: xy c.sb, outs := [(⟨c.sout, b⟩, true)], checked := true }
    | _ => some { words := [0, 1, 4], cost := e.pubchk, gmax := e.gmax, ins := xy c.sa }

/-- The shape of an operation of Table 6.8. -/
def edShape (c : BneCmd) (len : Nat) : Option Shape :=
  let n := slotsOf 256 len
  let o (first : Nat) : Opd := ⟨first, 256⟩
  let l := c.inLen
  match c.op, c.dom with
  | 0x38, 6 => some {
      words := [0, 3, 4], cost := 19000, h := 320, gmax := 8, outs := [(o c.sout, true), (o c.sout2, false)], pub := true,
      make := some ⟨c.sout, n, c.sout2, n, c.sout2⟩, fresh := 32, checked := true }
  | 0x39, 6 => some {
      words := [0, 1, 3, 4, 5, 6] ++ outWord c.bufOut, cost := 13600, h := 80 * (1 + ceilDiv (l + 49) 128 + ceilDiv (l + 81) 128), gmax := 8,
      ins := [o c.sa, o c.sb], outs := (opds c.sout 256 2 len).map (·, false), pub := true, inB := some (c.inOff, l),
      outB := if c.bufOut then some (c.outOff, 64) else none, misuse := 4096 < l, need := some ⟨c.sa, n, c.sb, n, c.sb⟩, checked := true }
  | 0x3A, 6 => some {
      words := [0, 1, 4, 5, 6], cost := 6800, h := 80 * ceilDiv (l + 81) 128, gmax := 8, ins := o c.sa :: opds c.sb 256 2 len,
      inB := some (c.inOff, l), misuse := 4096 < l }
  | 0x3B, 5 => some {
      words := [0, 3, 4], cost := 5800, gmax := 8, outs := [(o c.sout, true), (o c.sout2, false)], pub := true, fresh := 32 }
  | 0x3C, 5 => some { words := [0, 1, 3, 4], cost := 5800, gmax := 8, ins := [o c.sa, o c.sb], outs := [(o c.sout, true)] }
  | _, _ => none

/-- The private and public operands of a key as KLOAD places and KSTORE takes them (Table 6.5a): for the ALG of the entry
concerned, none where DOM does not agree with it (R190, Table 8.2). Of an RSA public key, DOM is the length of n. -/
def keyOpds (alg dom : Nat) : Option ((Nat × Nat) × (Nat × Nat)) :=
  if 0x10 ≤ alg ∧ alg ≤ 0x13 ∧ dom = alg - 0x0F ∨ 0x18 ≤ alg ∧ alg ≤ 0x1B ∧ dom = alg - 0x17 then
    (ecDom dom).map fun e => ((1, e.bits), (2, e.bits))
  else if (alg = 0x20 ∨ alg = 0x21) ∧ dom = 6 ∨ (alg = 0x22 ∨ alg = 0x23) ∧ dom = 5 then some ((1, 256), (1, 256))
  else if alg = 0x30 ∧ 4 ≤ dom ∧ dom ≤ 64 then some ((5, 64 * dom), (2, 128 * dom))
  else if alg = 0x31 ∧ 8 ≤ dom ∧ dom ≤ 128 then some ((5, 32 * dom), (2, 64 * dom))
  else none

/-- The operands that a KLOAD names: by its entry, or, where the handle names none that agrees, by DOM alone. -/
def kloadOpds (e : Option Entry) (dom : Nat) : (Nat × Nat) × (Nat × Nat) :=
  match e.bind fun x => keyOpds x.alg dom with
  | some r => r
  | none =>
    if dom ≤ 4 then
      match ecDom dom with
      | some d => ((1, d.bits), (2, d.bits))
      | none => ((1, 256), (2, 256))
    else if dom ≤ 6 then ((1, 256), (1, 256))
    else ((5, 64 * dom), (2, 128 * dom))

/-- The operands at SA and SB of a KSTORE in SLOTS mode; none where DOM does not agree with the template's ALG. -/
def kstoreOpds (t : Entry) (dom : Nat) : Option ((Nat × Nat) × (Nat × Nat)) :=
  if 1 ≤ t.alg ∧ t.alg ≤ 8 then
    if 4 ≤ dom ∧ dom ≤ 128 ∧ t.klen ≤ dom * 8 then some ((1, 64 * dom), (0, 64)) else none
  else if t.alg = 0x30 ∧ t.kbits ≠ 128 * dom then none
  else if t.alg % 0x10 < 8 ∧ t.alg ≠ 0x21 ∧ t.alg ≠ 0x23 ∧ t.alg ≠ 0x31 then keyOpds t.alg dom
  else none

/-- The shape of a data-movement operation (Table 6.5). `e` is the entry that HANDLE names, `t` the template. -/
def moveShape (c : BneCmd) (len : Nat) (e : Option Entry) (t : Entry) : Option Shape :=
  let bits := 64 * c.dom
  match c.op with
  | 0x01 =>
    if c.dom < 4 || 128 < c.dom then none
    else some {
      words := [0, 3, 4, 5, 6], cost := 8 + ceilDiv c.inLen 32, outs := [(⟨c.sout, bits⟩, false)], inB := some (c.inOff, c.inLen),
      misuse := bits / 8 < c.inLen }
  | 0x02 =>
    if c.dom < 4 || 128 < c.dom then none
    else some {
      words := [0, 1, 4, 6, 7], cost := 8 + ceilDiv c.inLen 32, ins := [⟨c.sa, bits⟩], outB := some (c.outOff, c.inLen),
      misuse := bits / 8 < c.inLen }
  | 0x03 => some {
      words := [0, 3, 4, 6], cost := 8 + ceilDiv (c.inLen * len) 256, outs := (opds c.sout len (min c.inLen 256) len).map (·, false),
      misuse := c.inLen < 1 || 256 < c.inLen }
  | 0x04 =>
    if c.dom < 1 || 128 < c.dom then none
    else
      let ((pn, pb), (qn, qb)) := kloadOpds e c.dom
      let priv := if c.use = 7 then [] else opds c.sout pb pn len
      let made : Option Pair := if c.use = 7 then none else some ⟨c.sout, pn * slotsOf pb len, c.sout2, qn * slotsOf qb len, c.sout2⟩
      some {
        words := [0, 3, 8, 9], cost := 60 * c.rows, outs := priv.map (·, true) ++ (opds c.sout2 qb qn len).map (·, false), pub := true,
        make := made, misuse := !([1, 4, 5, 7].contains c.use) }
  | _ =>
    let slots := if c.use = 1 then kstoreOpds t c.dom else none
    let ins := match slots with
      | some ((pn, pb), (qn, qb)) => opds c.sa pb pn len ++ opds c.sb qb qn len
      | none => []
    let more := if c.use = 4 then (publicLen t.alg t.klen t.kbits t.pubexp).getD 0 else 0
    some {
      words := [0, 1, 4, 5, 7, 8, 9], cost := 16, ins := ins, inB := some (c.inOff, 48 + more),
      outB := some (c.outOff, 8), fresh := if c.use = 3 then t.klen else 0,
      misuse := c.use < 1 || 6 < c.use || (c.use ≠ 1 && c.dom ≠ 0) }

/-- The shape of an operation; none for a reserved OP or DOM. -/
def bneShape (c : BneCmd) (len : Nat) (e : Option Entry) (t : Entry) : Option Shape :=
  if 1 ≤ c.op ∧ c.op ≤ 5 then moveShape c len e t
  else if 0x10 ≤ c.op ∧ c.op ≤ 0x14 ∨ 0x20 ≤ c.op ∧ c.op ≤ 0x22 then modShape c len
  else if 0x30 ≤ c.op ∧ c.op ≤ 0x34 then ecShape c len
  else if 0x38 ≤ c.op ∧ c.op ≤ 0x3C then edShape c len
  else none

/-! ### What an operation computes -/

/-- The outcome: result code, whether a SIG_FAULT counts against no lane, output operands, buffer output. -/
structure Eval where
  code : Nat := 0
  nolane : Bool := false
  outs : List Nat := []
  buf  : List Byte := []

/-- The first input check that fails (R213). -/
def inputCode (range zero curve : Bool) : Nat :=
  if range then stInputRange else if zero then stInputZero else if curve then stNotOnCurve else 0

/-- A byte string of the buffer as a number (R197). -/
def bufNat (le : Bool) (b : List Byte) : Nat := if le then leNat b else beNat b

/-- A digest of the buffer in the order of its standard (R9, R197); a message has no byte order (notes/assumptions/74.md). -/
def bufDigest (le : Bool) (b : List Byte) : List Byte := if le then b.reverse else b

/-- A number as a byte string of the buffer. -/
def natBuf (le : Bool) (n v : Nat) : List Byte := if le then leBytes n v else beBytes n v

/-- A modulus that the engine refuses: even, or below 3 (R206, R214). -/
def badMod (n : Nat) : Bool := n % 2 == 0 || decide (n < 3)

/-- A stretch of windows of an exponentiation: the running result continued (R206, R207). -/
def expChunk (n base e w win first cnt run : Nat) : Nat :=
  let part := e / 2 ^ (w * (win - first - cnt)) % 2 ^ (w * cnt)
  modPow n run (2 ^ (w * cnt)) * modPow n base part % n

/-- The table of powers of a base. -/
def powTable (n base w : Nat) : List Nat := (List.range (2 ^ w)).map fun j => modPow n base j

/-- Modular and RSA operations. `v` are the input operands in the order of the shape, `b` the buffer input. -/
def modEval (c : BneCmd) (v : List Nat) (b : List Byte) : Eval :=
  let a := v.getD 0 0
  let bits := 64 * c.dom
  let w := winBits (digits bits)
  let win := ceilDiv bits w
  let chunk (n base e run : Nat) : Eval :=
    { outs := expChunk n base e w win c.firstWin c.nWin (if c.firstWin = 0 then 1 else run)
        :: (if c.firstWin = 0 then powTable n base w else []) }
  match c.op with
  | 0x10 | 0x11 | 0x12 =>
    let y := v.getD 1 0
    let n := v.getD 2 0
    let code := inputCode (badMod n || n ≤ a || n ≤ y) false false
    if code ≠ 0 then { code := code }
    else { outs := [if c.op = 0x10 then (a + y) % n else if c.op = 0x11 then modSub n a y else a * y % n] }
  | 0x13 =>
    let n := v.getD 1 0
    let code := inputCode (badMod n || n ≤ a) (a = 0 || (modInv n a).isNone) false
    if code ≠ 0 then { code := code } else { outs := [(modInv n a).getD 0] }
  | 0x14 =>
    let e := v.getD 1 0
    let n := v.getD 2 0
    let code := inputCode (badMod n || n ≤ a) (e = 0) false
    if code ≠ 0 then { code := code }
    else
      -- Table 6.9: a base of zero gives the result 0, in every chunk.
      let r := chunk n a e (v.getD 3 0)
      if a = 0 then { r with outs := 0 :: r.outs.drop 1 } else r
  | 0x20 =>
    let e := v.getD 1 0
    let m := bufNat c.le b
    let code := inputCode (badMod a || a ≤ m || e = 0 || 2 ^ 17 ≤ e) (m = 0) false
    if code ≠ 0 then { code := code }
    else
      let r := modPow a m e
      { outs := [r], buf := natBuf c.le (bits / 8) r }
  | 0x21 =>
    let q := v.getD 1 0
    let code := inputCode (badMod a || badMod q) false false
    if code ≠ 0 then { code := code }
    else
      let m := if c.halfQ then q else a
      chunk m (bufNat c.le b % m) (if c.halfQ then v.getD 3 0 else v.getD 2 0) (v.getD 5 0)
  | _ =>
    let q := v.getD 1 0
    let n := a * q
    let e := v.getD 5 0
    let m := bufNat c.le b
    let code := inputCode (badMod a || badMod q || n ≤ m || e = 0 || 2 ^ 17 ≤ e) (m = 0) false
    if code ≠ 0 then { code := code }
    else
      let mq := v.getD 7 0
      let r := (mq + (v.getD 4 0 * modSub a (v.getD 6 0) mq % a) * q) % 2 ^ bits
      if modPow n r e = m then { outs := [r], buf := natBuf c.le (bits / 8) r } else { code := stSigFault }

/-- A number in [1, n − 1] from extra random bits (R211). -/
def extraBits (n : Nat) (rnd : List Byte) : Nat := beNat rnd % (n - 1) + 1

/-- HMAC of the nonce unit (R211). -/
def nonceHmac (e : EcDom) : (List Byte → List Byte → List Byte) × Nat :=
  if e.bits = 256 then (hmac sha256 64, 32) else (hmac sha512 128, 64)

/-- The checks of a point and a scalar. -/
def pointBad (c : Curve) (x y : Nat) : Bool × Bool := (c.p ≤ x || c.p ≤ y, !c.on x y)

/-- Operations on the curves of Table 6.7. -/
def ecEval (c : BneCmd) (e : EcDom) (v : List Nat) (b rnd : List Byte) : Eval :=
  let cv := e.c
  let x (i : Nat) : Nat := v.getD i 0
  match c.op with
  | 0x30 =>
    let d := extraBits cv.n rnd
    let q := cv.mulP d cv.g
    { outs := [d, xOf q, yOf q] }
  | 0x31 =>
    let (pr, pc) := pointBad cv (x 1) (x 2)
    let code := inputCode (cv.n ≤ x 0 || pr) (x 0 = 0) pc
    if code ≠ 0 then { code := code }
    else
      let h := ecTrunc cv.n (bufDigest c.le b)
      let (hm, hl) := nonceHmac e
      let k := if c.det then rfc6979 hm hl cv.n (x 0) h else extraBits cv.n rnd
      let (r, t) := cv.sign (x 0) k h
      if r = 0 || t = 0 then { code := stSigFault, nolane := true }
      else if !cv.verify (x 1, x 2) h r t then { code := stSigFault }
      else { outs := [r, t], buf := natBuf c.le e.bytes r ++ natBuf c.le e.bytes t }
  | 0x32 =>
    let (pr, pc) := pointBad cv (x 0) (x 1)
    let code := inputCode (cv.n ≤ x 2 || cv.n ≤ x 3 || pr) (x 2 = 0 || x 3 = 0) pc
    if code ≠ 0 then { code := code }
    else { code := if cv.verify (x 0, x 1) (ecTrunc cv.n (bufDigest c.le b)) (x 2) (x 3) then 0 else stAuthFail }
  | 0x33 =>
    let (pr, pc) := pointBad cv (x 1) (x 2)
    let code := inputCode (cv.n ≤ x 0 || pr) (x 0 = 0) pc
    if code ≠ 0 then { code := code } else { outs := [xOf (cv.mulP (x 0) (some (x 1, x 2)))] }
  | _ =>
    let (pr, pc) := pointBad cv (x 0) (x 1)
    { code := inputCode pr false pc }

/-- Curve25519 and edwards25519. -/
def edEval (c : BneCmd) (v : List Nat) (b rnd : List Byte) : Eval :=
  let x (i : Nat) : Nat := v.getD i 0
  let y (e : Nat) : Nat := e % 2 ^ 255
  match c.op with
  | 0x38 => { outs := [leNat rnd, edPublic rnd] }
  | 0x39 =>
    let code := inputCode (p25519 ≤ y (x 1)) false (edDecode (x 1)).isNone
    if code ≠ 0 then { code := code }
    else
      let sig := edSignMsg (leBytes 32 (x 0)) (x 1) b
      let r := leNat (sig.take 32)
      let t := leNat (sig.drop 32)
      let good := match edDecode (x 1), edDecode r with
        | some pa, some pr => edVerifyPts pa pr (x 1) r t b
        | _, _ => false
      if good then { outs := [r, t], buf := natBuf c.le 32 r ++ natBuf c.le 32 t } else { code := stSigFault }
  | 0x3A =>
    let range := p25519 ≤ y (x 0) || p25519 ≤ y (x 1) || l25519 ≤ x 2
    match edDecode (x 0), edDecode (x 1) with
    | some pa, some pr =>
      let code := inputCode range (x 2 = 0) false
      if code ≠ 0 then { code := code } else { code := if edVerifyPts pa pr (x 0) (x 1) (x 2) b then 0 else stAuthFail }
    | _, _ => { code := inputCode range (x 2 = 0) true }
  | 0x3B => { outs := [leNat rnd, x25519Fn (leNat rnd) 9] }
  | _ =>
    let r := x25519Fn (x 0) (x 1)
    if r = 0 then { code := stInputZero } else { outs := [r] }

/-- What an operation other than KLOAD and KSTORE computes. -/
def bneEval (c : BneCmd) (v : List Nat) (b rnd : List Byte) : Eval :=
  match c.op with
  | 0x01 => { outs := [bufNat c.le b] }
  | 0x02 => { buf := natBuf c.le c.inLen (v.getD 0 0) }
  | 0x03 => {}
  | _ =>
    if c.op < 0x30 then modEval c v b
    else if c.op < 0x38 then
      match ecDom c.dom with
      | some e => ecEval c e v b rnd
      | none => {}
    else edEval c v b rnd

/-! ### Starting an operation (R188, R198) -/

/-- Windows on each of `n` units from `first` on. -/
def State.windows (s : State) (slot kind first n a b : Nat) : Bool :=
  (List.range n).all fun i => s.window slot kind (first + i) 1 a b

/-- A BNE or PU operation of a Sheave is in progress at cycle `a` (R198). -/
def State.unitBusy (s : State) (y l a : Nat) : Bool :=
  s.flights.any fun f => (f.kind == .bne || f.kind == .pu) && f.tag.y == y && f.tag.l == l && decide (a < f.r)

/-- The last fault of the BNE page. -/
def State.bneLast (s : State) (t : Tag) (code : Nat) : State :=
  let s := (s.setReg Reg.BNE.LF_CODE code).setReg Reg.BNE.LF_PART t.part
  (s.setReg Reg.BNE.LF_CLASS t.cls).setReg Reg.BNE.LF_FRAME s.frame32

/-- A unit fault of the engine marks its item (R201). -/
def State.bneFault (s : State) (t : Tag) (code phys cyc : Nat) : State :=
  let s := s.bneLast t code
  let (m, s) := s.markItem t code phys 3 cyc
  if m then s.fault 1 (if code = ufOpmUe then srcOpm else srcLane) 0 phys else s

/-- STATUS in the port window. -/
def bneStatus : Nat := 0x40050

/-- The port key of the operations of a Sheave. -/
def mailKey (y l : Nat) : Nat := y * 16 + l

/-- A gang that R184 allows for a command whose largest gang is `gmax`. -/
def BneCmd.gangOk (c : BneCmd) (gmax : Nat) : Bool :=
  [1, 2, 4, 8, 16, 32].contains c.g && decide (c.g ≤ gmax) && decide (c.lane + c.g ≤ 32)

/-- The largest gang of an OP whose command has no shape: one lane for the operations of Table 6.5, eight for those of Ed25519 and X25519,
and for an OP or DOM that no table names only the bound of R184. -/
def BneCmd.opGang (c : BneCmd) : Nat :=
  if 1 ≤ c.op ∧ c.op ≤ 5 then 1 else if 0x38 ≤ c.op ∧ c.op ≤ 0x3C then 8 else 32

/-- The codes of Table 6.4a that a command gives, but for OPM_UE. -/
def State.bneCodes (s : State) (y l part slots len : Nat) (i : Option Item) (c : BneCmd) (sh : Option Shape) : List Nat :=
  match sh with
  | none => [ufMisuse]
  | some sh =>
    let own := mailKey y l + 1
    let inS := sh.ins.flatMap fun o => o.slots len
    let outS := sh.outs.flatMap fun o => o.1.slots len
    let all := inS ++ outS
    let blen := match i with
      | some i => (s.bufferOf i).2
      | none => 0
    let room (b : Option (Nat × Nat)) : Bool := match b with
      | some (o, n) => decide (o + n ≤ blen)
      | none => true
    let slot (j : Nat) : OpSlot := s.opSlot part j
    let secIn := inS.any fun j => (slot j).sec
    let secOut := (!sh.pub && secIn) || (sh.outs.any fun o => o.2) || outS.any fun j => (slot j).sec
    let misuse := sh.misuse || c.reserved bneRsv sh.words || (c.op ≠ 4 && !c.gangOk sh.gmax) || slots = 0
      || all.any (slots ≤ ·) || !room sh.inB || !room sh.outB
      || (match sh.outB with | some (o, _) => o % 4 != 0 | none => false)
      || (sh.chunk.flatMap fun o => o.slots len).any (fun j => (slot j).owner == 0)
      || (match sh.need with | some p => !(s.linked part p.priv p.n p.pub p.base p.m) | none => false)
    (if misuse then [ufMisuse] else [])
      ++ (if all.any fun j => (slot j).owner != 0 && (slot j).owner != own then [ufOwned] else [])
      ++ (if c.op ≠ 2 && inS.any (fun j => (slot j).stale) then [ufStale] else [])
      ++ (if (c.op = 2 && secIn) || (c.op = 0x22 && c.bufOut && c.dec) || (c.op ≠ 2 && c.op ≠ 5 && sh.outB.isSome && secOut) then [ufSec] else [])

/-- The residue flags of a gang clear at its GO (R216). -/
def State.clearResidue (s : State) (gang : List Nat) : State :=
  { s with bne := { s.bne with residue := s.bne.residue.filter fun p => !gang.contains p } }

/-- A misused command: it occupies its units for 8 cycles, marks the item and reports 0x14 at a + 12 (R198). -/
def State.bneMisuse (s : State) (y l : Nat) (c : BneCmd) (gmax code : Nat) : Eff :=
  let a := fabricOf (s.sheave y l).cpu.cyc
  let tag := s.tagOf y l
  let n := if c.gangOk gmax then c.g else 1
  let fits := if c.op = 4 then s.window tag.slot 5 0 1 a (a + 8) else s.windows tag.slot 3 c.lane n a (a + 8)
  if !fits then .fault 0x06
  else
    let s := s.bneFault tag code (s.poolUnit 3 c.lane) a
    let s := if c.op = 4 then s else s.clearResidue ((List.range n).map fun i => s.poolUnit 3 (c.lane + i))
    let s := if c.op = 4 then s else s.inc64 Reg.BNE.LANE_CYCLES_LO Reg.BNE.LANE_CYCLES_HI (8 * n)
    let s := s.updPort y l fun p => p.results [] [(bneStatus, 0)]
    .ok (s.launch { kind := .bne, logic := mailKey y l, tag := tag, start := a, stop := a + 8, r := a + 12, code := stInternal }) [] none

/-- The slots that the output operands fill, with values and links. -/
def slotOuts (sh : Shape) (len : Nat) (sec : Bool) (vals : List Nat) : List SlotOut :=
  let link (j : Nat) : Option Nat := match sh.make with
    | some p =>
      if p.priv ≤ j && j < p.priv + p.n then some (linkOf p.priv p.base false)
      else if p.pub ≤ j && j < p.pub + p.m then some (linkOf p.priv p.base true)
      else none
    | none => none
  ((List.range sh.outs.length).zip sh.outs).flatMap fun e =>
    let v := vals.getD e.1 0
    let o := e.2.1
    (List.range (slotsOf o.bits len)).map fun i =>
      { slot := o.first + i, val := v / 2 ^ (len * i) % 2 ^ len, sec := e.2.2 || (sec && !sh.pub), link := link (o.first + i) }

/-- One blinding draw for an operation that reads a SEC operand (R218): 64 B of wire rill 1, whose generate call gives 4 KB, 64 draws
(Table 13.1). -/
def State.blindDraw (s : State) : Bool × State :=
  if s.rillServes 321 then
    let n := SMap.get 0 s.spring.blockCnt 321
    let s := if n = 0 then s.rillCalls 321 1 else s
    (true, { s with spring := { s.spring with blockCnt := SMap.put 0 s.spring.blockCnt 321 ((n + 1) % 64) } })
  else (false, (s.rillRefused 321).wireExhausted 321)

/-- Fresh bytes of the partition rill, in requests of up to 64 B (Table 13.1); none are asked for where `n` is 0. -/
def State.freshDraw (s : State) (part n : Nat) : Option (List Byte) × State :=
  if n = 0 then (some [], s)
  else
    match s.rillDraw part (ceilDiv n 64) with
    | (some k, s) => (some (randBytes k n), s)
    | (none, s) => (none, s)

/-- The components of an entry in operand order (Table 6.5a): private, then public. -/
def Entry.components (e : Entry) : List Nat × List Nat :=
  let m := e.material
  let be (n i : Nat) : Nat := beNat (cut m (n * i) n)
  if 0x10 ≤ e.alg ∧ e.alg ≤ 0x13 then
    let n := eccLen (e.alg - 0x10)
    ([be n 0], [be n 1, be n 2])
  else if 0x18 ≤ e.alg ∧ e.alg ≤ 0x1B then
    let n := eccLen (e.alg - 0x18)
    ([], [be n 0, be n 1])
  else if e.alg = 0x20 ∨ e.alg = 0x22 then ([leNat (m.take 32)], [leNat (cut m 32 32)])
  else if e.alg = 0x30 then
    let n := e.kbits / 16
    ((List.range 5).map (be n), [be n 0 * be n 1, e.pubexp])
  else if e.alg = 0x31 then ([], [beNat m, e.pubexp])
  else ([], [leNat (m.take 32)])

/-- The form check of a KLOAD (R260): ALG agrees with DOM and the rows are the entry's; a public entry serves USE 7
only. -/
def kloadForm (dom rows use : Nat) (e : Entry) : Bool :=
  (keyOpds e.alg dom).isSome && e.rows == rows && (e.alg != 0x30 || e.kbits == 128 * dom) && (e.alg != 0x31 || e.kbits == 64 * dom)
    && (use == 7 || !([0x18, 0x19, 0x1A, 0x1B, 0x21, 0x23, 0x31].contains e.alg))

/-- The material and the conditions of a KSTORE (Table 8.6). -/
def State.kstoreMat (s : State) (y l part len : Nat) (c : BneCmd) (t : Entry) (v : List Nat) (buf rnd : List Byte) : List Byte × Bool :=
  match c.use with
  | 1 =>
    match kstoreOpds t c.dom with
    | none => ([], false)
    | some ((pn, pb), (qn, qb)) =>
      let n := pn * slotsOf pb len
      let sec := (List.range n).all fun i => (s.opSlot part (c.sa + i)).sec
      let link := qn = 0 || s.linked part c.sa n c.sb c.sb (qn * slotsOf qb len)
      let mat :=
        if t.alg ≤ 8 then beBytes t.klen (v.getD 0 0)
        else if t.alg < 0x18 then (v.take 3).flatMap (beBytes (eccLen (t.alg - 0x10)))
        else if t.alg = 0x30 then (v.take 5).flatMap (beBytes (t.kbits / 16))
        else (v.take 2).flatMap (leBytes 32)
      (mat, sec && link)
  | 2 =>
    let q := (s.sheave y l).cpu.q.toList
    let n := ceilDiv t.klen 16
    ((q.flatMap fun a => quadBytes a.val).take t.klen, decide (n ≤ 4) && (q.take n).all Acc.sealed && decide (t.alg ≤ 8))
  | 3 => (rnd, decide (t.alg ≤ 8))
  | 4 => (buf.drop 48, (publicLen t.alg t.klen t.kbits t.pubexp).isSome)
  | _ => ([], true)

/-- Arguments of a BNE flight: OP, whether it carries an output check, whether its SIG_FAULT counts against no lane, STALE_READ,
whether its outputs are cleared. -/
def bneArgs (op : Nat) (checked nolane stale clear : Bool) : List Nat :=
  [op, checked.toNat, nolane.toNat, stale.toNat, clear.toNat]

/-- GO of a command of the engine (R188, R197 to R205). `bad` is a row check failure of a KLOAD. -/
def startBne (c : BneCmd) (bad : Option (Fin 32)) (y l : Nat) (s : State) : Eff :=
  let a := fabricOf (s.sheave y l).cpu.cyc
  let tag := s.tagOf y l
  let part := tag.part
  let it := s.item tag.item
  if s.unitBusy y l a then .ok (s.bneFault tag ufMisuse (s.poolUnit 3 c.lane) a) [] none
  else
    let (slots, len) := s.opRegion part
    let base := match it with
      | some i => (s.bufferOf i).1
      | none => 0
    let tmpl := s.ymemRead y (base + c.inOff) 48
    let t := tmplEntry tmpl
    let own := (s.named c.handle).bind fun x => if x.2.ofPart part then some x.2 else none
    let shape := bneShape c len own t
    match shape, s.bneCodes y l part slots len it c shape with
    | some sh, [] =>
      let occ := ceilDiv sh.cost c.g + sh.h
      let occ := if c.op = 4 then sh.cost else occ
      let fits := if c.op = 4 then s.window tag.slot 5 0 1 a (a + occ) else s.windows tag.slot 3 c.lane c.g a (a + occ)
      if !fits then .fault 0x06
      else
        let inS := sh.ins.flatMap fun o => o.slots len
        let sec := inS.any fun j => (s.opSlot part j).sec
        let gang := if c.op = 4 then [] else (List.range c.g).map fun i => s.poolUnit 3 (c.lane + i)
        let s := s.clearResidue gang
        let s := if c.op = 4 then s else s.inc64 Reg.BNE.LANE_CYCLES_LO Reg.BNE.LANE_CYCLES_HI (occ * c.g)
        let (blind, s) := if sec then s.blindDraw else (true, s)
        let (fresh, s) := s.freshDraw part sh.fresh
        let rnd := fresh.getD []
        let v := sh.ins.map fun o => s.operand part len o.first o.bits
        let (b, s) := match sh.inB with
          | some (o, n) => s.unitRead tag false (base + o) n a
          | none => ([], s)
        let (ev, kreq, s) : Eval × Option KReq × State :=
          if c.op = 4 then
            let (o, s) := s.cleatRead part c.handle c.use (bad.map Fin.val) (kloadForm c.dom c.rows c.use)
            match o with
            | .granted _ e =>
              let (pr, pu) := e.components
              ({ outs := (if c.use = 7 then [] else pr) ++ pu }, none, s)
            | .check => ({ code := stInternal }, none, s.markRow tag (a + occ))
            | .absent => ({ code := stKeyAbsent }, none, s)
            | .usage => ({ code := stKeyUsage }, none, s)
          else if !blind then ({ code := stRngHealth }, none, s)
          else if c.op = 5 then
            let (mat, ok) := s.kstoreMat y l part len c t v b rnd
            ({}, some { mode := c.use, tmpl := tmpl, mat := mat, handle := c.handle, out := base + c.outOff, ok := ok, rng := fresh.isNone }, s)
          else if fresh.isNone then ({ code := stRngHealth }, none, s)
          else (bneEval c v b rnd, none, s)
        let good := ev.code = 0 || ev.code = stAuthFail
        let failSec := c.op = 4 && !good
        let sl := (slotOuts sh len sec (if good then ev.outs else [])).map fun (o : SlotOut) =>
          if good then o else { o with link := none, sec := o.sec || failSec }
        let bufs := match sh.outB with
          | some (o, n) => [({ addr := base + o, bytes := if good then fitBytes n ev.buf else List.replicate n 0 } : BufOut)]
          | none => []
        let s := s.updPort y l fun p => p.results [] [(bneStatus, 0)]
        let s := s.updItem tag.item fun i => { i with wrote := (i.wrote ++ sl.map SlotOut.slot).eraseDups }
        let stale := c.op = 2 && inS.any fun j => (s.opSlot part j).stale
        .ok (s.launch {
          kind := .bne, logic := mailKey y l, phys := gang, tag := tag, start := a, stop := a + occ, r := a + occ + 4,
          slots := sl, bufs := bufs, code := ev.code, kreq := kreq,
          args := bneArgs c.op sh.checked ev.nolane stale (c.op = 3) }) [] none
    | sh, codes => s.bneMisuse y l c ((sh.map Shape.gmax).getD c.opGang) (codes.foldl min ufSec)

/-! ### The result time (R188, R199, R200, R215, R216) -/

/-- A result with zeroed outputs (R200). -/
def Flight.zeroed (f : Flight) (code : Nat) : Flight :=
  { f with
    code := code, kreq := none,
    slots := f.slots.map fun (o : SlotOut) => { o with val := 0, link := none },
    bufs := f.bufs.map fun (b : BufOut) => { b with bytes := List.replicate b.bytes.length 0 } }

/-- An argument of a BNE flight as a flag. -/
def Flight.arg (f : Flight) (i : Nat) : Bool := f.args.getD i 0 != 0

/-- An uncorrectable error of operand memory: counted; a second one within 2²⁰ frames is F3 (R195). -/
def State.opmUe (s : State) : State :=
  let s := (s.inc Reg.BNE.OPM_UE_CNT).raise pgBne 5
  let ts := s.bne.ueFrames ++ [s.frame.ticks]
  let s := { s with bne := { s.bne with ueFrames := ts } }
  if closeFaults 2 ts then ({ s with glob := { s.glob with memUe := true } }).fault 3 srcOpm 0 0 else s

/-- A SIG_FAULT counts against lanes: those of the gang whose residue flag is set, or the whole gang (R216). -/
def State.sigFault (s : State) (f : Flight) (flags : Nat) : State :=
  let set := f.phys.filter fun p => bitOf flags p
  let lanes := if f.arg 2 then [] else if set.isEmpty then f.phys else set
  let bits := lanes.foldl (fun v p => orBit v p) 0
  let s := ((s.inc Reg.BNE.SIG_FAULT_CNT).bneLast f.tag stSigFault).setReg Reg.BNE.LF_LANES_LO bits
  let s := (s.setReg Reg.BNE.LF_LANES_HI (bits / 2 ^ 32)).raise pgBne 0
  lanes.foldl (fun s p => (s.nibble Reg.BNE.LANE_FAULTS p).poolFaultCount 3 p) s

/-- A wrong result of an operation without an output check is released as it stands (R216): the numbers of an operation that ended
well, and the outcome of a verification, of EC_PUBCHK's curve equation and of X25519's zero test, are free. Operations that move
data make no product. -/
def State.wrongResult (s : State) (f : Flight) : Flight × State :=
  let op := f.args.headD 0
  let (k, s) := s.draw
  let pick (a b : Nat) : Nat := if Config.freeNat k % 2 = 0 then a else b
  let free : Flight := { f with
    code := 0,
    slots := f.slots.map fun (o : SlotOut) => { o with val := Config.freeNat (k + o.slot) % 2 ^ (s.opRegion f.tag.part).2 },
    bufs := f.bufs.map fun (b : BufOut) => { b with bytes := randBytes k b.bytes.length } }
  if op < 0x10 then (f, s)
  else if (op = 0x32 || op = 0x3A) && (f.code = 0 || f.code = stAuthFail) then ({ f with code := pick 0 stAuthFail }, s)
  else if op = 0x34 && (f.code = 0 || f.code = stNotOnCurve) then ({ f with code := pick 0 stNotOnCurve }, s)
  else if op = 0x3C && (f.code = 0 || f.code = stInputZero) then
    (if free.slots.all fun (o : SlotOut) => o.val == 0 then { free with code := stInputZero } else free, s)
  else if f.code = 0 then (free, s)
  else (f, s)

/-- What the checks find, applied to a result of the engine. -/
def State.bneChecks (s : State) (f : Flight) (flt : BneFlt) : Flight × State :=
  let misused := f.args.isEmpty
  let s := match flt with
    | .output flags => { s with bne := { s.bne with residue := (s.bne.residue ++ f.phys.filter fun p => bitOf flags.toNat p).eraseDups } }
    | _ => s
  match flt with
  | .ce =>
    let s := ((s.sat Reg.BNE.OPM_CE_CNT).raise pgBne 4).fault 0 srcOpm 0 0
    (f, if f.code = stSigFault then s.sigFault f 0 else s)
  | .keccak _ _ => (f, if f.code = stSigFault then s.sigFault f 0 else s)
  | .ue => if misused then (f, s) else (f.zeroed stInternal, (s.bneFault f.tag ufOpmUe (f.phys.headD 0) f.stop).opmUe)
  | .output flags =>
    if misused then (f, s)
    else if f.arg 1 then
      if f.code = 0 || f.code = stSigFault then
        let f := if f.code = 0 then f.zeroed stSigFault else f
        (f, s.sigFault f flags.toNat)
      else (f, s)
    else s.wrongResult f
  | .none => if f.code = stSigFault then (f, s.sigFault f 0) else (f, s)

/-- The KSTORE of an accepted result: its code and its output (R205, R267, R268). -/
def State.runKstore (s : State) (f : Flight) : Flight × State :=
  match f.kreq with
  | none => (f, s)
  | some q =>
    let (code, out, s) := s.kstore q f.tag.part f.tag.item
    ({ f with code := code, bufs := [({ addr := q.out, bytes := if code = 0 then out else List.replicate 8 0 } : BufOut)] }, s)

/-- An accepted result writes its slots and buffer bytes, sets STATUS and makes its report. -/
def State.bneDeliver (s : State) (f : Flight) (bits : Nat) : State :=
  let own := f.logic
  let b := f.slots.foldl (fun b o => if f.arg 4 then b.clearSlot f.tag.part o.slot else b.putSlot f.tag.part own o) s.bne
  let b := f.slots.foldl (fun b o => b.linkSlot f.tag.part o) b
  let s := f.bufs.foldl (fun s b => s.unitPut f b) { s with bne := b }
  let s := if f.code = stKeyUsage || f.code = stKeyAbsent || f.code = stSigFault || f.code = stRngHealth then
    s.report f.tag.item (s.quarter (4 * f.r)) f.code else s
  let s := if f.kind = .bne && (f.code = stInputZero || f.code = stInputRange || f.code = stNotOnCurve) then s.inc Reg.BNE.INPUT_ERR_CNT else s
  s.updPort f.tag.y f.tag.l fun p => p.result f.r [] [(bneStatus, BitVec.ofNat 32 (2 ^ 31 + bits + f.code))]

/-- The result of an operation of the engine. -/
def State.bneFinish (s : State) (f : Flight) (flt : BneFlt) : State :=
  let (f, s) := s.bneChecks f flt
  if s.accepts f.tag f.r then
    let (f, s) := s.runKstore f
    s.bneDeliver f (if f.arg 3 then 2 ^ 30 else 0)
  else s.stale f.tag.y

/-! ### The debug window (R223) -/

/-- A slot is an output of an operation in progress. -/
def State.opBusy (s : State) (part i : Nat) : Bool :=
  s.flights.any fun f => f.kind == .bne && f.tag.part == part && f.slots.any fun o => o.slot == i

/-- `OPM_READ` : the debug read starts (R223). -/
def execOpmRead (s : State) : Result :=
  let part := s.reg Reg.BNE.OPM_PART
  let slot := s.reg Reg.BNE.OPM_SLOT
  let word := s.reg Reg.BNE.OPM_WORD
  let (slots, len) := s.opRegion part
  if s.bne.opmBusy.isSome then .next (s.refuse pgBne 0x42)
  else if slots ≤ slot then .next (s.refuse pgBne 0x40)
  else if len ≤ 64 * word then .next (s.refuse pgBne 0x01)
  else .next ({ s with bne := { s.bne with opmBusy := some (part, slot, word) } }.setBit Reg.BNE.DONE false)

/-- `OPM_READ_DONE` : the debug read ends. -/
def execOpmReadDone (s : State) : Result :=
  match s.bne.opmBusy with
  | none => .next s
  | some (part, slot, word) =>
    let s := { s with bne := { s.bne with opmBusy := none } }
    let show' (s : State) (v : Nat) : State := (s.setReg Reg.BNE.OPM_DATA_LO v).setReg Reg.BNE.OPM_DATA_HI (v / 2 ^ 32)
    let s := s.setBit Reg.BNE.DONE true
    if 256 ≤ part || (s.opRegion part).1 ≤ slot then .next (show' (s.refuse pgBne 0x40) 0)
    else
      let x := s.opSlot part slot
      let busy := s.opBusy part slot
      let s := s.setReg Reg.BNE.OWNER (if x.owner = 0 then 0x3FF else x.owner - 1)
      let s := ((s.setBit Reg.BNE.BUSY busy).setBit Reg.BNE.LINKED (x.link != 0)).setBit Reg.BNE.SEC x.sec
      let s := s.setBit Reg.BNE.STALE x.stale
      let s := if x.sec then s.refuse pgBne 0x41 else s
      .next (show' s (if x.sec || busy then 0 else x.val / 2 ^ (64 * word) % 2 ^ 64))

end Sys2Proof.Machine
end

