-- ==== Sys2Proof/Machine/FlashCmd.lean ====
section
/-!
DEFINITION. The commands of the FLASH page (R449 to R471), the boot ROM's flash service (R455), the end of a program or
erase, and the writing of an option generation (R467).
-/
set_option autoImplicit false

namespace Sys2Proof.Machine

/-! ### The system area by bytes (R449, Table 15.4, R465, R469) -/

/-- Where a part of the system area starts in the flash table. -/
def sysKey (off : Nat) : Nat := sectorKey 4 0 + off

/-- Bytes of the system area as they stand in the flash table. -/
def State.sysRaw (s : State) (off n : Nat) : List Byte :=
  SMap.fill 0xFF n (sysKey off) (s.flash.mem.filter fun e => decide (sysKey off ≤ e.1) && decide (e.1 < sysKey off + n))

/-- The 16 KB of an option copy, held by content or as programmed. -/
def State.optRaw (s : State) (b : Bool) : List Byte :=
  match (if b then s.flash.optB else s.flash.optA) with
  | some o => o.bytes b
  | none => s.sysRaw (if b then 0x4000 else 0) 0x4000

/-- A journal record as it stands in its ring of 4,096 records. -/
def JRec.bytes (r : JRec) : List Byte :=
  let b := [if r.begin' then 1 else 2, BitVec.ofNat 8 r.area] ++ leBytes 2 r.sector ++ leBytes 4 r.seq ++ leBytes 4 0
  b ++ leBytes 4 (crc32c b (0x2008000 + 16 * ((r.seq - 1) % 4096)))

/-- The 64 KB of the journal. -/
def State.journalBytes (s : State) : List Byte :=
  (List.range 4096).flatMap fun i => match s.flash.journal.find? fun r => (r.seq - 1) % 4096 == i with
    | some r => r.bytes
    | none => List.replicate 16 0xFF

/-- The identity area: wrapped seed, certificate, termination statement. -/
def State.identityBytes (s : State) : List Byte :=
  let erased (n : Nat) (bs : List Byte) : List Byte := (bs ++ List.replicate (n - bs.length) 0xFF).take n
  (if s.flash.idSeed then erased 0x40 Config.wrappedSeed ++ erased 0x1FC0 Config.identityCert else s.sysRaw 0x18000 0x2000)
    ++ (if s.flash.termStmt.isEmpty then s.sysRaw 0x1A000 0x2000 else erased 0x2000 s.flash.termStmt)

/-- Bytes of the system area. -/
def State.sysBytes (s : State) (off n : Nat) : List Byte :=
  cut (s.optRaw false ++ s.optRaw true ++ s.journalBytes ++ s.identityBytes) off n

/-- An option copy that is programmed or erased by command stands in the flash table from then on. -/
def State.optSpill (s : State) (off : Nat) : State :=
  let f := s.flash
  let b := decide (0x4000 ≤ off)
  if 0x8000 ≤ off || (if b then f.optB else f.optA).isNone then s
  else
    let o := if b then 0x4000 else 0
    let mem := SMap.putRun 0xFF f.mem (sysKey o) (s.optRaw b)
    let progd := SMap.putRun false f.progd (sysKey o / 16) (List.replicate 1024 true)
    { s with flash := { f with mem := mem, progd := progd, optA := if b then f.optA else none, optB := if b then none else f.optB } }.showOpt

/-- Firmware image A as shipped stands in the flash table once a command changes its part of the flash. -/
def State.imageSpill (s : State) (fa : Nat) : State :=
  let f := s.flash
  if !f.shipped || 0x400000 ≤ fa then s
  else
    let img := Config.shippedImage.take 0x400000
    let mem := SMap.putRun 0xFF f.mem (sectorKey 0 0) img
    let progd := SMap.putRun false f.progd (sectorKey 0 0 / 16) (List.replicate (ceilDiv img.length 16) true)
    { s with flash := { f with mem := mem, progd := progd, shipped := false } }

/-- A valid option copy read from its bytes (R463, R465). -/
def optParse (t : List Byte) (b : Bool) : Option OptArea :=
  let f (o n : Nat) : Nat := leNat (cut t o n)
  if f 0 4 ≠ 0x504F584F || f 4 2 ≠ 1 || f 6 2 ≠ 0x4000 then none
  else if f 0x3FFC 4 ≠ crc32c (t.take 0x3FFC) (if b then 0x2004000 else 0x2000000) then none
  else
    let xo := (List.range 16).filterMap fun i =>
      if f (0x180 + 16 * i + 8) 4 % 2 = 1 then some { start := f (0x180 + 16 * i) 4, stop := f (0x184 + 16 * i) 4 : XoEnt } else none
    let retired := (List.range 512).filterMap fun i =>
      let w := f (0x400 + 4 * i) 4
      if w = 0 then none else some { kind := w / 2 ^ 28, yard := bitsOf w 22 6, unit := w % 2 ^ 18 : RetEnt }
    let remap := (List.range 256).foldl (fun (m : SMap Nat) i =>
      let w := f (0xC00 + 4 * i) 4
      if bitOf w 31 then SMap.put 0 m i (w % 4096 + 1) else m) []
    let stay := if f 0x280 1 = 1 then some { twinFp := cut t 0x290 32, pairMode := f 0x281 1, roleCfg := f 0x282 1 : StayId } else none
    some {
      gen := f 8 4, writeFrame := f 0xC 8, mode := f 0x40 1, prevMode := f 0x41 1, modeFrame := f 0x48 8,
      fwActive := f 0x80 1, fwFallback := f 0x81 1 == 1, rigActive := f 0x82 1, rigFallback := f 0x83 1,
      fwFloor := f 0x84 4, rigFloor := f 0x88 4, rigActiveHash := cut t 0x90 32, rigFallbackHash := cut t 0xB0 32,
      xo := xo, stay := stay, members := (List.range (min 1024 (f 0x284 2))).map fun i => cut t (0x1000 + 8 * i) 8,
      retired := retired, remap := remap }

/-- A copy held by bytes whose head is right and whose CHECK is not: a mismatch of fixed CVU instance 3 (Table 14.7). -/
def optMismatch (t : List Byte) (b : Bool) : Bool :=
  leNat (cut t 0 4) == 0x504F584F && leNat (cut t 4 2) == 1 && leNat (cut t 6 2) == 0x4000 && (optParse t b).isNone

/-- A copy whose bytes were programmed by command is taken up by content where it is valid (R463). -/
def State.optTakeUp (s : State) : State :=
  let s := if s.flash.optA.isNone && optMismatch (s.optRaw false) false then s.inc (Reg.CVU.FIX_MM 3) else s
  let s := if s.flash.optB.isNone && optMismatch (s.optRaw true) true then s.inc (Reg.CVU.FIX_MM 3) else s
  let f := s.flash
  let bad (b : Bool) : Bool := SMap.keep (fun k => decide (sysKey (if b then 0x4000 else 0) / 16 ≤ k) &&
    decide (k < sysKey (if b then 0x8000 else 0x4000) / 16)) f.dead != []
  let pick (b : Bool) (o : Option OptArea) : Option OptArea :=
    if bad b then none else match o with
      | some x => some x
      | none => optParse (s.optRaw b) b
  { s with flash := { f with optA := pick false f.optA, optB := pick true f.optB } }

/-! ### Reading -/

/-- A range of any area as the controller reads it. -/
def State.rangeBytes (s : State) (fa n : Nat) : List Byte :=
  if flashArea fa = some 4 then
    ((s.sysBytes (flashOff fa) n).zip (List.range n)).map fun e => if s.unitBad (fa + e.2) then 0 else e.1
  else
    let area := fa / 0x800000
    let first := flashOff fa / 4096
    let secs := (List.range (ceilDiv (flashOff fa % 4096 + n) 4096)).flatMap fun i => s.sectorRead area (first + i)
    let bs := cut secs (flashOff fa % 4096) n
    if s.flash.shipped && decide (fa < 0x400000) then
      (bs.zip (List.range n)).map fun e =>
        if fa + e.2 < 0x400000 && !s.unitBad (fa + e.2) then Config.shippedImage.getD (fa + e.2) 0xFF else e.1
    else bs

/-- The units of a range that read ECC_FAIL (R456, R461). -/
def State.badUnits (s : State) (fa n : Nat) : List Nat :=
  ((List.range (n / 16)).map fun i => fa + 16 * i).filter s.unitBad

/-- A unit has an uncorrectable error from now until its sector is erased. -/
def State.deadUnit (s : State) (fa : Nat) : State :=
  { s with flash := { s.flash with dead := SMap.put false s.flash.dead (s.flashKey fa / 16) true } }

/-- A range is read: its outcomes are counted (R456); answers its bytes and whether a unit of it read ECC_FAIL. -/
def State.readRange (s : State) (fa n : Nat) (ue ce : Option Nat) : List Byte × Bool × State :=
  let in' (u : Nat) : Bool := decide (fa ≤ u) && decide (u < fa + n)
  let s := match ue with
    | some u => if in' u then s.deadUnit u else s
    | none => s
  let s := match ce with
    | some u => if in' u then s.eccCe else s
    | none => s
  let bad := s.badUnits fa n
  let s := bad.foldl State.eccUe s
  (s.rangeBytes fa n, !bad.isEmpty, s)

/-! ### The command machine -/

/-- BUSY, in STATUS and in STATE. -/
def State.flashBusy (s : State) : State :=
  let b := s.flash.op.isSome || !s.flash.waits.isEmpty
  (s.setBit Reg.FLASH.BUSY b).setDetail pgFlash 4 b

/-- A command ends: DONE and RESULT (Table 15.8). -/
def State.flashDone (s : State) (res : Nat) : State :=
  (((s.setBit Reg.FLASH.DONE true).setReg Reg.FLASH.RESULT res).raise pgFlash 0).flashBusy

/-- A command is taken: DONE clears. -/
def State.flashTaken (s : State) : State := ((s.setBit Reg.FLASH.DONE false).setReg Reg.FLASH.RESULT 0).flashBusy

/-- The bank of the instruction that Naris runs, where it fetches from flash (R454). -/
def State.fetchBank (s : State) : Option Nat :=
  let pc := s.naris.cpu.pc.toNat
  let a := s.narisWin pc
  if 0x01000000 ≤ pc ∧ pc < 0x02000000 then some ((pc - 0x01000000) / 0x800000)
  else if 0x80000000 ≤ pc ∧ 0x80000000 ≤ a ∧ a < 0x82000000 then some ((a - 0x80000000) / 0x800000)
  else none

/-- WBUF as bytes. -/
def State.wbuf (s : State) (n : Nat) : List Byte :=
  ((List.range 64).flatMap fun i => leBytes 4 (s.reg (Reg.FLASH.WBUF i))).take n

/-- The sectors of a range that are INCOMPLETE (R461). -/
def State.rangeIncomplete (s : State) (fa n : Nat) : Bool :=
  let area := (flashArea fa).getD 4
  (List.range (ceilDiv (flashOff fa % 4096 + n) 4096)).any fun i => s.incomplete area (s.sector area (flashOff fa / 4096 + i))

/-- A range overlaps an XO region (R456, R468). -/
def State.inXo (s : State) (fa n : Nat) : Bool :=
  s.flash.opt.xo.any fun e => decide (fa < e.stop) && decide (e.start < fa + n)

/-- Which limit of the identity area or the journal a command breaks (R453, R469). -/
def State.sysProtected (s : State) (op off n : Nat) : Bool :=
  if op = 1 || op = 4 then false
  else if op = 5 then true
  else if off < 0x8000 then decide (op = 2 && 0x8000 < off + n)
  else if off < 0x18000 then true
  else if op = 3 then true
  else if off < 0x1A000 then s.mode != .factory || decide (0x1A000 < off + n)
  else match s.glob.change with
    | some c => c.target != .terminated || c.wiped
    | none => true

/-- The refusal of a command of the FLASH page, by the order of notes/assumptions/15.md. -/
def State.flashRefusal (s : State) (byNaris : Bool) (op : Nat) : Option Nat :=
  let fa := s.reg Reg.FLASH.FADDR
  let n := s.reg Reg.FLASH.FLEN
  let len := if op = 3 || op = 5 then 16 else n
  let lenBad := n % 16 ≠ 0 || ((op = 1 || op = 2) && (n < 16 || 256 < n)) || (op = 4 && (n < 16 || 0x800000 < n))
  match flashArea fa with
  | none => some 0x01
  | some area =>
    let writes := op = 2 || op = 3 || op = 5
    if writes && s.flash.op.isSome then some 0xA0
    else if fa % 16 ≠ 0 || lenBad || areaLen area < flashOff fa + len then some 0x01
    else if !byNaris && 2 ≤ area then some 0xA2
    else if byNaris && area = 4 && s.sysProtected op (flashOff fa) len then some 0xA2
    else if !byNaris && writes && s.mode != .maintenance && !s.romRecovery then some 0xA3
    else if !byNaris && op = 1 && s.inXo fa len then some 0xA4
    else if byNaris && (op = 2 || op = 3) && s.fetchBank == some area then some 0xA1
    else if op = 5 && SMap.get 0 s.flash.remap (area * 64 + s.reg Reg.FLASH.REMAP_SPARE) ≠ 0 then some 0xA5
    else if op = 2 && s.rangeIncomplete fa len then some 0xA6
    else none

/-- The ERASE_BEGIN record of an erase that starts. -/
def State.eraseBegin (s : State) (o : FlashOp) : State :=
  let area := (flashArea o.addr).getD 4
  (s.journalPut true area (s.sector area (flashOff o.addr / 4096))).showIncomplete

/-- REMAP takes effect in the controller; Naris writes the generation that holds it (R458). -/
def State.remapNow (s : State) (o : FlashOp) : State :=
  let area := (flashArea o.addr).getD 0
  let s := s.imageSpill o.addr
  let m := SMap.toSpare s.flash.remap area (flashOff o.addr / 4096) o.spare
  ({ s with flash := { s.flash with remap := m } }.optChange fun x => { x with remap := m }).showRemap

/-- A program, an erase or a remap begins. -/
def State.flashBegin (s : State) (o : FlashOp) : State :=
  if o.op = 3 then s.eraseBegin o else if o.op = 5 then s.remapNow o else s

/-- A read of READ or CHECK is carried out (R456, R457). -/
def State.flashReads (s : State) (o : FlashOp) : State :=
  let (bs, bad, s) := s.readRange o.addr o.len o.ue o.ce
  if o.op = 1 then
    let s := ((blocks 4 bs).zip (List.range 64)).foldl (fun s e => s.setReg (Reg.FLASH.RBUF e.2) (leNat e.1)) s
    s.flashDone (if bad then 3 else 0)
  else
    let v := if o.spare = 1 then crcFold crc32cPar bs o.addr else crc crc32cPar bs
    let s := s.setReg Reg.FLASH.CHECK_RES v
    if bad then s.flashDone 3
    else if v = s.reg Reg.FLASH.CHECK_EXP then s.flashDone 1
    else (s.raise pgFlash 5).flashDone 2

/-- A READ or CHECK that passes its checks: at once, or once the operation on its bank ends (R452). -/
def State.flashReadCmd (s : State) (o : FlashOp) : State :=
  let s := s.flashTaken
  if s.bankTaken o.addr then { s with flash := { s.flash with waits := s.flash.waits ++ [o] } }.flashBusy else s.flashReads o

/-- A PROGRAM, ERASE or REMAP that passes its checks; a rig slot that it touches is no longer staged, nor is its staging under way
(R48; the latter and REMAP: DESIGN CHOICE, notes/assumptions/70.md). A manager's command on the bank of the running image waits for the
ROM's flash service, and so does every one while the ROM is in control (R455, R481). -/
def State.flashWriteCmd (s : State) (o : FlashOp) : State :=
  let area := (flashArea o.addr).getD 4
  let s := s.spoilStage area (flashOff o.addr) (if o.op = 2 then o.len else 4096)
  let rom := !o.byNaris && (area == s.reg Reg.NARIS.RUN_BANK || s.romRecovery)
  let o := { o with rom := rom, started := !rom }
  let s := { s with flash := { s.flash with op := some o } }.flashTaken
  if rom then s else s.flashBegin o

/-- A command of the FLASH page, once the controller is ready. -/
def flashCommand (byNaris : Bool) (op : Nat) (s : State) (f : FlashOp → State → State) : Result :=
  if !s.flash.ready then .next s
  else
    let fa := s.reg Reg.FLASH.FADDR
    match s.flashRefusal byNaris op with
    | some c => .next (s.refuse pgFlash c fa)
    | none => .next (f { op := op, addr := fa, len := s.reg Reg.FLASH.FLEN, byNaris := byNaris } s)

/-- `FLASH_READ` (R456). -/
def execFlashRead (byNaris : Bool) (ue ce : Option Nat) (s : State) : Result :=
  flashCommand byNaris 1 s fun o s => s.flashReadCmd { o with ue := ue, ce := ce }

/-- `PROGRAM` (R451, R453). -/
def execProgram (byNaris : Bool) (s : State) : Result :=
  flashCommand byNaris 2 s fun o s => s.flashWriteCmd { o with data := s.wbuf o.len }

/-- `ERASE` : an erase whose ERASE_BEGIN record cannot be written is not started (R459). -/
def execErase (byNaris jfail : Bool) (s : State) : Result :=
  flashCommand byNaris 3 s fun o s => if jfail then s.flashTaken.flashDone 4 else s.flashWriteCmd o

/-- `FLASH_CHECK` : CHECK_FOLD is captured at the command (R470). -/
def execFlashCheck (byNaris : Bool) (s : State) : Result :=
  flashCommand byNaris 4 s fun o s => s.flashReadCmd { o with spare := s.reg Reg.FLASH.CHECK_FOLD }

/-- `REMAP` (R458). -/
def execRemap (byNaris : Bool) (s : State) : Result :=
  flashCommand byNaris 5 s fun o s => s.flashWriteCmd { o with spare := s.reg Reg.FLASH.REMAP_SPARE }

/-- `ROM_FLASH_SERVICE` : Naris enters the service and the controller starts the operation (R455). -/
def execRomFlashService (s : State) : Result :=
  match s.flash.op with
  | some o =>
    if o.rom && !o.started then
      let o := { o with started := true }
      let s := { s with flash := { s.flash with op := some o } }
      .next ((s.setReg Reg.NARIS.NSTATE 2).flashBegin o)
    else .next s
  | none => .next s

/-- Program a range unit by unit. -/
def State.programRange (s : State) (fa : Nat) (bs : List Byte) : State :=
  ((blocks 16 bs).zip (List.range (ceilDiv bs.length 16))).foldl (fun s e => s.flashProgram (fa + 16 * e.2) e.1) s

/-- The operation's effect on the array, at its end. -/
def State.flashArray (s : State) (o : FlashOp) : State :=
  let area := (flashArea o.addr).getD 4
  let off := flashOff o.addr
  let s := if area = 4 then s.optSpill off else s.imageSpill o.addr
  if o.op = 2 then
    if area = 4 && decide (0x1A000 ≤ off) then { s with flash := { s.flash with termStmt := [] } }.programRange o.addr o.data
    else s.programRange o.addr o.data
  else
    let phys := s.sector area (off / 4096)
    ((s.arrayErase area phys).journalPut false area phys).showIncomplete

/-- The service ends and Naris goes on where it was. -/
def State.romServiceEnd (s : State) (o : FlashOp) : State :=
  if o.rom then s.setReg Reg.NARIS.NSTATE (if s.romRecovery then 0 else 1) else s

/-- A Naris data load of flash as the controller answers it (R456). -/
def State.flashLoad (s : State) (fa n : Nat) : List Byte × State :=
  let u := fa / 16 * 16
  let (bs, _, s) := s.readRange u 16 none none
  (cut bs (fa - u) n, s)

/-- The load of Naris that waited for the bank is answered. -/
def State.narisLoads (s : State) : State :=
  match s.naris.load with
  | none => s
  | some (fa, n, dst) =>
    let (bs, s) := s.flashLoad fa n
    { s with naris := { s.naris with load := none, cpu := s.naris.cpu.write (dst.write bs) } }

/-- The reads that waited for the bank are carried out in order. -/
def State.flashWaits (s : State) : State :=
  let l := s.flash.waits
  l.foldl State.flashReads { s with flash := { s.flash with waits := [] } }

/-- `FLASH_OP_DONE` : a program or erase ends after `us` µs; a REMAP ends with its option generation. -/
def execFlashOpDone (us : Fin 65536) (s : State) : Result :=
  match s.flash.op with
  | some o =>
    if o.op = 5 || !o.started then .next s
    else
      let s := s.flashArray o
      let s := ({ s with flash := { s.flash with op := none } }.romServiceEnd o).setReg Reg.FLASH.OP_US us.val
      .next ((s.flashDone 0).flashWaits).narisLoads
  | none => .next s

/-! ### Writing an option generation (R467) -/

/-- The copy that is not in effect is erased. -/
def State.optErase (s : State) : State :=
  let base := if s.flash.optState = 1 then 4 else 0
  let s := { s with flash := { s.flash with
    optA := if base = 0 then none else s.flash.optA, optB := if base = 0 then s.flash.optB else none } }
  (List.range 4).foldl (fun s i => s.rewrite 4 (base + i)) s

/-- Commands that end when a generation has been read back: REMAP, ACTIVATE and CONFIRM of FW_CMD, a raised floor. -/
def State.optReported (s : State) : State :=
  let s := match s.flash.op with
    | some o => if o.op = 5 && o.started then ({ s with flash := { s.flash with op := none } }.romServiceEnd o).flashDone 0 else s
    | none => s
  let s := if s.bit Reg.NARIS.FW_BUSY then (s.setBit Reg.NARIS.FW_BUSY false).raise pgNaris 1 else s
  if s.glob.floorPend then { s with glob := { s.glob with floorPend := false } }.raise pgGlobal 3 else s

/-- A program or erase runs, or the next one is taken (R452). -/
def State.flashTakenUp (s : State) : Bool := s.flash.op.any fun o => o.op != 5

/-- `OPTION_GENERATION_WRITE` : Naris writes what has fallen due into the copy that is not in effect and reads it back; while a program or
erase runs it waits (R452). Where the read-back fails that copy is not valid and the write is still due. With the option area as it
should be, the row retirement table is written in the same way (R287, R467). -/
def execOptionGenerationWrite (ok : Bool) (s : State) : Result :=
  if s.flashTakenUp then .next s
  else match s.flash.optWrite with
  | none => .next (if s.cleat.retDue then s.writeRet ok else s)
  | some o =>
    if s.flash.optState ≠ 1 ∧ s.flash.optState ≠ 2 then .next s
    else
      let o := { o with gen := (s.flash.opt.gen + 1) % 2 ^ 32, writeFrame := s.frame.no }
      let s := s.optErase
      if ok then .next ({ s.optAdopt o with flash := { (s.optAdopt o).flash with optWrite := none } }.optReported)
      else .next s.showOpt

end Sys2Proof.Machine
end

