-- ==== Sys2Proof/Machine/Policy.lean ====
section
/-!
DEFINITION. The tamper sources of Table 17.1 with their floors and reset policy (R507), and the standing conditions of R492.
-/
set_option autoImplicit false

namespace Sys2Proof.Machine

/-- FLOOR of a source. -/
def srcFloor (n : Nat) : Nat :=
  if n = 26 then 1 else if n = 28 then 2 else if n = 31 || n = 32 then 2 else if n = 33 || n = 34 then 3 else 0

/-- RESP of a source after a cold start. -/
def srcResp (n : Nat) : Nat :=
  if n < 8 then 2 else if n < 24 then 3 else if n = 26 then 1 else if n ≤ 29 then 2
  else if n = 30 || n = 35 || n = 36 then 1 else if 31 ≤ n ∧ n ≤ 34 then 3 else 0

/-- ENABLE of a case or loop may be written; that of every other source is fixed. -/
def srcFree (n : Nat) : Bool := decide (n < 24)

/-- The policy entry of a source after a cold start. -/
def resetPolicy (n : Nat) : Policy := { enable := decide (24 ≤ n ∧ n ≤ 36), resp := srcResp n }

/-- The policy entry in effect. -/
def State.policyOf (s : State) (n : Nat) : Policy := (SMap.get none s.tamper.policy n).getD (resetPolicy n)

/-- A junction above 105 °C, in units of 0.25 °C. -/
def State.hot (s : State) : Bool := decide (420 < s.tamper.tempSd) || decide (420 < s.tamper.tempCd)

/-- An asserted tamper source whose response is CLEAR_VOLATILE. -/
def State.tamperStanding (s : State) : Bool :=
  (List.range 37).any fun n => bitOf s.tamper.asserted n && (s.policyOf n).enable && (s.policyOf n).resp == 2

/-- A standing condition exists (R492). -/
def State.standing (s : State) : Bool :=
  s.spring.healthFail || !s.glob.void.isEmpty || s.tamperStanding || s.hot || s.glob.memUe

end Sys2Proof.Machine
end

