-- ==== Sys2Proof/Machine/Des.lean ====
section
/-!
DEFINITION. The DES and TDES block operations of a cipher pair (R155 to R157, Table 5.1): SP 800-67 over
8-byte strings, byte 0 first. The least significant bit of every key byte is ignored (R157).
-/
set_option autoImplicit false

namespace Sys2Proof.Machine

/-- A bit selection table, as a number with one byte per entry, first entry most significant. Each entry is the
bit position of FIPS 46-3, counted from 1 at the most significant bit. -/
structure DesPerm where
  entries : Nat
  count   : Nat

/-- Select bits of a `w`-bit number under a table. -/
def DesPerm.apply (p : DesPerm) (w v : Nat) : Nat :=
  (List.range p.count).foldl (fun acc i =>
    2 * acc + (if bitOf v (w - bitsOf p.entries (8 * (p.count - 1 - i)) 8) then 1 else 0)) 0

def desIP : DesPerm := ⟨0x3a322a221a120a023c342c241c140c043e362e261e160e06403830282018100839312921191109013b332b231b130b033d352d251d150d053f372f271f170f07, 64⟩
def desFP : DesPerm := ⟨0x280830103818402027072f0f37173f1f26062e0e36163e1e25052d0d35153d1d24042c0c34143c1c23032b0b33133b1b22022a0a32123a1a2101290931113919, 64⟩
def desE : DesPerm := ⟨0x20010203040504050607080908090a0b0c0d0c0d0e0f101110111213141514151617181918191a1b1c1d1c1d1e1f2001, 48⟩
def desP : DesPerm := ⟨0x100714151d0c1c11010f171a05121f0a0208180e201b0309130d1e06160b0419, 32⟩
def desPC1 : DesPerm := ⟨0x39312921191109013a322a221a120a023b332b231b130b033c342c243f372f271f170f073e362e261e160e063d352d251d150d051c140c04, 56⟩
def desPC2 : DesPerm := ⟨0x0e110b180105031c0f06150a17130c041a0810071b140d0229341f252f371e28332d21302c31273822352e2a32241d20, 48⟩

/-- The eight substitution boxes, 64 entries of four bits each, entry 0 most significant. -/
def desSboxes : List Nat :=
  [0xe4d12fb83a6c59070f74e2d1a6cb953841e8d62bfc973a50fc8249175b3ea06d,
   0xf18e6b34972dc05a3d47f28ec01a69b50e7ba4d158c6932fd8a13f42b67c05e9,
   0xa09e63f51dc7b428d709346a285ecbf1d6498f30b12c5ae71ad069874fe3b52c,
   0x7de3069a1285bc4fd8b56f03472c1ae9a690cb7df13e52843f06a1d8945bc72e,
   0x2c417ab6853fd0e9eb2c47d150fa3986421bad78f9c5630eb8c71e2d6f09a453,
   0xc1af92680d34e75baf427c9561de0b389ef528c3704a1db6432c95fabe17608d,
   0x4b2ef08d3c975a61d0b7491ae35c2f8614bdc37eaf6805926bd814a7950fe23c,
   0xd2846fb1a93e50c71fd8a374c56b0e927b419ce206adf35821e74a8dfc90356b]

/-- One substitution box. -/
def desS (box six : Nat) : Nat :=
  let row := 2 * bitsOf six 5 1 + bitsOf six 0 1
  let col := bitsOf six 1 4
  bitsOf (desSboxes.getD box 0) (4 * (63 - (16 * row + col))) 4

/-- The DES round function. -/
def desF (r k : Nat) : Nat :=
  let x := desE.apply 32 r ^^^ k
  desP.apply 32 ((List.range 8).foldl (fun acc i => 16 * acc + desS i (bitsOf x (6 * (7 - i)) 6)) 0)

/-- Rotate a 28-bit half left. -/
def rotl28 (v n : Nat) : Nat := (v * 2 ^ n) % 2 ^ 28 + v / 2 ^ (28 - n)

/-- The sixteen round keys. -/
def desKeys (key : Nat) : List Nat :=
  let cd := desPC1.apply 64 key
  let tot := [1, 2, 4, 6, 8, 10, 12, 14, 15, 17, 19, 21, 23, 25, 27, 28]
  tot.map fun n => desPC2.apply 56 (rotl28 (cd / 2 ^ 28) n * 2 ^ 28 + rotl28 (cd % 2 ^ 28) n)

/-- DES over a list of round keys in the order of use. -/
def desCore (keys : List Nat) (blk : Nat) : Nat :=
  let v := desIP.apply 64 blk
  let lr := keys.foldl (fun (lr : Nat × Nat) k => (lr.2, lr.1 ^^^ desF lr.2 k)) (v / 2 ^ 32, v % 2 ^ 32)
  desFP.apply 64 (lr.2 * 2 ^ 32 + lr.1)

/-- Single DES encipherment of 8 bytes. -/
def desEnc (key blk : List Byte) : List Byte := beBytes 8 (desCore (desKeys (beNat key)) (beNat blk))

/-- Single DES decipherment of 8 bytes. -/
def desDec (key blk : List Byte) : List Byte := beBytes 8 (desCore (desKeys (beNat key)).reverse (beNat blk))

/-- Part `i` (1 to 3) of a TDES key of 16 or 24 bytes; K3 of a 16-byte key is K1 (Table 5.1). -/
def tdesKey (key : List Byte) (i : Nat) : List Byte :=
  if i = 3 ∧ key.length ≤ 16 then key.take 8 else cut key (8 * (i - 1)) 8

/-- TDES encipherment of 8 bytes (R156). -/
def tdesEnc (key blk : List Byte) : List Byte :=
  desEnc (tdesKey key 3) (desDec (tdesKey key 2) (desEnc (tdesKey key 1) blk))

/-- TDES decipherment of 8 bytes (R156). -/
def tdesDec (key blk : List Byte) : List Byte :=
  desDec (tdesKey key 1) (desEnc (tdesKey key 2) (desDec (tdesKey key 3) blk))

end Sys2Proof.Machine
end

