-- ==== Sys2Proof/Machine/Cipher.lean ====
section
/-!
DEFINITION. The cipher pairs (R115, R116, R155 to R165) and the PIN format unit (R293, R294).
-/
set_option autoImplicit false

namespace Sys2Proof.Machine

/-! ### Algorithms -/

/-- Unit time of a block under a staged key (Table 3.12); a pair takes the AES-128 time for a key that it does not run
(R116). -/
def Acc.unitTime (k : Acc) : Nat :=
  match k.alg with
  | .aes => if k.len = 24 then 14 else if k.len = 32 then 16 else 12
  | .tdes => 50
  | _ => 12

/-- The pair runs the key's algorithm. -/
def Acc.pairRuns (k : Acc) : Bool := k.key && (k.alg == .aes || k.alg == .tdes)

/-- Block length of the key's algorithm. -/
def Acc.blockLen (k : Acc) : Nat := if k.alg = .tdes then 8 else 16

/-- One block enciphered (R156, R157). -/
def Acc.encipher (k : Acc) (b : List Byte) : List Byte := if k.alg = .tdes then tdesEnc k.keyBytes (b.take 8) else aesEnc k.keyBytes b

/-- One block deciphered. -/
def Acc.decipher (k : Acc) (b : List Byte) : List Byte := if k.alg = .tdes then tdesDec k.keyBytes (b.take 8) else aesDec k.keyBytes b

/-- Doubling in the field of a CMAC subkey (SP 800-38B). -/
def cmacDouble (b : List Byte) : List Byte :=
  let n := b.length
  let v := beNat b * 2
  let c := if n = 8 then 0x1B else 0x87
  beBytes n (if v < 2 ^ (8 * n) then v else (v - 2 ^ (8 * n)) ^^^ c)

/-! ### The pair as a unit -/

/-- The starting operations of a pair. -/
inductive CipherOp where
  | enc | dec | macStart | macBlk | macLast | macLastp
  deriving DecidableEq, Repr

/-- The key usages that an operation accepts (R116). -/
def CipherOp.uses : CipherOp → List Nat
  | .enc => [0, 4, 3]
  | .dec => [1, 3]
  | _ => [2]

/-- Blocks of the slot that have arrived at pair `u` and have not started at cycle `a` (R115). -/
def State.queued (s : State) (u slot a : Nat) : Nat :=
  ((s.flights.filter fun f => f.kind == .cipher && f.logic == u && f.tag.slot == slot).map fun f =>
    (f.starts.filter fun t => decide (a < t)).length).foldl (· + ·) 0

/-- The end of the last forward time of pair `u`. -/
def State.pairFree (s : State) (u : Nat) : Nat :=
  ((s.flights.filter fun f => f.kind == .cipher && f.logic == u).map Flight.stop).foldl max 0

/-- The flight of an operation of `n` blocks of unit time `t`, each starting `gap` after the previous, at pair `u`; none
where its queue is full or the slot's window does not contain it (R113, R115). -/
def State.cipherFlight (s : State) (y l u n t gap : Nat) : Option Flight :=
  let a := fabricOf (s.sheave y l).cpu.cyc
  let tag := s.tagOf y l
  if 2 ≤ s.queued u tag.slot a then none
  else
    let b := max a (s.pairFree u)
    let starts := (List.range n).map fun i => b + i * gap
    let e := b + (n - 1) * gap + t
    if s.window tag.slot 0 u 1 b e then
      some { kind := .cipher, logic := u, phys := [s.poolUnit 0 u], tag := tag, start := b, stop := e, r := e + t + 4, starts := starts }
    else none

/-- An operation under a mismatched key counts (R116, R165). -/
def State.mismatch (s : State) (bad : Bool) : State :=
  if bad then (s.inc Reg.CIPHER.USAGE_MISMATCH_CNT).raise pgCipher 3 else s

/-- Key of the MAC chain of a slot on a pair. -/
def chainKey (u slot : Nat) : Nat := u * 4096 + slot

/-- The new chaining value of a chain operation (Table 5.2, R164). -/
def MacChain.step (c : MacChain) (op : CipherOp) (blk : List Byte) : List Byte :=
  let n := c.key.blockLen
  let x := xorBytes c.cv (blk.take n)
  let x := if c.mode = 2 && op = .macLast then xorBytes x c.k1 else if c.mode = 2 && op = .macLastp then xorBytes x c.k2 else x
  if c.mode = 1 && op = .macBlk then desEnc (c.key.keyBytes.take 8) x else c.key.encipher x

/-- A chain as MAC_START opens it. -/
def MacChain.start (key : Acc) (mode : Nat) (ok : Bool) : MacChain :=
  let bad := !ok || mode = 3 || (mode = 1 && !(key.alg == .tdes && key.len == 16))
  let k1 := if bad || mode ≠ 2 then [] else cmacDouble (key.encipher (List.replicate 16 0))
  { mode := mode, key := key, cv := List.replicate key.blockLen 0, k1 := k1, k2 := cmacDouble k1, bad := bad, spoilt := false }

/-- What tells two staged keys apart. -/
def Acc.sameKey (a b : Acc) : Bool := a.key == b.key && a.alg == b.alg && a.len == b.len && a.usage == b.usage && a.keyBytes == b.keyBytes

/-- The result of ENC or DEC: the block, or the derived key (R28, R156, R158). -/
def cipherBlock (op : CipherOp) (k v : Acc) (duse u serial : Nat) : Acc :=
  let b := quadBytes v.val
  if op = .enc && k.usage = some 4 then
    let o := if k.alg = .tdes then k.encipher (b.take 8) ++ k.encipher (b.drop 8) else k.encipher b
    { val := bytesQuad o, sealed := true, key := true, alg := k.alg, len := 16, usage := if duse ≤ 4 then some duse else none,
      org := some { pair := u, serial := serial, tdes := k.alg == .tdes } }
  else
    let o := if op = .enc then k.encipher b else k.decipher b
    { val := bytesQuad (fitBytes 16 o), sealed := v.sealed || k.usage == some 3 }

/-- Offsets of RESULT and RESULT_X of pair `u` in the port window. -/
def cipherRes (u : Nat) : Nat := u * 0x100 + 0x80

/-- RESULT_X. -/
def cipherResX (u : Nat) : Nat := u * 0x100 + 0x90

/-- ENC or DEC of an accumulator at pair `u` (R113, R115, R116, R158). -/
def startBlock (op : CipherOp) (y l u : Nat) (v : Acc) (s : State) : Eff :=
  let p := (s.sheave y l).port
  let k := p.acc (u * 0x100)
  let ok := k.pairRuns && (match k.usage with | some w => op.uses.contains w | none => false)
  let derive := op == .enc && k.pairRuns && k.usage == some 4
  let n := if derive && k.alg == .tdes then 2 else 1
  match s.cipherFlight y l u n k.unitTime k.unitTime with
  | none => .fault 0x06
  | some f =>
    let (masked, s) := s.maskBlocks n
    let s := s.mismatch (!ok)
    let good := ok && masked
    let serial := s.serial + 1
    let res := if good then cipherBlock op k v (p.word (u * 0x100 + 0x10) % 8) u serial else sealedZero
    let s := { s with serial := serial }
    .ok (s.launch { f with
      q := (cipherRes u, res) :: (if derive then [(cipherResX u, if good then res else {})] else []),
      latch := (if masked then [] else [stRngHealth]) ++ (if ok then [] else [stKeyUsage]) }) [] none

/-- A chain operation at pair `u`; `mode` is the value of MAC_START (R164, R165). -/
def startMac (op : CipherOp) (y l u mode : Nat) (v : Acc) (s : State) : Eff :=
  let p := (s.sheave y l).port
  let k := p.acc (u * 0x100)
  let ok := k.pairRuns && k.usage == some 2
  match s.cipherFlight y l u 1 k.unitTime k.unitTime with
  | none => .fault 0x06
  | some f =>
    let (masked, s) := s.maskBlocks 1
    let ck := chainKey u f.tag.slot
    let old := SMap.get none s.macs ck
    let base : Option MacChain := if op = .macStart then some (MacChain.start k (mode % 4) ok) else old
    let bad := match base with
      | some c => c.bad || !ok || !(c.key.sameKey k)
      | none => true
    let next : Option MacChain := base.map fun c =>
      if op = .macStart || bad || !masked then { c with spoilt := c.spoilt || bad || !masked }
      else { c with cv := c.step op (quadBytes v.val) }
    let last := op == .macLast || op == .macLastp
    let tag : Acc := match next with
      | some c => if c.bad || c.spoilt then sealedZero else { val := bytesQuad (fitBytes 16 c.cv) }
      | none => sealedZero
    let s := { s with macs := SMap.put none s.macs ck (if last then none else next) }
    let s := s.mismatch bad
    .ok (s.launch { f with
      q := if last then [(cipherRes u, tag)] else [],
      latch := (if masked then [] else [stRngHealth]) ++ (if bad then [stKeyUsage] else []) }) [] none

/-- Close every chain of a slot (R165). -/
def State.closeChains (s : State) (slot : Nat) : State :=
  { s with macs := s.macs.filter fun (e : Nat × Option MacChain) => decide (e.1 % 4096 ≠ slot) }

/-! ### Results (R159 to R161) -/

/-- The fabric cycle in which the check of block `i` of an operation ends (R115, R159). -/
def Flight.checkEnd (f : Flight) (i : Nat) : Nat := f.r - 4 - (f.starts.getLastD 0 - f.starts.getD i 0)

/-- A check-core mismatch of block `i` counts against the physical pair and spoils the item's later results on it (R160, R161). -/
def State.cipherFault (s : State) (f : Flight) (i : Nat) : State :=
  let p := f.phys.headD 0
  let s := (s.inc Reg.CIPHER.MISMATCH_CNT).nibble Reg.CIPHER.PAIR_FAULTS p
  let s := (s.setReg Reg.CIPHER.LF_CODE 0x40).setReg Reg.CIPHER.LF_PHYS p
  let s := (s.setReg Reg.CIPHER.LF_PART f.tag.part).setReg Reg.CIPHER.LF_CLASS f.tag.cls
  let s := (s.setReg Reg.CIPHER.LF_FRAME s.frame32).raise pgCipher 0
  let (m, s) := s.markItem f.tag 0x40 p 0 (f.checkEnd i)
  let s := if m then s.fault 1 srcCipher 0 p else s
  let s := s.updItem f.tag.item fun i => { i with spoiled := i.spoiled ++ [f.logic] }
  s.poolFaultCount 0 p

/-- `CIPHER_RESULT` : the operation of logical pair `u` with the earliest result time reaches it. A mismatch delivers a sealed
zero, and so does every later result of the item on the pair. -/
def execCipherResult (u : Fin 32) (bad : BitVec 2) (s : State) : Result :=
  match takeFlight .cipher u s.flights with
  | none => .next s
  | some (f, rest) =>
    let s := { s with flights := rest }
    let s := (List.range f.starts.length).foldl (fun s i => if bad.getLsbD i then s.cipherFault f i else s) s
    let spoiled := ((s.item f.tag.item).map fun i => i.spoiled.contains f.logic).getD false
    .next (s.conclude (if spoiled then
      { f with q := f.q.map fun (e : Nat × Acc) => (e.1, if e.1 = cipherRes u.val || e.1 = 0x10000 + u.val * 0x100 + 0x60 then sealedZero else {}) } else f))

/-! ### The PIN format unit (R294) -/

/-- The nibbles of a byte string, most significant first. -/
def nibbles (b : List Byte) : List Nat := b.flatMap fun x => [x.toNat / 16, x.toNat % 16]

/-- Bytes from nibbles. -/
def ofNibbles : List Nat → List Byte
  | a :: b :: r => BitVec.ofNat 8 (16 * a + b) :: ofNibbles r
  | _ => []

/-- The PIN of a plain PIN field of format `f`; none where the field is malformed (R294). -/
def pinOf (f : Nat) (field : List Byte) : Option (List Nat) :=
  let ns := nibbles (field.take 8)
  let n := ns.getD 1 0
  let pin := (ns.drop 2).take n
  let fill := ns.drop (2 + n)
  if ns.getD 0 0 ≠ f || n < 4 || 12 < n || pin.any (9 < ·) then none
  else if f = 0 && fill.any (· ≠ 0xF) then none
  else if f = 3 && fill.any (· < 0xA) then none
  else if f = 4 && fill.any (· ≠ 0xA) then none
  else some pin

/-- A plain PIN field of output format `f`, with random fill and random half of draw `k` (Table 9.3). -/
def pinField (f : Nat) (pin : List Nat) (k : Nat) : List Byte :=
  let n := 14 - pin.length
  let fill := match f with
    | 0 => List.replicate n 0xF
    | 1 => (List.range n).map fun i => (Config.randByte k i).toNat % 16
    | 3 => (List.range n).map fun i => 0xA + (Config.randByte k i).toNat % 6
    | _ => List.replicate n 0xA
  ofNibbles ([f, pin.length] ++ pin ++ fill) ++ (if f = 4 then (List.range 8).map fun i => Config.randByte k (16 + i) else [])

/-- A format that ISO 9564-1 and the unit know. -/
def pinFormat (f : Nat) : Bool := f == 0 || f == 1 || f == 3 || f == 4

/-- The enciphered output block; none where the spec states no result: another format code, or a key whose algorithm
does not suit the format. -/
def pinBlock (fo : Nat) (key : Acc) (field pan : List Byte) : Option (List Byte) :=
  if fo = 4 then
    if key.alg = .aes then some (key.encipher (xorBytes (key.encipher field) pan)) else none
  else if key.alg = .tdes then
    some (fitBytes 16 (key.encipher (if fo = 1 then field else xorBytes field (pan.take 8)))) else none

/-- GO of the PIN format unit of pair `u` (R116, R294). -/
def startPin (y l u : Nat) (s : State) : Eff :=
  let p := (s.sheave y l).port
  let base := 0x10000 + u * 0x100
  let key := p.acc (base + 0x40)
  let fmt := p.word base
  let fi := fmt % 16
  let fo := fmt / 16 % 16
  let ok := key.pairRuns && key.usage == some 3
  let t := key.unitTime
  let n := if fo = 4 then 2 else 1
  match s.cipherFlight y l u n t (2 * t + 4) with
  | none => .fault 0x06
  | some f =>
    let (masked, s) := s.maskBlocks n
    let s := s.mismatch (!ok)
    let (k, s) := s.draw
    let blk := quadBytes (p.acc (base + 0x30)).val
    let panIn := quadBytes (p.acc (base + 0x10)).val
    let panOut := quadBytes (p.acc (base + 0x20)).val
    let field := if fi = 0 || fi = 3 then xorBytes (blk.take 8) (panIn.take 8) else blk
    let (res, stat) : Acc × Word :=
      if !ok || !masked then (sealedZero, 0)
      else if !(pinFormat fi && pinFormat fo) then ({ val := bytesQuad (randBytes k 16) }, BitVec.ofNat 32 (Config.freeNat k % 2))
      else match pinOf fi field with
        | none => ({}, 1)
        | some pin => ({ val := bytesQuad ((pinBlock fo key (pinField fo pin k) panOut).getD (randBytes k 16)) }, 0)
    .ok (s.launch { f with
      q := [(base + 0x60, res)], w := [(base + 0x70, stat)],
      latch := (if masked then [] else [stRngHealth]) ++ (if ok then [] else [stKeyUsage]) }) [] none

end Sys2Proof.Machine
end

