-- ==== Sys2Proof/Machine/HashCore.lean ====
section
/-!
DEFINITION. The hash cores (R170 to R178), the GHASH unit (R128), the check-value unit of a Sheave (R440, R441, R585) and
the rill port (R118, R129, R417).
-/
set_option autoImplicit false

namespace Sys2Proof.Machine

/-! ### Hash cores -/

/-- A hash function: block or rate, padding length that the block count adds, cycles of one permutation or compression,
digest length, SHA-2, SHAKE. -/
structure HashFn where
  block : Nat
  pad   : Nat
  t     : Nat
  out   : Nat
  sha2  : Bool
  shake : Bool
  run   : Nat → List Byte → List Byte

/-- The functions of MODE [3:0]. -/
def hashFn (mode : Nat) : Option HashFn :=
  match mode with
  | 0 => some ⟨136, 0, 24, 32, false, false, fun _ m => sha3_256 m⟩
  | 1 => some ⟨104, 0, 24, 48, false, false, fun _ m => sha3_384 m⟩
  | 2 => some ⟨72, 0, 24, 64, false, false, fun _ m => sha3_512 m⟩
  | 3 => some ⟨168, 0, 24, 64, false, true, fun n m => shake128 n m⟩
  | 4 => some ⟨136, 0, 24, 64, false, true, fun n m => shake256 n m⟩
  | 8 => some ⟨64, 8, 64, 32, true, false, fun _ m => sha256 m⟩
  | 9 => some ⟨128, 16, 80, 64, true, false, fun _ m => sha512 m⟩
  | _ => none

/-- First offset of a core in the port window. -/
def hashBase (sha2 : Bool) (u : Nat) : Nat := (if sha2 then 0x24000 else 0x20000) + u * 0x100

/-- Kind of Table 2.9, fault source and unit kind of a hash core. -/
def hashKind (sha2 : Bool) : Nat := if sha2 then 2 else 1

/-- Fault source of a hash core. -/
def hashSrc (sha2 : Bool) : Nat := if sha2 then srcSha2 else srcKeccak

/-- Unit kind of a hash core. -/
def hashUnit (sha2 : Bool) : UnitKind := if sha2 then .sha2 else .keccak

/-- The last unit fault of the HASH page. -/
def State.hashLast (s : State) (t : Tag) (sha2 : Bool) (code p : Nat) : State :=
  let s := ((s.setReg Reg.HASH.LF_CODE code).setBit Reg.HASH.LF_KIND sha2).setReg Reg.HASH.LF_PHYS p
  ((s.setReg Reg.HASH.LF_PART t.part).setReg Reg.HASH.LF_CLASS t.cls).setReg Reg.HASH.LF_FRAME s.frame32

/-- The four digest registers from a digest. -/
def digestRegs (base : Nat) (d : List Byte) : List (Nat × Acc) :=
  let d := fitBytes 64 d
  (List.range 4).map fun i => (base + 0x50 + 0x10 * i, { val := bytesQuad (cut d (16 * i) 16) })

/-- Misuse of the hash port (R175). -/
def hashMisuse (fn : Option HashFn) (sha2 keyed : Bool) (key : Acc) (out : Nat) : Bool :=
  match fn with
  | none => true
  | some h => h.sha2 != sha2 || (keyed && (h.shake || !key.key || key.usage != some 2)) || (h.shake && out == 0)

/-- FINAL at core `u` with the value written (R171 to R175). -/
def startHash (sha2 : Bool) (y l u value : Nat) (s : State) : Eff :=
  let p := (s.sheave y l).port
  let base := hashBase sha2 u
  let mode := p.word base
  let keyed := bitOf mode 4
  let key := p.acc (base + 0x30)
  let len := p.word (base + 0x20)
  let src := p.word (base + 0x10)
  let fn := hashFn (mode % 16)
  let out := value % 128
  let a := fabricOf (s.sheave y l).cpu.cyc
  let tag := s.tagOf y l
  let kind := hashKind sha2
  let phys := s.poolUnit kind u
  let fly (occ : Nat) : Flight := { kind := hashUnit sha2, logic := u, phys := [phys], tag := tag, start := a, stop := a + occ, r := a + occ + 5 }
  match fn, hashMisuse fn sha2 keyed key out with
  | some h, false =>
    let n := (len + h.pad) / h.block + 1 + (if keyed then 3 else 0)
    let mem := if len = 0 then .ok .dram else s.memCheck y l src len 1 .src
    match mem with
    | .error c => .fault c
    | .ok r =>
      if !s.window tag.slot kind u 1 a (a + n * h.t) then .fault 0x06
      else
        let msg := if len = 0 then [] else s.memBytes y l r src len
        let (masked, s) := if keyed then s.maskBlocks 0 else (true, s)
        let d := if !masked then [] else if keyed then hmac (h.run 0) h.block key.keyBytes msg else h.run out msg
        let s := if sha2 then s.inc64 Reg.HASH.COMP_CNT_LO Reg.HASH.COMP_CNT_HI n else s.inc64 Reg.HASH.PERM_CNT_LO Reg.HASH.PERM_CNT_HI n
        .ok (s.launch { fly (n * h.t) with
          q := digestRegs base d, src := some (src, len), args := [if h.shake then min 64 out else h.out],
          latch := if masked then [] else [stRngHealth] }) [] none
  | _, _ =>
    let occ := if sha2 then 64 else 24
    if !s.window tag.slot kind u 1 a (a + occ) then .fault 0x06
    else
      let s := ((s.inc Reg.HASH.MISUSE_CNT).raise pgHash 2).hashLast tag sha2 0x43 phys
      let (m, s) := s.markItem tag 0x43 phys kind a
      let s := if m then s.fault 1 (hashSrc sha2) 0 phys else s
      .ok (s.launch { fly occ with q := digestRegs base [] }) [] none

/-- A store of the item to the message of a hash that runs leaves its digest undefined (R172): free bytes. -/
def State.spoilHash (s : State) (y l a n : Nat) : State :=
  let hit (f : Flight) : Bool := f.tag.y == y && f.tag.l == l && match f.src with
    | some (b, m) => decide (a < b + m) && decide (b < a + n)
    | none => false
  if s.flights.any hit then
    let (k, s) := s.draw
    { s with flights := s.flights.map fun f => if hit f then
        { f with q := digestRegs (hashBase (f.kind == .sha2) f.logic) (randBytes k (f.args.headD 0)) } else f }
  else s

/-- A state-check failure of a core, detected in fabric cycle `cyc` (R176). -/
def State.hashFault (s : State) (f : Flight) (sha2 : Bool) (cyc : Nat) : State :=
  let p := f.phys.headD 0
  let kind := hashKind sha2
  let code := if sha2 then 0x42 else 0x41
  let s := (s.inc Reg.HASH.STATE_FAULT_CNT).nibble (if sha2 then Reg.HASH.SHA2_FAULTS else Reg.HASH.KECCAK_FAULTS) p
  let s := (s.hashLast f.tag sha2 code p).raise pgHash 0
  let (m, s) := s.markItem f.tag code p kind cyc
  let s := if m then s.fault 1 (hashSrc sha2) 0 p else s
  s.poolFaultCount kind p

/-- `HASH_RESULT` : the FINAL of a core with the earliest result time reaches it; a state-check failure zeroes the digest. -/
def execHashResult (sha2 : Bool) (u : Fin 64) (bad : Option Nat) (s : State) : Result :=
  match takeFlight (hashUnit sha2) u s.flights with
  | none => .next s
  | some (f, rest) =>
    let s := { s with flights := rest }
    match bad with
    | some cyc => .next ((s.hashFault f sha2 cyc).conclude { f with q := digestRegs (hashBase sha2 u) [] })
    | none => .next (s.conclude f)

/-! ### GHASH (R128) -/

/-- The Y state of a Sheave. -/
def PortIf.ghY (p : PortIf) : Quad := match p.gh with
  | (_, v) :: _ => v
  | [] => 0

/-- The Y register as a GET in Sheave cycle `c` reads it (R114). -/
def PortIf.ghRead (p : PortIf) (c : Nat) : Quad :=
  match p.gh.find? fun e => decide (sheaveOf e.1 ≤ c) with
  | some (_, v) => v
  | none => 0

/-- A new Y state with its result time; states that no GET can read any more are dropped. -/
def PortIf.ghPush (p : PortIf) (c : Nat) (v : Quad) : PortIf :=
  { p with gh := (fabricOf c + 16, v) :: (p.gh.filter fun e => decide (c < sheaveOf e.1)) ++ (p.gh.filter fun e => decide (sheaveOf e.1 ≤ c)).take 1 }

/-- INIT: Y ← 0. -/
def startGhInit (y l : Nat) (s : State) : Eff :=
  .ok (s.updPort y l fun p => p.ghPush (s.sheave y l).cpu.cyc 0) [] none

/-- X: Y ← (Y XOR X) · H; PORT_TIMEOUT within 13 Sheave cycles of the previous X (Table 3.12). -/
def startGhX (y l : Nat) (x : Acc) (s : State) : Eff :=
  let sh := s.sheave y l
  let c := sh.cpu.cyc
  let early := match sh.port.ghLast with
    | some p => decide (c < p + 13)
    | none => false
  if early then .fault 0x06
  else
    let v := bytesQuad (ghashStep (quadBytes (sh.port.acc 0x30000).val) (quadBytes sh.port.ghY) (quadBytes x.val))
    .ok (s.updPort y l fun p => { p.ghPush c v with ghLast := some c }) [] none

/-! ### CVU (R585) -/

/-- FOLD of a word (R585): the SRC payload, DATAQ and the word are absorbed. -/
def startFold (y l : Nat) (word : Word) (s : State) : Eff :=
  let p := (s.sheave y l).port
  let len := p.word 0x60020
  let src := p.word 0x60010
  let mem := if len = 0 then .ok .dram else s.memCheck y l src len 1 .src
  match mem with
  | .error c => .fault c
  | .ok r =>
    let a := fabricOf (s.sheave y l).cpu.cyc
    let bs := (if len = 0 then [] else s.memBytes y l r src len) ++ (match p.dataq with | some q => quadBytes q.val | none => [])
    let par := crcPar (p.word 0x60000 % 4)
    let sealed := (p.dataq.map Acc.sealed).getD false
    .ok (s.updPort y l fun p => { p with dataq := none, cvu := { r := a + ceilDiv (bs.length + 4) 16 + 5, val := crcFold par bs word.toNat, w := par.w, sec := sealed } :: p.cvu.take 63 }) [] none

/-- CMP: M ← the check value of the last FOLD equals the expected value, at the later of its result time and a + 1. -/
def startCvuCmp (y l : Nat) (s : State) : Eff :=
  let sh := s.sheave y l
  let a := fabricOf sh.cpu.cyc
  let e := sh.port.cvu.headD { r := 0, val := 0, w := 64, sec := false }
  let exp := sh.port.word 0x60050 + 2 ^ 32 * sh.port.word 0x60054
  let t := sheaveOf (max e.r (a + 1))
  .ok s [(t - (sh.cpu.cyc + 1), .fl none none none none (some (decide (e.val = exp % 2 ^ e.w))))] none

/-- RES as a GET in Sheave cycle `c` reads it; zero when sealed input was absorbed. -/
def PortIf.cvuRead (p : PortIf) (c : Nat) : Nat :=
  match p.cvu.find? fun e => decide (sheaveOf e.r ≤ c) with
  | some e => if e.sec then 0 else e.val
  | none => 0

/-! ### Rill port -/

/-- The key of a Sheave's rill buffer. -/
def bufKey (y l : Nat) : Nat := y * 16 + l

/-- `RILL_BUFFER_REFILL` : 16 B to the buffer of a Sheave, up to 64 B (R129); the yard rill's generate call gives 1 KB,
64 blocks. A rill that does not serve gives nothing. -/
def execRillBufferRefill (y : Fin 64) (l : Fin 16) (s : State) : Result :=
  let b := SMap.get [] s.spring.rillBuf (bufKey y l)
  if 64 ≤ b.length || !s.rillServes (yardRill y) then .next s
  else
    let (k, s) := s.draw
    let n := SMap.get 0 s.spring.blockCnt y.val
    let s := if n = 0 then s.rillCalls (yardRill y) 1 else s
    .next { s with spring := { s.spring with
      rillBuf := SMap.put [] s.spring.rillBuf (bufKey y l) (b ++ randBytes k 16), blockCnt := SMap.put 0 s.spring.blockCnt y.val ((n + 1) % 64) } }

/-- A RAND or RANDQ read of `n` bytes: the bytes and VALID, which changes as the read issues (DESIGN CHOICE,
notes/assumptions/72.md); an exhausted rill latches RNG_HEALTH, an empty buffer
nothing (R118, R417). -/
def State.rillRead (s : State) (y l n delay : Nat) : List Byte × State :=
  let b := SMap.get [] s.spring.rillBuf (bufKey y l)
  let sh := s.sheave y l
  let valid (s : State) (v : Bool) : State := s.updPort y l fun p => p.results [] [(0x70030, if v then 1 else 0)]
  if s.rillRefuses (yardRill y) then
    let s := (s.rillRefused (yardRill y)).reportAt y l (sh.cpu.cyc + 1 + delay) stRngHealth
    (List.replicate n 0, valid s false)
  else if b.length < n then (List.replicate n 0, valid s false)
  else (b.take n, valid { s with spring := { s.spring with rillBuf := SMap.put [] s.spring.rillBuf (bufKey y l) (b.drop n) } } true)

/-- A KRANDQ read: 16 sealed bytes of the owning partition's rill; a sealed zero with RNG_HEALTH where it refuses. -/
def State.krandRead (s : State) (y l : Nat) : Acc × State :=
  let sh := s.sheave y l
  let part := ((s.item sh.item).map Item.part).getD 0
  let valid (s : State) (v : Bool) : State := s.updPort y l fun p => p.results [] [(0x70030, if v then 1 else 0)]
  match s.rillDraw part with
  | (some k, s) => ({ val := bytesQuad (randBytes k 16), sealed := true }, valid s true)
  | (none, s) => (sealedZero, valid (s.reportAt y l (sh.cpu.cyc + 9) stRngHealth) false)

end Sys2Proof.Machine
end

