-- ==== Sys2Proof/Machine/MlKem.lean ====
section
/-!
DEFINITION. ML-KEM-768 of FIPS 203 (R243): key generation from d ‖ z, encapsulation, and decapsulation with implicit
rejection.
-/
set_option autoImplicit false

namespace Sys2Proof.Machine

/-- The modulus of ML-KEM. -/
def qK : Nat := 3329

/-- The roots of the transform, by node. -/
def zetaK (k : Nat) : Nat := powQ qK 17 (bitRev 7 k)
/-- The inverse roots, by node: ζ has order 256. -/
def zetaKInv (k : Nat) : Nat := powQ qK 17 (256 - bitRev 7 k)

/-- The transform of ML-KEM, to 128 residues of degree one. -/
def nttK (p : Poly) : Poly := nttRec qK zetaK 7 1 p
/-- Its inverse; 3,303 is the inverse of 128. -/
def inttK (p : Poly) : Poly := (invRec qK zetaKInv 7 1 p).map fun x => x * 3303 % qK

/-- A product in the transformed domain: pairs modulo X² − γ. -/
def mulKAux : Nat → Poly → Poly → Poly
  | i, a0 :: a1 :: as, b0 :: b1 :: bs =>
    let g := powQ qK 17 (2 * bitRev 7 i + 1)
    ((a0 * b0 + a1 * b1 % qK * g) % qK) :: ((a0 * b1 + a1 * b0) % qK) :: mulKAux (i + 1) as bs
  | _, _, _ => []

/-- A product in the transformed domain. -/
def mulK (a b : Poly) : Poly := mulKAux 0 a b
/-- A row of products, summed. -/
def dotK (a b : List Poly) : Poly := (List.zipWith mulK a b).foldl (polyAdd qK) polyZero

/-- SampleNTT. -/
def sampleK (seed : List Byte) : Poly :=
  rejBlocks 168 256 (fun b => (blocks 3 b).flatMap fun t =>
    let v := leNat t
    [v % 4096, v / 4096].filter (· < qK)) 64 (spongeState 168 seed) []

/-- The matrix; entry (i, j) comes from ρ ‖ j ‖ i. -/
def matK (rho : List Byte) : List (List Poly) :=
  (List.range 3).map fun i => (List.range 3).map fun j => sampleK (rho ++ [BitVec.ofNat 8 j, BitVec.ofNat 8 i])

/-- SamplePolyCBD with η = 2 over PRF output. -/
def cbdK (seed : List Byte) (n : Nat) : Poly :=
  (unpackBits 4 256 (shake256 128 (seed ++ [BitVec.ofNat 8 n]))).map fun v =>
    (v % 2 + v / 2 % 2 + qK - (v / 4 % 2 + v / 8 % 2)) % qK

/-- Compress to `d` bits. -/
def compressK (d : Nat) (p : Poly) : List Nat := p.map fun x => (2 ^ (d + 1) * x + qK) / (2 * qK) % 2 ^ d
/-- Decompress from `d` bits. -/
def decompressK (d : Nat) (vs : List Nat) : Poly := vs.map fun y => (2 * qK * y + 2 ^ d) / 2 ^ (d + 1)

/-- K-PKE.KeyGen: ek and ŝ. -/
def kpkeKey (d : List Byte) : List Byte × List Poly :=
  let g := sha3_512 (d ++ [3])
  let rho := g.take 32
  let sg := g.drop 32
  let s := (List.range 3).map fun i => nttK (cbdK sg i)
  let e := (List.range 3).map fun i => nttK (cbdK sg (i + 3))
  let t := List.zipWith (fun row e => polyAdd qK (dotK row s) e) (matK rho) e
  (t.flatMap (packBits 12) ++ rho, s)

/-- The encapsulation key of d ‖ z. -/
def mlkemEk (dz : List Byte) : List Byte := (kpkeKey (dz.take 32)).1

/-- The polynomials of an encapsulation key. -/
def ekPolys (ek : List Byte) : List Poly := (List.range 3).map fun i => unpackBits 12 256 (cut ek (384 * i) 384)

/-- Every coefficient of an encapsulation key is below q (FIPS 203, section 7.2). -/
def mlkemEkOk (ek : List Byte) : Bool := ek.length == 1184 && (ekPolys ek).all fun p => p.all (· < qK)

/-- K-PKE.Encrypt. -/
def kpkeEnc (ek m r : List Byte) : List Byte :=
  let t := (ekPolys ek).map fun p => p.map (· % qK)
  let a := matK (ek.drop 1152)
  let y := (List.range 3).map fun i => nttK (cbdK r i)
  let e1 := (List.range 3).map fun i => cbdK r (i + 3)
  let u := (List.range 3).map fun i => polyAdd qK (inttK (dotK (a.map fun row => row.getD i polyZero) y)) (e1.getD i polyZero)
  let v := polyAdd qK (polyAdd qK (inttK (dotK t y)) (cbdK r 6)) (decompressK 1 (unpackBits 1 256 m))
  u.flatMap (fun p => packBits 10 (compressK 10 p)) ++ packBits 4 (compressK 4 v)

/-- Encapsulation with message m: shared key and ciphertext. -/
def mlkemEncaps (ek m : List Byte) : List Byte × List Byte :=
  let g := sha3_512 (m ++ sha3_256 ek)
  (g.take 32, kpkeEnc ek m (g.drop 32))

/-- Decapsulation under d ‖ z, with implicit rejection. -/
def mlkemDecaps (dz ct : List Byte) : List Byte :=
  let (ek, s) := kpkeKey (dz.take 32)
  let u := (List.range 3).map fun i => nttK (decompressK 10 (unpackBits 10 256 (cut ct (320 * i) 320)))
  let v := decompressK 4 (unpackBits 4 256 (ct.drop 960))
  let m := packBits 1 (compressK 1 (polySub qK v (inttK (dotK s u))))
  let g := sha3_512 (m ++ sha3_256 ek)
  if kpkeEnc ek m (g.drop 32) = ct then g.take 32 else shake256 32 (dz.drop 32 ++ ct)

end Sys2Proof.Machine
end

