-- ==== Sys2Proof/Machine/Pu.lean ====
section
/-!
DEFINITION. The polynomial unit (R225 to R251), and GO of the mailbox that it shares with the big-number engine.
-/
set_option autoImplicit false

namespace Sys2Proof.Machine

/-! ### Commands (R228) -/

/-- The reserved bits of the command words of the PU (Table 6.3, Table 7.1). -/
def puRsv (i : Nat) : Nat :=
  match i with
  | 0 => 0xF1FF | 4 => 0xFFFFE0E0 | 5 => 0xFFF00000 | 6 => 0xFFFF0000 | 7 => 0xFFF00000 | 9 => 0xFFFFC0F0 | 10 => 0xFF00FFE0 | _ => 0

/-- CTX_LEN. -/
def BneCmd.ctxLen (c : BneCmd) : Nat := c.f 10 16 8
/-- ITERS. -/
def BneCmd.iters (c : BneCmd) : Nat := c.f 10 0 5
/-- PK_HELD. -/
def BneCmd.pkHeld (c : BneCmd) : Bool := c.flag 11

/-- One cluster. -/
def State.cluster (s : State) (j : Nat) : Cluster := SMap.get {} s.pu.clusters j

/-- Replace a cluster. -/
def State.setCluster (s : State) (j : Nat) (v : Cluster) : State :=
  { s with pu := { s.pu with clusters := SMap.put {} s.pu.clusters j v } }

/-- Clear the held state of a cluster. -/
def State.dropHeld (s : State) (j : Nat) : State := s.setCluster j { s.cluster j with held := .none, item := 0 }

/-- The held state of a cluster for an item. -/
def State.heldOf (s : State) (j item : Nat) : PuHeld := if (s.cluster j).item = item then (s.cluster j).held else .none

/-- The held states of an item are cleared (R231). -/
def State.dropItemHeld (s : State) (item : Nat) : State :=
  (List.range 16).foldl (fun s j => if (s.cluster j).held ≠ .none && (s.cluster j).item = item then s.dropHeld j else s) s

/-! ### Shapes (Table 7.2) -/

/-- The shape of a PU command. -/
structure PuShape where
  words  : List Nat
  dsa    : Option Bool
  cost   : Nat
  gmax   : Nat := 1
  inB    : Option (Nat × Nat) := none
  outB   : Option (Nat × Nat) := none
  misuse : Bool := false
  /-- The held state has the kind that the command requires. -/
  held   : PuHeld → Bool := fun _ => true
  fresh  : Nat := 0
  keccak : Bool := true
  checked : Bool := false

/-- A held ML-DSA seed. -/
def PuHeld.isDsa : PuHeld → Bool
  | .mldsaSeed _ _ => true
  | _ => false
/-- A held ML-DSA public key. -/
def PuHeld.isPub : PuHeld → Bool
  | .mldsaPub _ => true
  | _ => false
/-- A held ML-KEM seed. -/
def PuHeld.isKem : PuHeld → Bool
  | .mlkemSeed _ => true
  | _ => false
/-- A held shared secret. -/
def PuHeld.isK : PuHeld → Bool
  | .mlkemK _ => true
  | _ => false
/-- A held sign state. -/
def PuHeld.isSign : PuHeld → Bool
  | .sign _ _ _ _ _ => true
  | _ => false

/-- A private key, a seed or a sign state, for which the command that reads it draws blinding (R244). -/
def PuHeld.secret (h : PuHeld) : Bool := h.isDsa || h.isKem || h.isSign

/-- Permutations that absorb tr ‖ M′. -/
def puPerms (c : BneCmd) : Nat := (66 + c.ctxLen + c.inLen) / 136 + 1

/-- The shape of a PU command; none for a reserved OP. -/
def puShape (c : BneCmd) : Option PuShape :=
  let out (n : Nat) : Option (Nat × Nat) := if c.bufOut then some (c.outOff, n) else none
  let o := outWord c.bufOut
  let noIters := c.iters < 1 || 16 < c.iters
  match c.op with
  | 0x60 => some {
      words := [0, 4, 8, 9], dsa := none, cost := 60 * c.rows, keccak := false,
      misuse := !([1, 5, 7].contains c.use) }
  | 0x61 => some {
      words := [0, 4, 5, 7], dsa := none, cost := 16, keccak := false, inB := some (c.inOff, 48), outB := some (c.outOff, 8),
      held := fun h => h.isDsa || h.isKem || h.isK }
  | 0x62 => some { words := [0, 4], dsa := none, cost := 8, keccak := false }
  | 0x68 => some { words := [0, 4] ++ o, dsa := some true, cost := 4000, gmax := 4, outB := out 1312, fresh := 32, checked := true }
  | 0x69 => some {
      words := [0, 4, 5, 6, 10] ++ o, dsa := some true, cost := 3000 + 24 * puPerms c + 330 * c.iters, inB := some (c.inOff, c.ctxLen + c.inLen),
      outB := out 2420, misuse := noIters || 4096 < c.inLen, held := PuHeld.isDsa, fresh := if c.det then 0 else 32, checked := true }
  | 0x6A => some {
      words := [0, 4, 10] ++ o, dsa := some true, cost := 1100 + 330 * c.iters, outB := out 2420, misuse := noIters, held := PuHeld.isSign,
      checked := true }
  | 0x6B => some {
      words := [0, 4, 5, 6, 10], dsa := some true, cost := 3828 + 24 * puPerms c, gmax := 4,
      inB := some (c.inOff, (if c.pkHeld then 0 else 1312) + 2420 + c.ctxLen + c.inLen), misuse := 4096 < c.inLen,
      held := fun h => !c.pkHeld || h.isPub }
  | 0x70 => some { words := [0, 4] ++ o, dsa := some false, cost := 7100, gmax := 4, outB := out 1184, fresh := 64, checked := true }
  | 0x71 => some {
      words := [0, 4, 5, 6] ++ o, dsa := some false, cost := 2000, gmax := 4, inB := some (c.inOff, c.inLen), outB := out 1088,
      misuse := c.inLen ≠ 1184, fresh := 32 }
  | 0x72 => some {
      words := [0, 4, 5, 6], dsa := some false, cost := 2700, gmax := 4, inB := some (c.inOff, c.inLen), misuse := c.inLen ≠ 1088,
      held := PuHeld.isKem }
  | _ => none

/-- A gang of clusters that a command may use. -/
def BneCmd.clustersOk (c : BneCmd) (gmax : Nat) : Bool := [1, 2, 4].contains c.g && decide (c.g ≤ gmax) && decide (c.lane + c.g ≤ 16)

/-- The command is marked BNE_MISUSE (R228, R230, R245). -/
def State.puMisused (s : State) (i : Option Item) (item : Nat) (c : BneCmd) : Option PuShape → Bool
  | none => true
  | some sh =>
    let blen := match i with
      | some i => (s.bufferOf i).2
      | none => 0
    let room (b : Option (Nat × Nat)) : Bool := match b with
      | some (o, n) => decide (o + n ≤ blen)
      | none => true
    sh.misuse || c.reserved puRsv sh.words || !c.clustersOk sh.gmax || !room sh.inB || !room sh.outB
      || (match sh.outB with | some (o, _) => o % 4 != 0 | none => false)
      || !(c.dom == 0x10 || c.dom == 0x11) || (match sh.dsa with | some d => d != (c.dom == 0x10) | none => false)
      || !sh.held (s.heldOf c.lane item)

/-! ### What a command computes -/

/-- The outcome of a PU command: result code, MORE, the held state, the buffer output, iterations run. -/
structure PuEval where
  code : Nat := 0
  more : Bool := false
  held : PuHeld := .none
  buf  : List Byte := []
  run  : Nat := 0

/-- `n` rejection iterations of a signature from iteration `i` on (R236). -/
def signRun (xi tr mu rnd : List Byte) (n i : Nat) : PuEval :=
  match mldsaLoop (mldsaPrep xi mu rnd) n i with
  | some (sig, j) => if mldsaVerifyMu (mldsaPk xi) mu sig then { buf := sig, run := j + 1 - i } else { code := stSigFault, run := j + 1 - i }
  | none => { more := true, held := .sign xi tr mu rnd (i + n), run := n }

/-- What a command other than PKLOAD, PKSTORE and PCLEAR computes of its held state, its buffer input and its fresh
bytes. -/
def puEval (c : BneCmd) (h : PuHeld) (b rnd : List Byte) : PuEval :=
  match c.op, h with
  | 0x68, _ =>
    let k := mldsaKey rnd
    { held := .mldsaSeed rnd (k.tr.take 32), buf := k.pk }
  | 0x69, .mldsaSeed xi tr =>
    let k := mldsaKey xi
    if k.tr.take 32 ≠ tr then { code := stSigFault }
    else signRun xi tr (mldsaMu k.pk (b.take c.ctxLen) (b.drop c.ctxLen)) (if c.det then List.replicate 32 0 else rnd) c.iters 0
  | 0x6A, .sign xi tr mu r i => signRun xi tr mu r c.iters i
  | 0x6B, _ =>
    let (pk, r) := match c.pkHeld, h with
      | true, .mldsaPub p => (p, b)
      | _, _ => (b.take 1312, b.drop 1312)
    let m := r.drop 2420
    { code := if mldsaVerifyMu pk (mldsaMu pk (m.take c.ctxLen) (m.drop c.ctxLen)) (r.take 2420) then 0 else stAuthFail }
  | 0x70, _ => { held := .mlkemSeed rnd, buf := mlkemEk rnd }
  | 0x71, _ =>
    if mlkemEkOk b then
      let (k, ct) := mlkemEncaps b rnd
      { held := .mlkemK k, buf := ct }
    else { code := stInputRange }
  | 0x72, .mlkemSeed dz => { held := .mlkemK (mlkemDecaps dz b) }
  | _, _ => {}

/-- The form check of a PKLOAD (R232). -/
def pkloadForm (dom rows use : Nat) (e : Entry) : Bool :=
  (dom == 0x10 && e.alg == 0x40 && use == 5 && rows == 1) || (dom == 0x10 && e.alg == 0x41 && use == 7 && rows == 21)
    || (dom == 0x11 && e.alg == 0x48 && use == 1 && rows == 1)

/-- What PKLOAD holds of an entry. -/
def Entry.puHeld (e : Entry) : PuHeld :=
  if e.alg = 0x40 then .mldsaSeed (e.material.take 32) (cut e.material 32 32)
  else if e.alg = 0x41 then .mldsaPub e.material
  else .mlkemSeed e.material

/-- The material of a PKSTORE, and whether the template's ALG matches it (R270). -/
def PuHeld.material (h : PuHeld) (t : Entry) : List Byte × Bool :=
  match h with
  | .mldsaSeed xi tr => (xi ++ tr, t.alg == 0x40)
  | .mlkemSeed dz => (dz, t.alg == 0x48)
  | .mlkemK k => (k, (t.alg == 0x03 || t.alg == 0x08) && t.klen == 32)
  | _ => ([], false)

/-! ### Starting a command -/

/-- The last fault of the PU page. -/
def State.puLast (s : State) (t : Tag) (code j : Nat) : State :=
  let s := (s.setReg Reg.PU.LF_CODE code).setReg Reg.PU.LF_CLUSTER j
  ((s.setReg Reg.PU.LF_PART t.part).setReg Reg.PU.LF_CLASS t.cls).setReg Reg.PU.LF_FRAME s.frame32

/-- A unit fault of the PU marks its item (R245). -/
def State.puFault (s : State) (t : Tag) (code j cyc : Nat) : State :=
  let s := s.puLast t code j
  let (m, s) := s.markItem t code j 4 cyc
  if m then s.fault 1 (if code = 0x55 then srcPum else srcPu) 0 j else s

/-- The windows of a command: its clusters and, where it uses them, their Keccak cores (R226). -/
def State.puWindows (s : State) (slot first g a b : Nat) (keccak : Bool) : Bool :=
  s.windows slot 4 first g a b && (!keccak || s.windows slot 1 (4 * first) (4 * g) a b)

/-- A misused command of the PU (R198). -/
def State.puMisuse (s : State) (y l : Nat) (c : BneCmd) (gmax : Nat) : Eff :=
  let a := fabricOf (s.sheave y l).cpu.cyc
  let tag := s.tagOf y l
  let n := if c.clustersOk gmax then c.g else 1
  if !s.puWindows tag.slot c.lane n a (a + 8) false then .fault 0x06
  else
    let s := s.puFault tag ufMisuse c.lane a
    let s := s.inc64 Reg.PU.CLUSTER_CYCLES_LO Reg.PU.CLUSTER_CYCLES_HI (8 * n)
    let s := s.updPort y l fun p => p.results [] [(bneStatus, 0)]
    .ok (s.launch { kind := .pu, logic := mailKey y l, tag := tag, start := a, stop := a + 8, r := a + 12, code := stInternal }) [] none

/-- GO of a command of the PU. -/
def startPu (c : BneCmd) (bad : Option (Fin 32)) (y l : Nat) (s : State) : Eff :=
  let a := fabricOf (s.sheave y l).cpu.cyc
  let tag := s.tagOf y l
  let part := tag.part
  let it := s.item tag.item
  if s.unitBusy y l a then .ok (s.puFault tag ufMisuse c.lane a) [] none
  else
    let shape := puShape c
    match shape, s.puMisused it tag.item c shape with
    | some sh, false =>
      let occ := if c.op = 0x60 then sh.cost else ceilDiv sh.cost c.g
      let fits := s.puWindows tag.slot c.lane c.g a (a + occ) sh.keccak && (c.op ≠ 0x60 || s.window tag.slot 5 0 1 a (a + occ))
      if !fits then .fault 0x06
      else
        let base := match it with
          | some i => (s.bufferOf i).1
          | none => 0
        let h := s.heldOf c.lane tag.item
        let s := s.inc64 Reg.PU.CLUSTER_CYCLES_LO Reg.PU.CLUSTER_CYCLES_HI (occ * c.g)
        let reads := ([0x61, 0x69, 0x6A, 0x72].contains c.op && h.secret) || (c.op = 0x60 && c.use ≠ 7)
        let (blind, s) := if reads then s.blindDraw else (true, s)
        let (fresh, s) := s.freshDraw part sh.fresh
        let (b, s) := match sh.inB with
          | some (o, n) => s.unitRead tag true (base + o) n a
          | none => ([], s)
        let (ev, kreq, s) : PuEval × Option KReq × State :=
          if c.op = 0x60 && blind then
            let (o, s) := s.cleatRead part c.handle c.use (bad.map Fin.val) (pkloadForm c.dom c.rows c.use)
            match o with
            | .granted _ e => ({ held := e.puHeld }, none, s)
            | .check => ({ code := stInternal }, none, s.markRow tag (a + occ))
            | .absent => ({ code := stKeyAbsent }, none, s)
            | .usage => ({ code := stKeyUsage }, none, s)
          else if !blind || fresh.isNone then ({ code := stRngHealth }, none, s)
          else if c.op = 0x61 then
            let (mat, ok) := h.material (tmplEntry b)
            ({}, some { mode := 1, tmpl := b, mat := mat, handle := 0, out := base + c.outOff, ok := ok, rng := false }, s)
          else (puEval c h b (fresh.getD []), none, s)
        let s := s.inc64 Reg.PU.ITER_CNT_LO Reg.PU.ITER_CNT_HI ev.run
        let s := if c.op = 0x62 && (s.cluster c.lane).item = tag.item then s.dropHeld c.lane else s
        let bufs := match sh.outB with
          | some (o, n) => if ev.more then [] else
            [({ addr := base + o, bytes := if ev.code = 0 then fitBytes n ev.buf else List.replicate n 0 } : BufOut)]
          | none => []
        let s := s.updPort y l fun p => p.results [] [(bneStatus, 0)]
        .ok (s.launch {
          kind := .pu, logic := mailKey y l, phys := (List.range c.g).map (c.lane + ·), tag := tag, start := a, stop := a + occ, r := a + occ + 4,
          bufs := bufs, code := ev.code, kreq := kreq, held := if c.op = 0x62 then none else some ev.held,
          args := bneArgs c.op (sh.checked && !ev.more) false ev.more false }) [] none
    | sh, _ => s.puMisuse y l c ((sh.map PuShape.gmax).getD 4)

/-- GO of the mailbox: OP selects the unit. -/
def startGo (op : Option Nat) (bad : Option (Fin 32)) (y l : Nat) (s : State) : Eff :=
  let c := (s.sheave y l).port.bneCmd op
  if 0x60 ≤ c.op && c.op ≤ 0x7F then startPu c bad y l s else startBne c bad y l s

/-! ### The result time -/

/-- An uncorrectable error of PU memory: counted; a second one within 2²⁰ frames is F3 (R227). -/
def State.pumUe (s : State) : State :=
  let s := (s.inc Reg.PU.PUM_UE_CNT).raise pgPu 4
  let ts := s.pu.ueFrames ++ [s.frame.ticks]
  let s := { s with pu := { s.pu with ueFrames := ts } }
  if closeFaults 2 ts then ({ s with glob := { s.glob with memUe := true } }).fault 3 srcPum 0 0 else s

/-- A cluster is to be retired: its F2 and the dependent F3, as there is no spare; it serves until DEGRADED (R137,
R245). -/
def State.retireCluster (s : State) (j : Nat) (src : Nat := srcPu) : State :=
  if bitOf (s.reg Reg.PU.RETIRE_REQ) j then s
  else
    let s := (s.setReg Reg.PU.RETIRE_REQ (orBit (s.reg Reg.PU.RETIRE_REQ) j)).raise pgPu 2
    (s.fault 2 src 0 j (unitSrc := srcPu)).exhausted { kind := 4, yard := 0, unit := j }

/-- A SIG_FAULT counts against every cluster of the gang; two within 2²⁰ frames retire one (R245). -/
def State.puSigFault (s : State) (f : Flight) : State :=
  let s := ((s.inc Reg.PU.SIG_FAULT_CNT).puLast f.tag stSigFault (f.phys.headD 0)).raise pgPu 0
  f.phys.foldl (fun s j =>
    let s := s.nibble Reg.PU.CLUSTER_FAULTS j
    let c := s.cluster j
    let ts := c.faultFrames ++ [s.frame.ticks]
    let s := s.setCluster j { c with faultFrames := ts }
    if closeFaults 2 ts then s.retireCluster j else s) s

/-- Logical Keccak core `core` feeds a cluster of the command's gang, and the command uses it (R226). -/
def Flight.serves (f : Flight) (core : Nat) : Bool := !([0x60, 0x61, 0x62].contains (f.args.headD 0)) && f.phys.contains (core / 4)

/-- A state-check failure of a Keccak core that serves the PU (R176, R226). -/
def State.keccakFault (s : State) (t : Tag) (p cyc : Nat) : State :=
  let s := ((s.inc Reg.HASH.STATE_FAULT_CNT).nibble Reg.HASH.KECCAK_FAULTS p).raise pgHash 0
  let s := s.hashLast t false 0x41 p
  let (m, s) := s.markItem t 0x41 p 1 cyc
  (if m then s.fault 1 srcKeccak 0 p else s).poolFaultCount 1 p

/-- A SIG_FAULT that the command itself gives counts. -/
def State.puOwn (s : State) (f : Flight) : Flight × State := (f, if f.code = stSigFault then s.puSigFault f else s)

/-- What the checks find, applied to a result of the PU. -/
def State.puChecks (s : State) (f : Flight) (flt : BneFlt) : Flight × State :=
  let misused := f.args.isEmpty
  let bad (f : Flight) (code : Nat) : Flight := { f.zeroed code with held := some .none, args := bneArgs 0 false false false false }
  match flt with
  | .ce =>
    let s := ((s.sat Reg.PU.PUM_CE_CNT).raise pgPu 3).fault 0 srcPum 0 0
    s.puOwn f
  | .keccak core cyc =>
    if !misused && f.serves core then (bad f stInternal, s.keccakFault f.tag (s.poolUnit 1 core) cyc) else s.puOwn f
  | .ue => if misused then (f, s) else (bad f stInternal, (s.puFault f.tag 0x55 (f.phys.headD 0) f.stop).pumUe)
  | .output _ =>
    if !misused && f.arg 1 && (f.code = 0 || f.code = stSigFault) then
      let f := bad f stSigFault
      (f, s.puSigFault f)
    else (f, s)
  | .none => s.puOwn f

/-- An accepted result replaces the held state of its first cluster and clears the others (R230). -/
def State.putHeld (s : State) (f : Flight) : State :=
  match f.held with
  | none => s
  | some h =>
    let s := f.phys.foldl State.dropHeld s
    let j := f.phys.headD 0
    if h = .none then s else s.setCluster j { s.cluster j with held := h, item := f.tag.item }

/-- The result of a command of the PU. -/
def State.puFinish (s : State) (f : Flight) (flt : BneFlt) : State :=
  let (f, s) := s.puChecks f flt
  if s.accepts f.tag f.r then
    let (f, s) := s.runKstore f
    let s := s.putHeld f
    let op := f.args.headD 0
    let s := if (op = 0x69 || op = 0x6A) && f.code = 0 && !f.arg 3 then
        match s.item f.tag.item with
        | some i => s.inc (Reg.PU.SIGN_F_CNT (min 3 (i.frames - 1)))
        | none => s
      else s
    s.bneDeliver f (if f.arg 3 then 2 ^ 29 else 0)
  else s.stale f.tag.y

/-- Take the oldest BNE or PU operation of a Sheave. -/
def takeMail (key : Nat) : List Flight → Option (Flight × List Flight)
  | [] => none
  | f :: fs =>
    if (f.kind = .bne || f.kind = .pu) && f.logic = key then some (f, fs)
    else match takeMail key fs with
      | some (g, r) => some (g, f :: r)
      | none => none

/-- A write to the store arrives before another: at an earlier result time, or in the same fabric cycle from a lower yard, then a
lower logical Sheave (R272). -/
def Flight.writesBefore (g f : Flight) : Bool :=
  g.kreq.isSome && f.kreq.isSome && (decide (g.r < f.r) || (g.r == f.r && decide (g.logic < f.logic)))

/-- `BNE_RESULT` : the oldest BNE or PU operation of a Sheave reaches its result time (R188, R228). A write to the store waits for
the writes that arrive before it (R272). -/
def execBneResult (y : Fin 64) (l : Fin 16) (flt : BneFlt) (s : State) : Result :=
  match takeMail (mailKey y l) s.flights with
  | none => .next s
  | some (f, rest) =>
    if rest.any fun g => g.writesBefore f then .next s
    else
      let s := { s with flights := rest }
      .next (if f.kind = .pu then s.puFinish f flt else s.bneFinish f flt)

end Sys2Proof.Machine
end

