-- ==== Sys2Proof/Machine/Sign.lean ====
section
/-!
DEFINITION. What Naris signs with the device identity key (R248, R249, R487), and the keys that it holds as SYSTEM entries
(R405).
-/
set_option autoImplicit false

namespace Sys2Proof.Machine

/-- The deterministic signature of a digest under the identity key, within 1,024 iterations (R248). -/
def identitySign (ctx : String) (digest : List Byte) : Option (List Byte) :=
  let pk := mldsaPk Config.identitySeed
  let g := mldsaPrep Config.identitySeed (mldsaMu pk (ascii ctx) digest) (List.replicate 32 0)
  (mldsaLoop g 1024 0).map Prod.fst

/-- Naris signs with masks of wire rill 3: the signature, or none with RNG_REFUSED or SIGN_LIMIT in ERR_CODE of the NARIS
page (R487). -/
def State.deviceSign (s : State) (ctx : String) (digest : List Byte) : Option (List Byte) × State :=
  match s.rillDraw (wireRill 3) with
  | (none, s) => (none, s.refuse pgNaris 0xB6)
  | (some _, s) =>
    match identitySign ctx digest with
    | some g => (some g, s)
    | none => (none, s.refuse pgNaris 0xB7)

/-- The domain key: the SYSTEM entry of AES-256 (R405); the empty string where the store holds none. -/
def State.domainKey (s : State) : List Byte :=
  ((s.sysEntries.find? fun e => e.2.alg == 3).map fun e => e.2.material).getD []

/-- A fingerprint is in the membership list: bytes 0 to 7 are compared (R465). -/
def State.isMember (s : State) (fp : List Byte) : Bool := s.flash.opt.members.any fun m => fitBytes 8 m == fitBytes 8 fp

/-- The rig hash in effect; zero where no rig is in effect. -/
def State.rigHash (s : State) : List Byte := fitBytes 32 ((s.rig.eff.map Rig.hash).getD [])

end Sys2Proof.Machine
end

