-- ==== Sys2Proof/Machine/Parts.lean ====
section
/-!
DEFINITION. Partitions (R358 to R379): the commands of the PART page, what they do at their guard, dirty logging, state export
and import, and the start of audit chains (R316).
-/
set_option autoImplicit false

namespace Sys2Proof.Machine

/-! ### Acceptance (R378) -/

/-- PART_SEL. -/
def State.partSel (s : State) : Nat := s.reg Reg.PART.PART_SEL

/-- A command is accepted: BUSY is set and DONE is clear. -/
def State.partBusy (s : State) (c : PartCmd) : State :=
  let s := { s with parts := { s.parts with cmd := some c } }
  ((s.setBit Reg.PART.BUSY true).setBit Reg.PART.DONE false).setDetail pgPart 4 true

/-- A command ends: DONE is set. -/
def State.partDone (s : State) : State :=
  let s := { s with parts := { s.parts with cmd := none } }
  (((s.setBit Reg.PART.BUSY false).setBit Reg.PART.DONE true).setDetail pgPart 4 false).raise pgPart 0

/-- Accept a command that waits for a guard or tick; the commands of R397 are mirrored. -/
def State.partAccept (s : State) (op p : Nat) (q : Bool) (res : List Nat) (mirrored : Bool) : State :=
  let m := mirrored && s.stay.pstate == 1
  let s := s.partBusy { op := op, part := p, tick := s.frame.ticks, q := q, res := res, mirrored := m }
  if m then s.mirrorCfg (.part op p q res) else s

/-- Refuse a PART_CMD while one is in progress (R378). -/
def partCommand (s : State) (f : Nat → Part → State) : Result :=
  if s.parts.cmd.isSome then .next (s.refuse pgPart 0x77) else .next (f s.partSel (s.part s.partSel))

/-! ### Creation (R361, R362) -/

/-- The staged resource fields in the order of Table 11.2. -/
def State.stagedRes (s : State) : List Nat :=
  [s.reg Reg.PART.PASID, s.reg Reg.PART.RING_QUOTA, s.reg Reg.PART.CLEAT_QUOTA, s.reg Reg.PART.OPM_BASE, s.reg Reg.PART.OPM_SLOT_LEN,
    s.reg Reg.PART.OPM_SLOTS, s.reg Reg.PART.VEC_BASE, s.reg Reg.PART.VEC_COUNT]

/-- A partition with resources. -/
def Part.ofRes (st : PState) (r : List Nat) : Part :=
  { st := st, pasid := r.getD 0 0, ringQuota := r.getD 1 0, cleatQuota := r.getD 2 0, opmBase := r.getD 3 0,
    opmSlotLen := r.getD 4 4, opmSlots := r.getD 5 0, vecBase := r.getD 6 0, vecCount := r.getD 7 0 }

/-- The resource fields of a partition. -/
def Part.res (v : Part) : List Nat :=
  [v.pasid, v.ringQuota, v.cleatQuota, v.opmBase, v.opmSlotLen, v.opmSlots, v.vecBase, v.vecCount]

/-- A field lies outside its range. -/
def Part.badValue (v : Part) : Bool :=
  decide (64 < v.ringQuota) || decide (131072 < v.cleatQuota) || decide (v.opmSlotLen < 4) || decide (128 < v.opmSlotLen)
    || decide (65536 < v.opmSlots) || v.vecCount == 0 || decide (2048 < v.vecBase + v.vecCount)

/-- Two half-open ranges overlap. -/
def overlaps (a n b m : Nat) : Bool := decide (a < b + m) && decide (b < a + n) && decide (0 < n) && decide (0 < m)

/-- Operand memory in 64 B units and bytes: first byte and length. -/
def Part.region (v : Part) : Nat × Nat := (64 * v.opmBase, 8 * v.opmSlotLen * v.opmSlots)

/-- The partitions that hold resources. -/
def State.heldParts (s : State) : List Part := (s.parts.tab.map Prod.snd).filter fun (v : Part) => v.st != .none

/-- The first cause of refusal of a CREATE of partition `p` with resources `v` (R361). -/
def State.createErr (s : State) (p : Nat) (v : Part) : Option Nat :=
  let held := s.heldParts
  let sum (f : Part → Nat) : Nat := (held.map f).foldl (· + ·) 0
  let mgr := s.reg Reg.HOSTIF.MGR_VECTOR
  if s.mode ≠ .operational && s.mode ≠ .maintenance then some 0x72
  else if (s.part p).st ≠ .none then some 0x71
  else if v.badValue then some 0x01
  else if held.any fun o => o.pasid == v.pasid then some 0x73
  else if 4096 < sum Part.ringQuota + v.ringQuota || 131072 < sum Part.cleatQuota + v.cleatQuota then some 0x74
  else if 4194304 < v.region.1 + v.region.2 || held.any (fun o => overlaps v.region.1 v.region.2 o.region.1 o.region.2) then some 0x75
  else if held.any (fun o => overlaps v.vecBase v.vecCount o.vecBase o.vecCount) || overlaps v.vecBase v.vecCount mgr 1 then some 0x76
  else none

/-- `PART_CREATE` : the resources are taken at once; the partition is PENDING until its guard. -/
def execPartCreate (q : Bool) (s : State) : Result :=
  partCommand s fun p _ =>
    let r := s.stagedRes
    match s.createErr p (Part.ofRes .pending r) with
    | some e => s.refuse pgPart e
    | none => (s.setPart p (Part.ofRes .pending r)).partAccept 1 p q r true

/-! ### Quiesce, resume, reset, destroy (R365 to R369) -/

/-- `QUIESCE` . -/
def execQuiesce (s : State) : Result :=
  partCommand s fun p v => match v.st with
    | .active => (s.setPart p { v with st := .quiescing }).partAccept 2 p false [] true
    | .quiescing | .quiesced => s.partAccept 2 p false [] true
    | _ => s.refuse pgPart 0x71

/-- `RESUME` . -/
def execResume (s : State) : Result :=
  partCommand s fun p v => match v.st with
    | .quiescing => s.refuse pgPart 0x02
    | .quiesced | .active => s.partAccept 3 p false [] true
    | _ => s.refuse pgPart 0x71

/-- `PART_RESET` . -/
def execPartReset (s : State) : Result :=
  partCommand s fun p v => match v.st with
    | .quiesced => (s.setPart p { v with st := .clearing }).partAccept 4 p false [] true
    | _ => s.refuse pgPart 0x70

/-- `DESTROY` . -/
def execDestroy (s : State) : Result :=
  partCommand s fun p v => match v.st with
    | .quiesced | .exported => (s.setPart p { v with st := .clearing }).partAccept 5 p false [] true
    | _ => s.refuse pgPart 0x70

/-! ### Effects at the guard -/

/-- The genesis head of a chain that starts at this guard (R316). -/
def State.genesis (s : State) (p : Nat) : List Byte :=
  sha3_256 (ascii "OXCHAIN" ++ ownFp ++ [BitVec.ofNat 8 p] ++ leBytes 8 s.frame.no ++ s.rigHash)

/-- A chain starts for a partition. -/
def State.startChain (s : State) (p : Nat) : State :=
  s.setPart p { s.part p with head := s.genesis p, headFrame := s.frame.no, links := [] }

/-- The entries of a partition, in effect or pending creation: head row and rows. A SYSTEM entry is Naris's (Table 8.3). -/
def State.partEntries (s : State) (p : Nat) : List (Nat × Nat) :=
  (s.cleat.ents.filterMap fun x => x.2.bind fun e => if e.ofPart p then some (x.1, e.rows) else none)
  ++ s.cleat.pending.filterMap fun w => match w.op with
    | .create e => if e.ofPart p then some (w.head, e.rows) else none
    | _ => none

/-- The deletions of a reset or destroy, mirrored as DELETE is (Table 11.4). -/
def State.deleteEntries (s : State) (p : Nat) : State :=
  (s.partEntries p).foldl (fun s x =>
    let w : CleatWrite := { head := x.1, rows := x.2, op := .delete, writer := .guardReset }
    (s.pushWrite w).mirrorWrite w 0) s

/-- A partition's operand region is wiped (R196, R223). -/
def BneSt.wipeRegion (b : BneSt) (p : Nat) : BneSt :=
  { b with slots := SMap.clear b.slots (p * 65536) 65536, opmBusy := b.opmBusy.map fun o => if o.1 = p then (256, o.2) else o }

/-- What RESET and DESTROY share (Table 11.4). `own` is false on the twin of the device that accepted the command: its
entries go with the mirrored deletions. -/
def State.clearPart (s : State) (p : Nat) (own : Bool) : State :=
  let s := if own then s.deleteEntries p else s
  { s with bne := s.bne.wipeRegion p }.endCvusOf p

/-- RESET takes effect. -/
def State.resetPart (s : State) (p : Nat) (own : Bool) : State :=
  let s := (s.clearPart p own).reseedPartRill p
  ((s.setPart p { s.part p with st := .quiesced, quiesce := true, dirtyOn := false }).startChain p).raise pgPart 1

/-- DESTROY takes effect. Ownership and bindings are removed from the tables in effect and from their shadows, so a later
COMMIT does not name the partition again (DEDUCED, notes/assumptions/61.md). -/
def State.destroyPart (s : State) (p : Nat) (own : Bool) : State :=
  let s := (s.clearPart p own).reseedPartRill p
  let s := s.setPart p {}
  { s with
    host := { s.host with rings := s.host.rings.filter fun (e : Nat × Ring) => e.2.st == .none || e.2.part != p },
    adm := { s.adm with
      owner := s.adm.owner.filter fun (e : Nat × Nat) => e.2 != p + 1,
      ownerSh := s.adm.ownerSh.filter fun (e : Nat × Nat) => e.2 != p + 1,
      binding := s.adm.binding.filter fun (e : Nat × Nat) => e.1 / 256 != p,
      bindingSh := s.adm.bindingSh.filter fun (e : Nat × Nat) => e.1 / 256 != p },
    parts := { s.parts with
      acc := s.parts.acc.filter fun w => w.part != p, merge := s.parts.merge.filter fun w => w.part != p,
      waitWrites := s.parts.waitWrites.filter fun w => w.part != p } }

/-- CREATE takes effect (R362). -/
def State.createPart (s : State) (p : Nat) (q : Bool) (r : List Nat) : State :=
  let v := Part.ofRes (if q then .quiesced else .active) r
  let s := ((s.setPart p { v with quiesce := q, createFrame := s.frame32 }).startChain p).startPartRill p
  if q then s.raise pgPart 1 else s

/-- CONFIG_GEN counts the commands applied (R391). -/
def State.cfgApplied (s : State) : State := s.inc Reg.STAY.CONFIG_GEN

/-- A command of R397 takes effect. -/
def State.applyPart (s : State) (op p : Nat) (q : Bool) (r : List Nat) (own : Bool) : State :=
  let v := s.part p
  let s := match op with
    | 1 => s.createPart p q r
    | 2 => if v.st == PState.active || v.st == PState.quiescing then s.setPart p { v with st := .quiescing, quiesce := true } else s
    | 3 => if v.st == PState.quiesced then s.setPart p { v with st := .active, quiesce := false } else s
    | 4 => s.resetPart p own
    | 5 => s.destroyPart p own
    | _ => s
  s.cfgApplied

/-! ### Dirty logging (R370 to R374) -/

/-- Dirty commands are accepted while the partition exists and holds no command of its own. -/
def PState.dirtyOk : PState → Bool
  | .active | .quiescing | .quiesced => true
  | _ => false

/-- A bitmap address from its registers. -/
def bitmapAddr (lo hi : Nat) : Nat := lo * 4096 + hi * 2 ^ 32

/-- Accept a dirty command. -/
def dirtyCommand (op : Nat) (s : State) (bad : Bool) (r : List Nat) : Result :=
  partCommand s fun p v =>
    if !v.st.dirtyOk then s.refuse pgPart 0x71
    else if bad then s.refuse pgPart 0x01
    else s.partAccept op p false r false

/-- `DIRTY_START` . -/
def execDirtyStart (s : State) : Result :=
  let span := s.reg Reg.PART.DIRTY_SPAN
  dirtyCommand 6 s (span == 0 || span % 64 != 0)
    [bitmapAddr (s.reg Reg.PART.DIRTY_A_LO) (s.reg Reg.PART.DIRTY_A_HI), bitmapAddr (s.reg Reg.PART.DIRTY_B_LO) (s.reg Reg.PART.DIRTY_B_HI), span]

/-- `DIRTY_SWAP` . -/
def execDirtySwap (s : State) : Result := dirtyCommand 7 s false []

/-- `DIRTY_SYNC` . -/
def execDirtySync (s : State) : Result := dirtyCommand 8 s false []

/-- `DIRTY_STOP` . -/
def execDirtyStop (s : State) : Result := dirtyCommand 9 s false []

/-- The effect of a dirty command at the guard of the frame after its acceptance. -/
def State.applyDirty (s : State) (c : PartCmd) : State :=
  let v := s.part c.part
  match c.op with
  | 6 => s.setPart c.part { v with
      dirtyOn := true, dirtyB := false, beyond := false, dirtyAddrA := c.res.getD 0 0, dirtyAddrB := c.res.getD 1 0, dirtySpan := c.res.getD 2 0 }
  | 7 => s.setPart c.part { v with dirtyB := !v.dirtyB }
  | 9 => s.setPart c.part { v with dirtyOn := false }
  | _ => s

/-- DIRTY_SWAP and DIRTY_SYNC are done at the end of the frame after their acceptance, when the merge of the frame of
acceptance is complete (R373, R374). -/
def State.dirtyDone (s : State) : State :=
  match s.parts.cmd with
  | some c =>
    if (c.op = 7 || c.op = 8) && c.tick + 2 ≤ s.frame.ticks && !(s.parts.merge.any fun w => w.part == c.part) then
      s.partDone.raise pgPart 2
    else s
  | none => s

/-- The guard's part of the command in progress that is not mirrored. -/
def State.partCmdGuard (s : State) : State :=
  match s.parts.cmd with
  | none => s
  | some c =>
    if c.mirrored then s
    else if c.op ≤ 5 then (s.applyPart c.op c.part c.q c.res true).partDone
    else if c.op = 6 || c.op = 9 then (s.applyDirty c).partDone
    else if c.op = 7 || c.op = 8 then
      if s.frame.ticks = c.tick + 1 then s.applyDirty c else s
    else if c.op = 11 then (s.startChain c.part).partDone
    else s

/-- The record of a frame becomes the one that is merged (R372); at the tick. -/
def State.dirtyTick (s : State) : State :=
  let s := s.setBit Reg.PART.ACC_FULL s.parts.accFull
  let p := s.parts
  let s := { s with parts := { p with acc := [], merge := p.merge ++ p.acc, accFull := !p.waitWrites.isEmpty } }
  if s.parts.merge.isEmpty && s.parts.tab.any (fun (e : Nat × Part) => e.2.dirtyOn) then
    s.setReg Reg.PART.DIRTY_FRAME (s.frame.no + 2 ^ 48 - 1)
  else s

/-- `DIRTY_MERGE` : the device reads one word of the bitmap, ORs in the new bits and writes back the whole word. -/
def execDirtyMerge (old : BitVec 64) (s : State) : Result :=
  match s.parts.merge with
  | [] => .next s
  | w :: rest =>
    let v := s.part w.part
    let s := { s with parts := { s.parts with merge := rest } }
    let addr := (if w.inB then v.dirtyAddrB else v.dirtyAddrA) + 8 * w.word
    let s :=
      if !s.hostUp then s
      else
        let (r, s) := s.hostAccess w.part .read
        if !r then s
        else
          let (ok, s) := s.hostAccess w.part .write
          if ok then s.emit (.hostWrite v.pasid addr (leBytes 8 (old.toNat ||| w.bits))) else s
    let s := if rest.isEmpty then s.setReg Reg.PART.DIRTY_FRAME (s.frame.no + 2 ^ 48 - 1) else s
    .next s.dirtyDrain

/-! ### Export (R375, R376) -/

/-- A Cleat write of the partition is pending. -/
def State.writePendingOf (s : State) (p : Nat) : Bool :=
  s.cleat.pending.any fun w => match w.op with
    | .create e => e.ofPart p
    | _ => match s.entry w.head with
      | some e => e.ofPart p
      | none => false

/-- RESOURCES of a blob. -/
def Part.blobRes (v : Part) : List Byte :=
  [BitVec.ofNat 8 v.ringQuota, 0, 0, 0] ++ leBytes 4 v.cleatQuota ++ leBytes 4 v.opmSlots ++ [BitVec.ofNat 8 v.opmSlotLen, 0] ++ leBytes 2 v.vecCount

/-- A ring record of a blob. -/
def Ring.record (v : Ring) (r : Nat) : List Byte :=
  leBytes 2 r ++ [BitVec.ofNat 8 v.slot, BitVec.ofNat 8 (v.cqLog2 * 16 + v.sqLog2)] ++ leBytes 2 v.sqFetch ++ leBytes 2 v.sqTail
    ++ leBytes 2 v.cqTail ++ leBytes 2 v.cqHead ++ [BitVec.ofNat 8 (flag v.cqPhase 1 + flag v.sqPhase 0), 0, 0, 0]

/-- The rings of a partition, ascending. -/
def State.ringsOf (s : State) (p : Nat) : List (Nat × Ring) :=
  s.host.rings.filter fun (e : Nat × Ring) => e.2.st != .none && e.2.part == p

/-- The entries that a blob carries: USAGE has EXPORT, and EXPORT is MIGRATE or DOMAIN. -/
def State.blobEntries (s : State) (p : Nat) : List (Nat × Entry) :=
  s.cleat.ents.filterMap fun x => x.2.bind fun e =>
    if e.ofPart p && bitOf e.usage 7 && (e.exportF == 1 || e.exportF == 2) then some (x.1, e) else none

/-- Everything of the blob before its signature. -/
def State.blobBytes (s : State) (p : Nat) (iv : List Byte) : List Byte :=
  let v := s.part p
  let rings := s.ringsOf p
  let ents := s.blobEntries p
  let body := (rings.flatMap fun e => e.2.record e.1) ++ ents.flatMap fun e => (VaultRec.entry e.1 (s.rowGen e.1) e.2).bytes
  let len := 0x100 + body.length + 2436
  let hdr := fitBytes 0x100 (leBytes 4 0x4250584F ++ leBytes 2 1 ++ [BitVec.ofNat 8 p, BitVec.ofNat 8 rings.length] ++ leBytes 4 len
    ++ leBytes 4 ents.length ++ leBytes 8 s.frame.no ++ ownFp ++ s.rigHash ++ fitBytes 32 v.head ++ leBytes 8 v.headFrame
    ++ v.blobRes ++ fitBytes 12 iv)
  let (ct, tag) := gcmSeal (fitBytes 32 (Config.blobKey s.domainKey)) (fitBytes 12 iv) hdr body
  hdr ++ ct ++ tag

/-- A command that fails: CMD_FAIL, and it ends. -/
def State.partFail (s : State) (code : Nat) : State := ((s.refuse pgPart code).raise pgPart 4).partDone

/-- The blob is written: the partition enters EXPORTED, with the twin's where the pair mirrors it (R397). -/
def State.exported (s : State) (p : Nat) : State :=
  if s.stay.pstate = 1 then
    let s := { s with parts := { s.parts with cmd := some { op := 10, part := p, tick := s.frame.ticks, mirrored := true } } }
    s.mirrorCfg (.exported p)
  else (s.setPart p { s.part p with st := .exported }).cfgApplied.partDone

/-- `EXPORT` . -/
def execExportBlob (hostOk : Bool) (s : State) : Result :=
  partCommand s fun p v =>
    if v.st ≠ .quiesced || v.dirtyOn || s.writePendingOf p then s.refuse pgPart 0x70
    else
      let s := s.partBusy { op := 10, part := p, tick := s.frame.ticks }
      let (k, s) := s.draw
      let t := s.blobBytes p (randBytes k 12)
      if s.reg Reg.PART.BLOB_LEN < t.length + 2420 then s.partFail 0x78
      else
        match s.deviceSign "OXBLOB" (sha3_256 t) with
        | (none, s) => (s.raise pgPart 4).partDone
        | (some g, s) =>
          let (ok, s) := s.hostAccess p .write
          if !ok || !hostOk || !s.hostUp then s.partFail 0x7D
          else
            let addr := s.reg Reg.PART.BLOB_ADDR_LO + 2 ^ 32 * s.reg Reg.PART.BLOB_ADDR_HI
            let s := (s.hostWr p addr (t ++ g)).setReg Reg.PART.BLOB_OUT_LEN (t.length + 2420)
            s.exported p

/-! ### Import (R377) -/

/-- A ring record as IMPORT reads it. -/
structure RingRec where
  ring : Nat
  slot : Nat
  cqLog2 : Nat
  sqLog2 : Nat
  sqFetch : Nat
  sqTail : Nat
  cqTail : Nat
  cqHead : Nat
  cqPhase : Bool
  sqPhase : Bool

/-- Parse a ring record. -/
def ringRec (b : List Byte) : RingRec :=
  let f (o n : Nat) : Nat := leNat (cut b o n)
  { ring := f 0 2, slot := f 2 1, cqLog2 := f 3 1 / 16, sqLog2 := f 3 1 % 16, sqFetch := f 4 2, sqTail := f 6 2, cqTail := f 8 2,
    cqHead := f 10 2, cqPhase := bitOf (f 12 1) 1, sqPhase := bitOf (f 12 1) 0 }

/-- A ring of the partition matches a record (Table 11.6 check 6). -/
def State.ringMatches (s : State) (p : Nat) (r : RingRec) : Bool :=
  let v := s.ring r.ring
  v.st != .none && v.part == p && v.slot == r.slot && v.cqLog2 == r.cqLog2 && v.sqLog2 == r.sqLog2 && s.ringInFlight r.ring == 0

/-- A row lies in the allocation range and is free. -/
def State.rowsTaken (s : State) (x : Nat × Nat × Entry) : Bool :=
  let (lo, n) := s.allocRange
  let runs := s.takenRuns
  x.1 < lo || lo + n < x.1 + x.2.2.rows || (List.range x.2.2.rows).any fun i => !rowFree s runs (x.1 + i)

/-- What a blob brings: ring records and entries with their head rows and generations. -/
abbrev BlobBody := List RingRec × List (Nat × Nat × Entry)

/-- The checks of Table 11.6 in order: the ERR_CODE of the first that fails, or what the blob holds. -/
def State.blobCheck (s : State) (p : Nat) (b lost : List Byte) : Except Nat BlobBody :=
  let f (o n : Nat) : Nat := leNat (cut b o n)
  let v := s.part p
  let fp := cut b 0x18 32
  let t := b.take (b.length - 2420)
  let sig := b.drop (b.length - 2420)
  let pk := Config.memberKey fp
  if f 0 4 ≠ 0x4250584F || f 4 2 ≠ 1 || f 8 4 ≠ b.length || b.length < 0x100 + 2436 || !s.isMember fp then .error 0x79
  else if sha3_256 pk ≠ fp || !mldsaVerify pk "OXBLOB" (sha3_256 t) sig then .error 0x79
  else
    match gcmOpen (fitBytes 32 (Config.blobKey s.domainKey)) (cut b 0x90 12) (b.take 0x100) (cut t 0x100 (t.length - 0x110)) (t.drop (t.length - 16)) with
    | none => .error 0x79
    | some body =>
      let rings := (blocks 16 (body.take (16 * f 7 1))).map ringRec
      let ents := (parseRecs lost (f 0xC 4) (body.drop (16 * f 7 1))).filterMap fun r => match r with
        | .entry h g e => some (h, g, { e with part := p })
        | .tomb _ _ => none
      if cut b 0x38 32 ≠ s.rigHash then .error 0x7A
      else if v.ringQuota < f 0x80 1 || v.cleatQuota < f 0x84 4 || v.opmSlots < f 0x88 4 || v.opmSlotLen < f 0x8C 1 || v.vecCount < f 0x8E 2 then
        .error 0x71
      else if !rings.all (s.ringMatches p) then .error 0x7B
      else if ents.any s.rowsTaken then .error 0x7C
      else .ok (rings, ents)

/-- A recorded entry is written at its row and generation, by Naris, at the next guard. -/
def State.importEntry (s : State) (x : Nat × Nat × Entry) : State :=
  let e := { x.2.2 with mirror := if s.paired then 2 else 0, vaulted := false, ckpt := none, ckptPend := none }
  let c := (List.range e.rows).foldl (fun c i => CleatSt.setGen c (x.1 + i) x.2.1) s.cleat
  let w : CleatWrite := { head := x.1, rows := e.rows, op := .create e, writer := .naris }
  (({ s with cleat := c }).pushWrite w).mirrorWrite w 0

/-- A ring takes the recorded indices and phases. -/
def State.importRing (s : State) (r : RingRec) : State :=
  s.updRing r.ring fun v => { v with
    sqFetch := r.sqFetch, sqTail := r.sqTail, cqTail := r.cqTail, cqHead := r.cqHead, cqPhase := r.cqPhase, sqPhase := r.sqPhase }

/-- `IMPORT` : on success the entries and the new chain take effect at the next guard, where the command is done. -/
def execImportBlob (blob : Option (List Byte)) (s : State) : Result :=
  partCommand s fun p v =>
    if v.st ≠ .quiesced || s.partRows p ≠ 0 then s.refuse pgPart 0x71
    else
      let s := s.partBusy { op := 11, part := p, tick := s.frame.ticks }
      let (ok, s) := s.hostAccess p .read
      match blob with
      | none => s.partFail 0x7D
      | some b =>
        if !ok || !s.hostUp then s.partFail 0x7D
        else
          let (k, s) := s.draw
          match s.blobCheck p (fitBytes (s.reg Reg.PART.BLOB_LEN) b) (randBytes k 16) with
          | .error c => s.partFail c
          | .ok (rings, ents) => rings.foldl State.importRing (ents.foldl State.importEntry s)

end Sys2Proof.Machine
end

