-- ==== Sys2Proof/Machine/Rings.lean ====
section
/-!
DEFINITION. The host interface (R321 to R357): doorbells, withdrawal, fetching and the checks on entry, host reads, the link to
the host, ring commands, interrupts.
-/
set_option autoImplicit false

namespace Sys2Proof.Machine

/-! ### Indices -/

/-- Entries of the submission ring. -/
def Ring.n (v : Ring) : Nat := 2 ^ v.sqLog2

/-- Entries of the completion ring. -/
def Ring.m (v : Ring) : Nat := 2 ^ v.cqLog2

/-- Distance from one index to another on a ring of `n` entries. -/
def ringDist (n a b : Nat) : Nat := (b + n - a % n) % n

/-- Completion entries that software has not consumed (R340). -/
def Ring.unread (v : Ring) : Nat := ringDist v.m v.cqHead v.cqTail

/-- The ring that doorbell slot `j` of partition `p` names (R331, R332). -/
def State.ringAt (s : State) (p j : Nat) : Option Nat :=
  (s.host.rings.find? fun (e : Nat × Ring) => e.2.st != .none && e.2.part == p && e.2.slot == j).map Prod.fst

/-! ### Doorbells (R332, R333, R341, R347) -/

/-- A doorbell write of value `v`: one of the 2^k values of the ring, or logged. -/
def State.doorbell (s : State) (p j : Nat) (v : Word) (size : Ring → Nat) (f : Nat → Ring → Nat → State) : State :=
  match s.ringAt p j with
  | none => s.hostErr 0x03 0 p (16 * j)
  | some r =>
    let x := v.toNat % 65536
    if size (s.ring r) ≤ x then s.hostErr 0x01 r p x else f r (s.ring r) x

/-- `SQ_TAIL` . -/
def execSqTail (p : Fin 256) (j : Fin 64) (v : Word) (s : State) : Result :=
  .next (s.doorbell p j v Ring.n fun r g x =>
    if g.revoke.isSome then s.hostErr 0x04 r p x else s.setRing r { g with sqTail := x })

/-- `CQ_HEAD` . -/
def execCqHead (p : Fin 256) (j : Fin 64) (v : Word) (s : State) : Result :=
  .next (s.doorbell p j v Ring.m fun r g x =>
    if g.unread < ringDist g.m g.cqHead x then s.hostErr 0x02 r p x else s.setRing r { g with cqHead := x })

/-- The phase of index `i` when the next entry to arrive is `f` on a lap of phase `ph`. -/
def phaseAt (f i : Nat) (ph : Bool) : Bool := if i ≤ f then ph else !ph

/-- An item that the run of `d` entries from index `i` covers: not admitted, on the lap of the run, and the latest of its
index. -/
def State.inRun (s : State) (r : Nat) (g : Ring) (i d : Nat) (x : Item) : Bool :=
  x.ring == r && x.place.unadmitted && decide (ringDist g.n i x.index < d)
    && (bitOf (descWord x.desc 0) 31 == phaseAt (if g.sqFetch = 0 then g.n else g.sqFetch) x.index (if g.sqFetch = 0 then !g.sqPhase else g.sqPhase))
    && !s.adm.items.any fun o => o.ring == r && o.index == x.index && decide (x.id < o.id)

/-- Entries of the run that are still to be read. -/
def Ring.unfetched (g : Ring) (i d : Nat) : Nat :=
  let k := ringDist g.n i g.sqFetch
  if k ≤ d then d - k else d

/-- Reads on their way that lie in the run. -/
def Ring.readsIn (g : Ring) (i d : Nat) : Nat := ((List.range g.reads).filter fun k => ringDist g.n i (g.sqFetch + k) < d).length

/-- The requests of which the first `n` entries stay awaited. -/
def keepReqs (n : Nat) : List (Nat × Nat) → List (Nat × Nat)
  | [] => []
  | q :: qs => if n = 0 then [] else (q.1, min n q.2) :: keepReqs (n - q.2) qs

/-- The requests once the oldest awaited entry has arrived. -/
def arriveReq : List (Nat × Nat) → List (Nat × Nat)
  | [] => []
  | q :: qs => if q.2 ≤ 1 then qs else (q.1, q.2 - 1) :: qs

/-- `REVOKE` : accepted on the conditions of R347; it takes effect at the next tick. -/
def execRevoke (p : Fin 256) (j : Fin 64) (v : Word) (s : State) : Result :=
  .next (s.doorbell p j v Ring.n fun r g i =>
    let d := ringDist g.n i g.sqTail
    let freed := (s.adm.items.filter (s.inRun r g i d)).length + g.readsIn i d
    if g.st = .active && g.revoke.isNone && d ≠ 0 && g.unread + (g.cqRsv - freed) + 1 ≤ g.m - 1 then s.setRing r { g with revoke := some i }
    else s.hostErr 0x05 r p i)

/-- `DB_UNASSIGNED` : a write that meets no register of a ring is ignored and logged (R332); the reserved register of a
slot in use ignores it. -/
def execDbUnassigned (p : Fin 256) (off : Fin 4096) (s : State) : Result :=
  if off.val < 0x400 && (s.ringAt p (off.val / 16)).isSome then .next s
  else .next (s.hostErr 0x03 0 p (off.val / 16 * 16))

/-! ### Withdrawal at the tick (R348) -/

/-- Cut a batch before its first withdrawn entry; what follows there and stays leaves the batch. -/
def Batch.cutAt (gone : List Nat) (b : Batch) : Batch × List BatchEnt :=
  if b.ents.any fun x => gone.contains x.item then
    let keep := b.ents.takeWhile fun x => !gone.contains x.item
    ({ b with closed := true, ents := keep }, (b.ents.drop keep.length).filter fun x => !gone.contains x.item)
  else (b, [])

/-- A pending withdrawal takes effect. -/
def State.withdraw (s : State) (r : Nat) : State :=
  let g := s.ring r
  match g.revoke with
  | none => s
  | some i =>
    let old := g.sqTail
    let d := ringDist g.n i old
    let gone := s.adm.items.filter (s.inRun r g i d)
    let ids := gone.map Item.id
    let k := ringDist g.n i g.sqFetch
    let inside := k != 0 && decide (k ≤ d)
    let cuts := g.batches.map (Batch.cutAt ids)
    let out := (cuts.flatMap Prod.snd).filter fun x => x.done.isSome
    let close (b : Batch) : Batch := if k ≤ d then { b with closed := true } else b
    let s := { s with adm := { s.adm with items := s.adm.items.filter fun x => !ids.contains x.id } }
    let s := s.setRing r { g with
      sqTail := i, reqs := keepReqs (g.reads - g.readsIn i d) g.reqs, cqRsv := g.cqRsv - ids.length - g.readsIn i d, revoke := none,
      sqFetch := if inside then i else g.sqFetch,
      sqPhase := if inside then phaseAt g.sqFetch i g.sqPhase else g.sqPhase,
      ends := if k ≤ d then g.ends else i :: g.ends,
      batches := ((cuts.map Prod.fst).map close).filter fun b => !b.ents.isEmpty }
    let s := s.flushBatches r
    let s := out.foldl (fun s x => match x.done with
      | some e => s.writeCpl r 1 false x.tag x.seq 1 e
      | none => s) s
    let n := ids.length + g.unfetched i d
    let s := s.writeCpl r 0 true 0 0 n { status := 0x04, result := leBytes 2 i ++ leBytes 2 old ++ List.replicate 4 0 }
    s.settle g.part

/-- Every withdrawal accepted before the tick. -/
def State.withdrawals (s : State) : State :=
  (s.host.rings.filterMap fun (e : Nat × Ring) => if e.2.revoke.isSome then some e.1 else none).foldl State.withdraw s

/-! ### Fetch (R338 to R340) -/

/-- Requests for entries that are outstanding, of every ring. -/
def State.entryReqs (s : State) : Nat := (s.host.rings.map fun (e : Nat × Ring) => e.2.reqs.length).foldl (· + ·) 0

/-- Items in the in-flight table, with the entries on their way to it. -/
def State.inFlightBound (s : State) : Nat :=
  s.adm.items.length + s.host.held.length + (s.host.rings.map fun (e : Nat × Ring) => e.2.reads).foldl (· + ·) 0

/-- The next index of a ring to read. -/
def Ring.nextRead (g : Ring) : Nat := (g.sqFetch + g.reads) % g.n

/-- The most entries that one read may cover: posted, 64, to the ring's end, within 4 KB and Max_Read_Request_Size (R338), with
room in the completion ring (R340) and in the in-flight table. -/
def State.readMax (s : State) (g : Ring) : Nat :=
  let posted := ringDist g.n g.sqFetch g.sqTail - g.reads
  let page := (4096 - (g.sqBase + 64 * g.nextRead) % 4096) / 64
  [64, g.n - g.nextRead, page, 2 ^ s.host.cfg.mrrs.val * 128 / 64, g.m - 1 - (g.unread + g.cqRsv), 16384 - s.inFlightBound].foldl min posted

/-- The device may read the next entries of a ring (R339); at most 256 reads are outstanding (R343), and the entries on their way
count against the in-flight table (notes/assumptions/81.md). -/
def State.mayFetch (s : State) (g : Ring) : Bool :=
  !s.fetchHold && s.hostUp && g.st == .active && g.revoke.isNone && !(s.part g.part).quiesce
    && decide (s.entryReqs < 256) && decide (0 < s.readMax g)

/-- `ENTRY_FETCH` : a read of posted entries is issued; each reserves a completion entry. How many a read covers, up to the
limits of R338, is the device's own: a free number (notes/assumptions/81.md). A read that the ART refuses ends as a read error
(R328). -/
def execEntryFetch (ring : Fin 4096) (s : State) : Result :=
  let g := s.ring ring
  if !s.mayFetch g then .next s
  else
    let (k, s) := s.draw
    let n := 1 + Config.freeNat k % s.readMax g
    let s := s.setRing ring { g with reqs := g.reqs ++ [(g.nextRead, n)], cqRsv := g.cqRsv + n }
    let (ok, s) := s.hostAccess g.part .read
    .next (if ok then s.emit (.hostRead (s.part g.part).pasid (g.sqBase + 64 * g.nextRead) (64 * n)) else s)

/-! ### The checks on entry (R342) -/

/-- Put an entry into its ring's open batch, or into a new one, where it belongs to one; `more` is COAL 2, `last` the
entry before a withdrawal's first index. -/
def Ring.join (g : Ring) (x : BatchEnt) (more last : Bool) : Option Ring :=
  let opn (b : Batch) : Bool := !b.closed && !b.dead
  if g.batches.any opn then
    some { g with batches := updFirst opn (fun (b : Batch) => { b with closed := !more || last, ents := b.ents ++ [x] }) g.batches }
  else if more then
    let b : Batch := { closed := last, ents := [x] }
    some { g with batches := g.batches ++ [b] }
  else none

/-- An entry ends at a check: it takes no slot, and it counts as an item of its batch (R346). -/
def State.failEntry (s : State) (r tag : Nat) (seq : Word) (more last : Bool) (e : Ended) : State :=
  let x : BatchEnt := { item := 0, tag := tag, seq := seq, done := some e }
  match (s.ring r).join x more last with
  | some g => (s.setRing r g).flushBatches r
  | none => s.writeCpl r 1 false tag seq 1 e

/-- The mode admits the partition and class of an entry (R342 check 4, R493). -/
def State.modeAdmits (s : State) (p c : Nat) : Bool :=
  if s.mode == .degraded then
    s.glob.degMode && bitOf (SMap.get 0 s.glob.degPart (p / 32)) (p % 32) && bitOf (SMap.get 0 s.glob.degClass (c / 32)) (c % 32)
      && s.validSlots.any fun e => e.2.cls == c && s.ownerOf e.1 == some p && !s.slotVoid e.1 e.2
  else s.mode == .operational

/-- The record of the twin that an entry duplicates (R401). -/
def State.duplicate (s : State) (p r seq : Nat) : Option DupRec :=
  s.stay.dup.find? fun d => d.part == p && d.ring == r && d.seq == seq

/-- The outcome of checks 3 to 6 of Table 10.7. -/
def State.entryCheck (s : State) (r p : Nat) (d : List Word) : Option Ended :=
  let c := descWord d 0 / 65536 % 256
  let inLen := descWord d 7
  match s.classEnt c with
  | none => some { status := 0x15 }
  | some k =>
    if s.ringOf p c ≠ some r then some { status := 0x15 }
    else if (s.part p).quiesce || !s.modeAdmits p c then some { status := 0x10 }
    else if k.maxIn < inLen || (k.output && descWord d 10 < k.maxOut) || (!k.input && inLen != 0) then
      some { status := 0x0B, result := leBytes 4 k.maxIn ++ leBytes 4 k.maxOut }
    else match s.duplicate p r (descWord d 1) with
      | some u => some { status := 0x11, result := [BitVec.ofNat 8 u.status, BitVec.ofNat 8 u.flags, 0, 0] ++ leBytes 4 u.frame }
      | none => none

/-- `ENTRY_ARRIVAL` : the oldest read of a ring returns; its entry is checked and, where it passes, accepted and bound. -/
def execEntryArrival (ring : Fin 4096) (dw : Vector Word 16) (s : State) : Result :=
  let g := s.ring ring
  if g.st ≠ .active || g.reads = 0 then .next s
  else
    let idx := g.sqFetch
    let nx := (idx + 1) % g.n
    let last := g.ends.contains nx
    let s := s.setRing ring { g with
      reqs := arriveReq g.reqs, sqFetch := nx, sqPhase := if nx = 0 then !g.sqPhase else g.sqPhase, ends := g.ends.filter (· != nx) }
    let s := s.inc64 Reg.HOSTIF.FETCH_CNT_LO Reg.HOSTIF.FETCH_CNT_HI 1
    let d := dw.toList
    let w0 := descWord d 0
    let tag := w0 % 65536
    let seq := dw[1]
    let body := d.flatMap fun w => leBytes 4 w.toNat
    let ck := crc32c (body.take 60) (ring.val * 65536 + idx)
    if bitOf w0 31 != g.sqPhase then
      let s := (s.stopRing ring 1).hostErr 0x06 ring g.part idx
      .next (s.failEntry ring 0 0 false last { status := 0x06, result := leBytes 2 idx ++ List.replicate 6 0 })
    else if ck ≠ descWord d 15 then
      .next ((s.inc (Reg.CVU.FIX_MM 0)).failEntry ring tag seq true last { status := 0x05, result := leBytes 4 ck ++ leBytes 2 idx ++ [0xFF, 0xFF] })
    else
      let more := bitsOf w0 29 2 == 2
      match s.entryCheck ring g.part d with
      | some e => .next ((if e.status = 0x11 then s.inc Reg.STAY.DUP_CNT else s).failEntry ring tag seq more last e)
      | none =>
        let id := s.adm.nextId + 1
        let it : Item := { id := id, part := g.part, ring := ring, index := idx, desc := d, cls := w0 / 65536 % 256, f := s.frame.ticks }
        let x : BatchEnt := { item := id, tag := tag, seq := seq }
        let s := match (s.ring ring).join x more last with
          | some g => s.setRing ring g
          | none => s
        let s := { s with adm := { s.adm with items := s.adm.items ++ [it], nextId := id } }
        .next (if s.adm.items.length + s.host.held.length = 16384 then s.raise pgAdmit 1 else s).bindAll

/-! ### Host reads -/

/-- First byte of a slot's message buffer in its yard (Table 2.7). -/
def SlotEnt.buf (e : SlotEnt) (b : Bool) : Nat := 64 * (if b then e.bufB else e.bufA)

/-- `INPUT_READ_COMPLETE` : the last byte of a bound item's input is written into its message buffer (R57, R59). -/
def execInputReadComplete (item : Nat) (data : List Byte) (s : State) : Result :=
  match s.item item with
  | none => .next s
  | some i => match i.place with
    | .bound k b =>
      if i.inDone then .next s
      else match s.slotEnt k with
        | some e =>
          let s := s.ymemWrite (k / 64) (e.buf b) (fitBytes i.inLen data)
          .next (s.updItem item fun i => { i with inDone := true })
        | none => .next s
    | _ => .next s

/-- `HOST_READ_ERROR` : on an entry the ring stops; on an input its item ends with ACCESS_DENIED (R328). -/
def execHostReadError (tgt : ReadTarget) (s : State) : Result :=
  match tgt with
  | .entry r =>
    let g := s.ring r
    if g.st ≠ .active || g.reads = 0 then .next s
    else .next ((s.stopRing r 2).hostErr 0x07 r g.part ((g.reqs.head?.map Prod.fst).getD g.sqFetch))
  | .input id =>
    match s.item id with
    | none => .next s
    | some i => match i.place with
      | .bound _ _ =>
        if i.inDone then .next s
        else .next ((s.hostErr 0x08 i.ring i.part i.index).endOpen i 0x07)
      | _ => .next s

/-! ### The link to the host (R321, R329) -/

/-- The identity of Table 10.1 as configuration space shows it: dwords 0x00, 0x08 (revision A0)
and 0x2C, and the Device Serial Number. -/
def identity : List Nat × List Byte :=
  ([0x10241FD7, 0x10800010, 0x00011FD7], ownFp.take 8)

/-- Two dwords of a 64-bit memory BAR of 2^k bytes, not prefetchable (R323). -/
def barDwords (k : Nat) (base : BitVec 64) : List Nat :=
  [base.toNat / 2 ^ k * 2 ^ k % 2 ^ 32 + 4, base.toNat / 2 ^ 32]

/-- The BAR registers 0 to 5 of configuration space (Table 10.3). -/
def PcieBars.dwords (b : PcieBars) : List Nat := barDwords 20 b.bar0 ++ barDwords 20 b.bar2 ++ barDwords 16 b.bar4

/-- The configuration takes effect; MPS and MRRS show it. -/
def State.setCfg (s : State) (c : PcieCfg) (b : PcieBars) : State :=
  ({ s with host := { s.host with cfg := c, bars := b } }.setReg Reg.HOSTIF.MPS c.mps).setReg Reg.HOSTIF.MRRS c.mrrs

/-- `LINK_LOST` : a link that goes down also returns configuration space to its reset values (R329). -/
def execLinkLost (cause : LinkLoss) (s : State) : Result :=
  let was := s.host.linkUp
  let s := match cause with
    | .busMasterOff => { s with host := { s.host with bme := false } }
    | .d3hot => { s with host := { s.host with d3hot := true } }
    | .linkDown =>
      let s := { s with host := { s.host with linkUp := false, bme := false, aer := none } }.setCfg {} {}
      let s := (s.setBit Reg.HOSTIF.DL_UP false).setDetail pgHost 4 false
      if was then (s.inc Reg.HOSTIF.LINK_DOWN_CNT).raise pgHost 1 else s
  let s := { s with parts := { s.parts with waitWrites := [] } }
  let live := s.host.rings.filter fun (e : Nat × Ring) => e.2.st == .active
  let s := live.foldl (fun s (e : Nat × Ring) => (s.stopRing e.1 3).hostErr 0x09 e.1 e.2.part 0) s
  let s := { s with host := { s.host with rings := s.host.rings.map fun (e : Nat × Ring) =>
    if e.2.st == RingState.stopped then (e.1, { e.2 with cause := 3 }) else e } }
  .next (s.endWhere (fun i => i.place.unadmitted) 0x10)

/-- The lanes and rates that the endpoint trains at (R321). -/
def linkTrained (width speed : Nat) : Bool := [1, 2, 4, 8].contains width && decide (1 ≤ speed ∧ speed ≤ 5)

/-- Pending messages of vectors that are not masked, once nothing holds them (R351). -/
def State.sendPending (s : State) : State :=
  let vs := (s.host.msix.filter fun (e : Nat × Msix) => e.2.pending && !e.2.masked).map Prod.fst
  if !s.hostUp || !s.host.cfg.msixEn || s.host.cfg.msixMask then s
  else vs.foldl (fun s v =>
    { s with host := { s.host with msix := SMap.upd {} s.host.msix v fun m => { m with pending := false } } }.sendMsix v) s

/-- `LINK_UP` : the endpoint has trained, at one of the widths and rates of R321, and may issue requests again; the host's
configuration and BARs are as the command gives them (Tables 10.2 and 10.3). -/
def execLinkUp (width speed : Fin 16) (cfg : PcieCfg) (bars : PcieBars) (s : State) : Result :=
  if !linkTrained width speed then .next s
  else
    let s := { s with host := { s.host with linkUp := true, bme := true, d3hot := false } }
    let s := ((s.setBit Reg.HOSTIF.DL_UP true).setReg Reg.HOSTIF.WIDTH width).setReg Reg.HOSTIF.SPEED speed
    .next (((s.setCfg cfg bars).setDetail pgHost 4 true).raise pgHost 0).sendPending

/-- An access that BAR0 or BAR2 accepts (R324). -/
def barAccepts (bar off size : Nat) : Bool :=
  (bar == 0 && (size == 4 || size == 8) && off % size == 0) || (bar == 2 && size == 4 && off % 4 == 0)

/-- AER logs a discarded write: the first one's header stays until the log is cleared (R322, R324). -/
def State.logUnsupported (s : State) (bar off size : Nat) : State :=
  if s.host.aer.isSome then s else { s with host := { s.host with aer := some { bar := bar, off := off, size := size } } }

/-- `BAR_UNSUPPORTED_ACCESS` : a read completes with UR; a write is discarded and logged under AER (R324). -/
def execBarUnsupportedAccess (bar off size : Nat) (write : Bool) (s : State) : Result :=
  if barAccepts bar off size then .next s
  else
    let s := if write then s.logUnsupported bar off size else s
    .next (s.emit (.unsupported bar off write))

/-! ### Ring commands (R354, R355) -/

/-- RING_SEL. -/
def State.ringSel (s : State) : Nat := s.reg Reg.HOSTIF.RING_SEL

/-- The staged interrupt mode and count are out of range. -/
def State.badInt (s : State) : Bool :=
  decide (256 < s.reg Reg.HOSTIF.ICOUNT) || (s.reg Reg.HOSTIF.IMODE == 3 && s.reg Reg.HOSTIF.ICOUNT == 0)

/-- The staged vector lies outside a partition's range. -/
def State.badVector (s : State) (p : Nat) : Bool :=
  let v := s.part p
  let x := s.reg Reg.HOSTIF.VECTOR
  decide (x < v.vecBase) || decide (v.vecBase + v.vecCount ≤ x)

/-- A ring size is out of range. -/
def badLog2 (n : Nat) : Bool := decide (n < 4) || decide (16 < n)

/-- Rings that a partition holds. -/
def State.ringCount (s : State) (p : Nat) : Nat := (s.ringsOf p).length

/-- `RING_CREATE` . -/
def execRingCreate (s : State) : Result :=
  let r := s.ringSel
  let p := s.reg Reg.HOSTIF.RING_PART
  let j := s.reg Reg.HOSTIF.DB_SLOT
  let sq := s.reg Reg.HOSTIF.SQ_LOG2
  let cq := s.reg Reg.HOSTIF.CQ_LOG2
  if s.badInt || badLog2 sq || badLog2 cq then .next (s.refuse pgHost 0x01)
  else if (s.ring r).st ≠ .none then .next (s.refuse pgHost 0x60)
  else if !s.partExists p then .next (s.refuse pgHost 0x64)
  else if (s.ringAt p j).isSome then .next (s.refuse pgHost 0x65)
  else if s.badVector p then .next (s.refuse pgHost 0x66)
  else if (s.part p).ringQuota ≤ s.ringCount p then .next (s.refuse pgHost 0x67)
  else .next (s.setRing r {
    st := .active, part := p, slot := j,
    sqBase := s.reg Reg.HOSTIF.SQ_BASE_LO * 4096 + 2 ^ 32 * s.reg Reg.HOSTIF.SQ_BASE_HI,
    cqBase := s.reg Reg.HOSTIF.CQ_BASE_LO * 4096 + 2 ^ 32 * s.reg Reg.HOSTIF.CQ_BASE_HI,
    sqLog2 := sq, cqLog2 := cq, imode := s.reg Reg.HOSTIF.IMODE, vector := s.reg Reg.HOSTIF.VECTOR, icount := s.reg Reg.HOSTIF.ICOUNT })

/-- A command on a ring that exists. -/
def ringCommand (s : State) (f : Nat → Ring → State) : Result :=
  let g := s.ring s.ringSel
  if g.st = .none then .next (s.refuse pgHost 0x61) else .next (f s.ringSel g)

/-- `RING_DELETE` . -/
def execRingDelete (s : State) : Result :=
  ringCommand s fun r _ =>
    if s.ringInFlight r ≠ 0 then s.refuse pgHost 0x62
    else if s.adm.binding.any fun (e : Nat × Nat) => e.2 == r + 1 then s.refuse pgHost 0x63
    else s.setRing r {}

/-- `RING_STOP` . -/
def execRingStop (s : State) : Result :=
  ringCommand s fun r g => if g.st = .active then s.stopRing r 4 else s.refuse pgHost 0x62

/-- A ring as RESET leaves it: created anew, with its place, sizes and interrupt mode. -/
def Ring.fresh' (g : Ring) : Ring :=
  { st := .active, part := g.part, slot := g.slot, sqBase := g.sqBase, cqBase := g.cqBase, sqLog2 := g.sqLog2,
    cqLog2 := g.cqLog2, imode := g.imode, vector := g.vector, icount := g.icount }

/-- `RING_RESET` . -/
def execRingReset (s : State) : Result :=
  ringCommand s fun r g => if g.st = .stopped && s.ringInFlight r = 0 then s.setRing r g.fresh' else s.refuse pgHost 0x62

/-- `SETINT` . -/
def execSetint (s : State) : Result :=
  ringCommand s fun r g =>
    if s.badInt then s.refuse pgHost 0x01
    else if s.badVector g.part then s.refuse pgHost 0x66
    else s.setRing r { g with imode := s.reg Reg.HOSTIF.IMODE, vector := s.reg Reg.HOSTIF.VECTOR, icount := s.reg Reg.HOSTIF.ICOUNT }

/-! ### Interrupts (R350 to R353) -/

/-- The fabric cycle of the message of modes FRAME and COUNT (R352). -/
def State.intCycle (s : State) : Nat := s.host.intCycle.getD (s.reg Reg.HOSTIF.INT_CYCLE)

/-- A rig takes effect whose frame ends at or before INT_CYCLE: 80 cycles before its end serve, until the manager writes
INT_CYCLE (R352). -/
def State.fitIntCycle (s : State) : State :=
  if s.flCycles ≤ s.intCycle then { s with host := { s.host with intCycle := some (s.flCycles - 80) } } else s

/-- A ring whose message of the frame is due. -/
def Ring.intDue (g : Ring) : Bool := (g.imode == 2 || g.imode == 3) && g.fresh

/-- `INT_CYCLE_MESSAGE` : one message per vector for the rings with completions since the previous INT_CYCLE (R350, R351). -/
def execIntCycleMessage (s : State) : Result :=
  let s := s.at' s.intCycle
  let vs := ((s.host.rings.filter fun (e : Nat × Ring) => e.2.intDue).map fun (e : Nat × Ring) => (e.2.part, e.2.vector)).eraseDups
  let s := { s with host := { s.host with rings := s.host.rings.map fun (e : Nat × Ring) =>
      if e.2.intDue then (e.1, { e.2 with fresh := false, since := 0 }) else e } }
  .next (vs.foldl (fun s (v : Nat × Nat) => s.ringMsix v.1 v.2) s)

/-- `MSIX_UNMASK` : a message that was due on the masked vector is sent (R351). -/
def execMsixUnmask (v : Fin 2048) (s : State) : Result :=
  let m := SMap.get {} s.host.msix v
  let put (m : Msix) : State := { s with host := { s.host with msix := SMap.put {} s.host.msix v m } }
  .next (if m.pending && s.hostUp && s.host.cfg.msixEn && !s.host.cfg.msixMask then (put { m with masked := false, pending := false }).sendMsix v else put { m with masked := false })

/-- `HERR_FRAME_READ` : the read answers the oldest entry's frame and removes the entry (R356). -/
def execHerrFrameRead (byNaris : Bool) (s : State) : Result :=
  if !s.readArrives byNaris 0x15 then .next s else
  let v := (s.host.herr.head?.map HErr.frame).getD 0
  .next ({ s with host := { s.host with herr := s.host.herr.drop 1 } }.emit (.regRead (if byNaris then 1 else 0) Reg.HOSTIF.HERR_FRAME.off v))

end Sys2Proof.Machine
end

