-- ==== Sys2Proof/Machine/Egress.lean ====
section
/-!
DEFINITION. The sequencer's part of a slot: its start (R88, R94), its EGRESS window (R68 to R75, R120, R123, R177, R178, R315,
R371, R436), held completions (R276), and the folds of the audit chains (R317).
-/
set_option autoImplicit false

namespace Sys2Proof.Machine

/-! ### The start of a slot -/

/-- The registers of Table 3.3a. -/
def startRegs (buf inLen entry : Nat) : Cpu :=
  { pc := BitVec.ofNat 32 entry,
    a := ((Vector.replicate 8 0).set 0 (BitVec.ofNat 32 (0x100000 + buf))).set 7 0x18000,
    d := (Vector.replicate 16 0).set 0 (BitVec.ofNat 32 inLen) }

/-- The item that is admitted to a slot. -/
def State.runner (s : State) (k : Nat) : Option Item := s.adm.items.find? fun i => match i.place with
  | .running q _ => q == k
  | _ => false

/-- `SLOT_START` : the Sheave of the slot begins at cycle ⌈0.8 × START⌉: at ENTRY of the class with the registers of R94 and a
clear port interface (R584), or after CARRY (R88). -/
def execSlotStart (y n : Fin 64) (s : State) : Result :=
  let k := y.val * 64 + n.val
  match s.runner k, s.slotEnt k with
  | some i, some e =>
    let sh := s.sheave y e.lsheave
    match sh.run, s.classEnt i.cls with
    | .idle, some c =>
      let u := if i.frames ≤ 1 then startRegs (e.buf i.place.bufB) i.inLen c.entry else sh.cpu
      .next ((s.at' e.start).setSheave y e.lsheave { sh with
        run := .running, slot := k, item := i.id, stop := sheaveOf (s.egressAt k), cpu := { u with cyc := sheaveOf e.start },
        port := if i.frames ≤ 1 then {} else sh.port })
    | _, _ => .next s
  | _, _ => .next s

/-! ### How an item ends -/

/-- What an EGRESS window does with its item. -/
inductive EgressEnd where
  | park
  | stop (status : Nat) (result : Option (List Byte))
  | post (p : Posted)
  deriving DecidableEq, Repr

/-- The earliest of a Sheave fault and a unit fault; the Sheave fault in the same fabric cycle (R178). -/
def Item.faultResult (i : Item) : Option (List Byte) :=
  match i.sfault, i.ufault with
  | some a, some b => some (if a.1 ≤ b.1 then a.2 else b.2)
  | some a, none => some a.2
  | none, some b => some b.2
  | none, none => none

/-- How an item ends: faults come before a post and the latch; CARRY with a port operation outstanding; CARRY in its last
frame; CARRY; the latch; the post; neither (R69, R73, R75, R120, R123, R177). -/
def Item.egress (i : Item) (limit : Nat) : EgressEnd :=
  match i.faultResult with
  | some b => .stop 0x14 (some b)
  | none =>
    if i.outstanding then .stop 0x14 none
    else if i.carriedNow then (if limit ≤ i.frames then .stop 0x12 none else .park)
    else match i.posted, i.latch with
      | some _, some (_, st) => .stop st (some (List.replicate 8 0))
      | some p, none => .post p
      | none, _ => .stop 0x03 none

/-- An item is aborted by its status (R220). -/
def aborts (status : Nat) : Bool := status == 0x03 || status == 0x12 || status == 0x14

/-- The outputs of an aborted item's commands, and of operations of the item whose result comes at or after the window's
start, take the abort state (R220). -/
def State.abortSlots (s : State) (i : Item) (all : Bool) (k : Nat) : State :=
  let late := (s.flights.filter fun f => f.kind == .bne && f.tag.item == i.id && decide (s.egressAt k ≤ f.r)).flatMap fun f => f.slots.map SlotOut.slot
  s.markStale i.part (late ++ if all then i.wrote else [])

/-- Count a status of R86. -/
def State.countDrop (s : State) (status : Nat) : State :=
  if status = 0x03 then (s.inc Reg.ADMIT.DROP_FRAME_CNT).raise pgAdmit 3
  else if status = 0x12 then (s.inc Reg.ADMIT.CARRY_LIMIT_CNT).raise pgAdmit 4 else s

/-- Twin acknowledgements that an item's completion waits for (R276). -/
def State.waitsOf (s : State) (i : Item) : List Nat :=
  i.mirrorWait.filter fun q => s.stay.mirror.any fun m => m.seq == q

/-- The completion of an item is due: written, or held until the last acknowledgement (R276). -/
def State.finish (s : State) (i : Item) (e : Ended) (checked : Bool) : State :=
  let w := s.waitsOf i
  let e := { e with unmirrored := e.unmirrored || i.unmirrored }
  if w.isEmpty then s.endItem i e checked
  else
    let h : Held := { ring := i.ring, index := i.index, tag := i.tag, seq := i.seq, part := i.part, item := i.id, ended := { e with carried := i.carriedEver }, waits := w }
    (({ s with host := { s.host with held := s.host.held ++ [h] } }).dropItem i.id).checkOff

/-- The item is in an open record of its ring's batches. -/
def State.batched (s : State) (i : Item) : Bool := (s.ring i.ring).batches.any fun b => b.ents.any (BatchEnt.isOf i.id)

/-- A refused egress write: nothing is written, the item leaves, its reservation is released, the ring stops and an open
batch is discarded (R436). -/
def State.egressRefused (s : State) (i : Item) : State :=
  let s := s.updRing i.ring fun v => { v.leaveBatch i.id with cqRsv := v.cqRsv - 1 }
  let s := (s.stopRing i.ring 2).updRing i.ring Ring.killOpen
  (((s.flushBatches i.ring).dropItem i.id).leave i)

/-- One host-port write stands for the output and the completion of an item (R436): whether it is permitted. -/
def State.egressCheck (s : State) (i : Item) (out : Bool) : Bool × State :=
  if s.hostUp && (out || ((s.waitsOf i).isEmpty && !s.batched i)) then s.hostAccess i.part .write else (true, s)

/-- End an item that writes no output. -/
def State.egressStop (s : State) (i : Item) (status : Nat) (result : Option (List Byte)) : State :=
  let (k, s) := if result.isNone then s.draw else (0, s)
  let r := result.getD (leBytes 8 (Config.freeNat k))
  let s := s.countDrop status
  let (ok, s) := s.egressCheck i false
  if ok then s.finish i { status := status, result := r } true else s.egressRefused i

/-- Output bytes overlap a bitmap of the partition's dirty log (R371). -/
def Part.hitsBitmap (v : Part) (a n : Nat) : Bool :=
  v.dirtyOn && (overlaps a n v.dirtyAddrA (v.dirtySpan / 8) || overlaps a n v.dirtyAddrB (v.dirtySpan / 8))

/-- The class is audited: AUDIT of its SERVICE word. -/
def ClassEnt.audited (c : ClassEnt) : Bool := bitOf c.service 31

/-- First byte of the chain block of a message buffer at yard offset `buf` (R315). -/
def ClassEnt.block (c : ClassEnt) (buf : Nat) : Nat := buf + 64 * c.bufLen - 128

/-- The partition's folder takes the record link of an item (R315). -/
def State.takeLink (s : State) (i : Item) (slotEnd : Nat) (l : List Byte) : State :=
  let v := s.part i.part
  s.setPart i.part { v with links := v.links ++ [{ frame := s.frame.no, slotEnd := slotEnd, ring := i.ring, seq := i.seq.toNat, link := l }] }

/-- The place of L in the chain block (R315). -/
def linkOffset : Nat := 0x40

/-- End an item that has posted (R68, R120, R167, R315, R371). -/
def State.egressPost (s : State) (i : Item) (p : Posted) (k : Nat) (e : SlotEnt) (c : ClassEnt) : State :=
  let buf := e.buf i.place.bufB
  let out := s.ymemRead (k / 64) (buf + c.maxIn) p.len
  if (s.part i.part).hitsBitmap i.outAddr p.len then s.egressStop i 0x07 none
  else
    let (ok, s) := s.egressCheck i (0 < p.len)
    if !ok then s.egressRefused i
    else
      let written := decide (0 < p.len) && s.hostUp
      let s := s.hostWr i.part i.outAddr out true
      let s := if c.audited && written && (p.status == 0 || p.status == 1) then
          s.takeLink i e.stop (s.ymemRead (k / 64) (c.block buf + linkOffset) 32) else s
      s.finish i { status := p.status, outLen := p.len, result := p.result, dataWritten := written } true

/-- The item parks (R72): pending register writes and results land, and it keeps its slot. -/
def State.park (s : State) (i : Item) (y l : Nat) : State :=
  let sh := s.sheave y l
  let u := sh.cpu.land ((sh.cpu.pend.map PendWrite.due).foldl max 0)
  let port := sh.port.seen ((sh.port.due.map PortDue.cyc).foldl max 0)
  let port := { port with gh := (sh.port.gh.take 1).map fun (g : Nat × Quad) => (0, g.2), ghLast := none, cvu := (sh.port.cvu.take 1).map fun c => { c with r := 0 } }
  let s := s.setSheave y l { sh with run := .idle, cpu := u, port := port }
  s.updItem i.id fun i => { i with carriedEver := true, place := match i.place with
    | .running q b => .parked q b
    | p => p }

/-- `EGRESS_START` : the sequencer stops the Sheave and ends the slot's reservations; the item parks or ends. `err` is
what the sequencer meets: an error of yard memory in what it reads (R135), or a fault of its own, which ends the item as one of
the Sheave's checking does, with result bytes that no table gives (R136, R141). -/
def execEgressStart (y n : Fin 64) (err : SeqErr) (s : State) : Result :=
  let k := y.val * 64 + n.val
  match s.runner k, s.slotEnt k with
  | some i, some e =>
    match s.classEnt i.cls with
    | none => .next s
    | some c =>
      let s := (s.at' (s.egressAt k)).closeChains k
      match i.egress c.carryLimit with
      | .park => .next ((s.abortSlots i false k).park i y e.lsheave)
      | o =>
        let sh := s.sheave y e.lsheave
        let s := s.setSheave y e.lsheave { sh with run := .idle, cpu := { sh.cpu with pend := [] } }
        let s := s.dropItemHeld i.id
        if err = .unit then .next (((s.yardUnitFault y kindSequencer).abortSlots i true k).egressStop i 0x14 none)
        else
        match o with
        | .post p =>
          let reads := 0 < p.len || c.audited
          let s := if err = .ce && reads then s.yardCe y else s
          if err = .ue && reads then
            let s := ((s.fault 1 srcYmem y 0).noteCheck y (s.physSheave y e.lsheave) 0x24).yardUe y
            .next ((s.abortSlots i true k).egressStop i 0x14 (some ([0x24, 2, BitVec.ofNat 8 (s.physSheave y e.lsheave), BitVec.ofNat 8 y.val] ++ List.replicate 4 0)))
          else .next ((s.abortSlots i false k).egressPost i p k e c)
        | .stop st r => .next ((s.abortSlots i (aborts st) k).egressStop i st r)
        | .park => .next s
  | _, _ => .next s

/-! ### Held completions (R276) -/

/-- Write a held completion. -/
def State.releaseHeld (s : State) (h : Held) (unmirrored : Bool) : State :=
  let s := { s with host := { s.host with held := s.host.held.filter fun x => x.item != h.item } }
  let s := s.endEntry h.ring h.part h.item h.tag h.seq { h.ended with unmirrored := h.ended.unmirrored || unmirrored }
  s.settle h.part

/-- `HELD_COMPLETION_RELEASE` : the last acknowledgement for the item has arrived. -/
def execHeldCompletionRelease (item : Nat) (s : State) : Result :=
  match s.host.held.find? fun h => h.item == item with
  | some h => .next (if h.waits.isEmpty then s.releaseHeld h false else s)
  | none => .next s

/-! ### Folding (R317) -/

/-- Links in the order of a fold: SLOT_END, then RING, then SEQ. -/
def linkOrder (a b : AuditLink) : Bool :=
  decide (a.slotEnd < b.slotEnd) || (a.slotEnd == b.slotEnd && (decide (a.ring < b.ring) || (a.ring == b.ring && decide (a.seq ≤ b.seq))))

/-- The head after the links of frame `f`. -/
def foldHead (head : List Byte) (f : Nat) (ls : List AuditLink) : List Byte :=
  sha3_256 (ascii "OXFOLD" ++ head ++ leBytes 8 f ++ leBytes 2 ls.length ++ (ls.mergeSort linkOrder).flatMap AuditLink.link)

/-- The folds of the frames of `fs` in a partition's chain. -/
def Part.fold (v : Part) (fs : List Nat) : Part :=
  fs.foldl (fun (v : Part) f =>
    let ls := v.links.filter fun l => l.frame == f
    { v with head := foldHead v.head f ls, headFrame := f, links := v.links.filter fun l => l.frame != f }) v

/-- The links of the frames that `due` names are folded; the twin receives each new head (R399). -/
def State.foldLinks (s : State) (due : Nat → Bool) : State :=
  let todo := s.parts.tab.filterMap fun (e : Nat × Part) =>
    let fs := (((e.2.links.filter fun l => due l.frame).map AuditLink.frame).eraseDups)
    if fs.isEmpty then none else some (e.1, fs)
  let s := todo.foldl (fun s (e : Nat × List Nat) => s.setPart e.1 ((s.part e.1).fold e.2)) s
  let msg (p : Nat) : List Byte := [BitVec.ofNat 8 p] ++ List.replicate 7 0 ++ leBytes 8 (s.part p).headFrame ++ (s.part p).head
  if todo.isEmpty then s else s.sendMsg 7 (todo.flatMap fun (e : Nat × List Nat) => msg e.1)

/-- `AUDIT_FOLD` : the links of ended frames are folded. -/
def execAuditFold (s : State) : Result := .next (s.foldLinks fun f => f != s.frame.no)

/-- At the tick of a frame every fold is complete but those of the frame before (R317). -/
def State.foldDue (s : State) : State := s.foldLinks fun f => f != s.frame.no && f != s.frame.prev

end Sys2Proof.Machine
end

