-- ==== Sys2Proof/Machine/Stay.lean ====
section
/-!
DEFINITION. The Stay link: training, pairing, frames, heartbeats, loss of the twin, mirroring, the duplicate table and
resynchronisation (R380 to R408).
-/
set_option autoImplicit false

namespace Sys2Proof.Machine

/-! ### Link and pair states (Table 12.8) -/

/-- Change the pair state; STATE[4] is PAIRED, and the bits that name a split stand while PSTATE is SPLIT. -/
def State.setPstate (s : State) (p : Nat) : State :=
  let s := { s with stay := { s.stay with
    pstate := p, splitRig := p == 2 && s.stay.splitRig, splitCfg := p == 2 && s.stay.splitCfg } }
  let s := s.setDetail pgStay 4 (p == 1)
  if p = 1 then s.raise pgStay 2 else s

/-- PSTATE tells that a session with the twin exists. -/
def StaySt.session (y : StaySt) : Bool := y.pstate == 1 || y.pstate == 2 || y.pstate == 4

/-- What a session holds is dropped; the sequence numbers start at 0 at the next link up (Table 12.2). The count of missed
heartbeats stands until the link is up again (Table 12.7). -/
def StaySt.ended (y : StaySt) (lstate : Nat) : StaySt :=
  { y with
    lstate := lstate, mode := 0, version := 0, hs := 0, transcript := [], kemDk := none, txKey := none, rxKey := none,
    txSeq := 0, txEpoch := 0, rxSeq := 0, rxEpoch := 0, acked := 0, replay := [], resends := 0, depart := false,
    departed := false, retrain := none, ackDue := false, hbLast := none, hbSent := none, hbHeard := none, mirror := [],
    rowsLeft := 0, settled := [], twinCfg := none, rigProposal := none }

/-- The link goes down: to `next` where the link keeps trying, to OFF where it was stopping (R358, R385). -/
def State.linkFall (s : State) (next : Nat) : State :=
  let h := s.hd pgStay
  let off := h.st == 3
  let fell := s.stay.lstate ≠ 0
  let s := { s with stay := s.stay.ended (if off || !s.stayReady then 0 else next) }
  let s := s.setHd pgStay { h with enable := !off, st := if off then 0 else 1 }
  if fell then s.raise pgStay 1 else s

/-- The end of an acknowledgement's wait: `q` is acknowledged. -/
def State.unwait (s : State) (q : Nat → Bool) : State :=
  { s with
    host := { s.host with held := s.host.held.map fun h => { h with waits := h.waits.filter fun x => !q x } },
    adm := { s.adm with items := s.adm.items.map fun i => { i with mirrorWait := i.mirrorWait.filter fun x => !q x } } }

/-- A standby whose twin is lost requests the change to OPERATIONAL where PROMOTE_AUTO is set (R393). -/
def State.promote (s : State) : State :=
  if s.glob.booted && s.mode == .standby && s.bit Reg.STAY.PROMOTE_AUTO && s.glob.change.isNone then
    s.startChange .operational .device true
  else s

/-- Completions held for the twin are written with UNMIRRORED; items that still wait take the flag with them (R276). -/
def State.releaseAll (s : State) : State :=
  let hs := s.host.held
  let late (i : Item) : Bool := i.mirrorWait.any fun q => s.stay.mirror.any fun m => m.seq == q
  let f (i : Item) : Item := { i with unmirrored := i.unmirrored || late i, mirrorWait := [] }
  let s := { s with adm := { s.adm with items := s.adm.items.map f } }
  hs.foldl (fun s h => s.releaseHeld h (!h.waits.isEmpty)) s

/-- The twin is declared lost (R390): PSTATE, the session, the held completions, the frozen duplicate table (R400), a
promotion. The survivor's rings, items, slots and admission stay as they are: it serves its own rings without interruption (R402). -/
def State.declareLost (s : State) : State :=
  if !s.stay.session then s.linkFall 1
  else
    let s := s.setPstate 3
    let s := ((s.sat Reg.STAY.LOST_CNT).setReg Reg.STAY.LOST_FRAME s.frame32).raise pgStay 3
    let s := s.releaseAll.linkFall 1
    { s with stay := { s.stay with frozen := true, frozenTicks := s.frame.ticks } }.promote

/-- A link that stops goes down once DEPART has been sent and every frame is acknowledged (R385). -/
def State.drained (s : State) : State :=
  if (s.hd pgStay).st = 3 && s.stay.departed && s.stay.acked == s.stay.txSeq then s.declareLost else s

/-- `STAY_ENABLE` : a write of CTRL.ENABLE of the STAY page (R358, R385). -/
def execStayEnable (en : Bool) (s : State) : Result :=
  let h := s.hd pgStay
  if en then
    if h.st = 3 then .next (s.refuse pgStay 0x02)
    else if s.stayId.isNone then .next (s.refuse pgStay 0x80)
    else if h.st = 0 then
      .next { s.setHd pgStay { h with enable := true, st := 1 } with stay := s.stay.ended 0 }.stayTrains
    else .next s
  else if h.st = 1 || h.st = 2 then
    let s := s.setHd pgStay { h with enable := false, st := 3 }
    if s.stay.lstate = 3 then .next { s with stay := { s.stay with depart := true } } else .next (s.linkFall 0)
  else .next s

/-! ### Training (R381, R382) -/

/-- The link modes in descending payload rate: mode, lanes, whether at 25.78125 Gb/s (Table 12.1). -/
def linkModes : List (Nat × Nat × Bool) := [(1, 4, true), (2, 2, true), (3, 4, false), (4, 1, true), (5, 2, false), (6, 1, false)]

/-- Lanes that a MAX_LANES code allows. -/
def maxLanes (c : Nat) : Nat := if c = 0 then 4 else if c = 1 then 2 else 1

/-- The mode that both ends take. -/
def State.linkMode (s : State) (fast slow : Nat) : Option Nat :=
  let lanes := min (maxLanes (s.reg Reg.STAY.MAX_LANES)) (maxLanes s.stay.twinMax.1)
  let high := s.reg Reg.STAY.MAX_RATE == 0 && s.stay.twinMax.2 == 0
  (linkModes.find? fun m => m.2.1 ≤ lanes && (high || !m.2.2)
    && (if m.2.2 then fast else slow) % 2 ^ m.2.1 == 2 ^ m.2.1 - 1).map Prod.fst

/-- A frame of the handshake in the transcript. -/
def State.heard (s : State) (own : Bool) (f : List Byte) : State :=
  { s with stay := { s.stay with transcript := s.stay.transcript ++ [(own, f)] } }

/-- Send a frame of the handshake that stands in the transcript. -/
def State.sendShake (s : State) (typ : Nat) (payload : List Byte) : State :=
  let s := s.sendFrame typ payload
  s.heard true ((s.stay.replay.getLast?.map fun f => f.bytes none 0).getD [])

/-- The lower twin opens the key exchange once both HELLOs have passed (R383 step 3). -/
def State.openKem (s : State) : State :=
  if s.stay.hs ≠ 1 || !(s.stay.transcript.any fun f => !f.1) then s
  else
    let s := { s with stay := { s.stay with hs := 2 } }
    if !s.lowerTwin then s
    else match s.rillDraw (wireRill 3) with
      | (none, s) => (s.refuse pgNaris 0xB6).linkFall 0
      | (some n, s) =>
        let dz := randBytes n 64
        { s with stay := { s.stay with kemDk := some dz } }.sendShake 1 (mlkemEk dz)

/-- Send HELLO with a fresh nonce; a refused draw is retried after 1 s (R383, R487). -/
def State.startHello (s : State) : State :=
  match s.rillDraw (wireRill 3) with
  | (none, s) => s.refuse pgNaris 0xB6
  | (some n, s) =>
    let s := s.sendShake 0 ([1] ++ ownFp ++ s.rigHash ++ randBytes n 32)
    { s with stay := { s.stay with hs := 1 } }.openKem

/-- `LINK_TRAIN` : training ends; the mode and the version are chosen and the handshake starts (R381, R383). -/
def execLinkTrain (fast slow : Fin 16) (twinLanes twinRate : Fin 4) (versions : List Nat) (lat : Fin 65536) (s : State) : Result :=
  if s.stay.lstate ≠ 1 then .next s
  else
    let s := { s with stay := { s.stay with twinMax := (twinLanes.val, twinRate.val) } }
    match s.linkMode fast.val slow.val with
    | none => .next s
    | some m =>
      let s := s.setReg Reg.STAY.LINK_LAT lat.val
      if !versions.contains 1 then .next ((s.linkFall 0).updHd pgStay fun h => { h with errInfo := 1 })
      else .next { s with stay := { s.stay with lstate := 2, mode := m, version := 1 } }.startHello

/-! ### Resending (R382, R388) -/

/-- How far `a` lies behind `b` in a count of 32 bits, from 0 to 2³¹ − 1; none where it does not. -/
def seqAhead (a b : Nat) : Option Nat :=
  let d := (b + 2 ^ 32 - a % 2 ^ 32) % 2 ^ 32
  if d < 2 ^ 31 then some d else none

/-- Send the kept frames from number `n` on again. -/
def State.resendFrom (s : State) (n : Nat) : State :=
  let fs := s.stay.replay.filter fun f => (seqAhead n f.seq).isSome
  let s := s.incBy Reg.STAY.RETRY_CNT fs.length
  fs.foldl (fun s f =>
    let epoch := if s.stay.txSeq ≤ f.seq then s.stay.txEpoch - 1 else s.stay.txEpoch
    s.emit (.link f.typ ({ f with resend := true, ackSeq := s.stay.rxSeq }.bytes s.stay.txKey epoch))) s

/-- A retrain starts; the session, its keys and its counts stay (R382), and so does LSTATE UP. -/
def State.startRetrain (s : State) : State :=
  if s.stay.retrain.isSome then s else { s with stay := { s.stay with retrain := some s.frame.ticks } }

/-! ### Pairing (R383, R384) -/

/-- A pairing is rejected: the link goes down and tries again after 1 s. -/
def State.rejectPeer (s : State) : State := (s.raise pgStay 5).linkFall 0

/-- `PAIRING_RETRY` : 1 s after a rejection, or after a refused nonce. -/
def execPairingRetry (s : State) : Result :=
  if (s.hd pgStay).st ≠ 1 then .next s
  else if s.stay.lstate = 0 then .next s.stayTrains
  else if s.stay.lstate = 2 && s.stay.hs = 0 then .next s.startHello
  else .next s

/-- `HELLO` : the twin's fingerprint must be that of the Stay link identity, and both twins members of the domain (R383). -/
def execHello (fp rig frame : List Byte) (s : State) : Result :=
  if s.stay.lstate ≠ 2 || 2 ≤ s.stay.hs then .next s
  else if (s.stayId.map StayId.twinFp) != some fp || !s.isMember fp || !s.isMember ownFp then .next s.rejectPeer
  else .next ({ s with stay := { s.stay with twinRig := fitBytes 32 rig } }.heard false frame).openKem

/-- T of the handshake: the hash of the HELLO and KEM frames, the lower twin's first in each step. -/
def State.transcriptHash (s : State) : List Byte :=
  let fs (own : Bool) : List (List Byte) := (s.stay.transcript.filter fun f => f.1 == own).map Prod.snd
  let lo := fs s.lowerTwin
  let hi := fs !s.lowerTwin
  sha3_256 ((List.zipWith (· ++ ·) lo hi).flatten)

/-- Both ends hold K: the session keys are derived, and AUTH is sent (R383 steps 4, 5). -/
def State.sendAuth (s : State) (k : List Byte) : State :=
  let t := s.transcriptHash
  let lo := sha3_256 (ascii "OXSTAYL" ++ k ++ t)
  let hi := sha3_256 (ascii "OXSTAYU" ++ k ++ t)
  let low := s.lowerTwin
  let s := { s with stay := { s.stay with
    hs := 3, kemDk := none, txKey := some (if low then lo else hi), rxKey := some (if low then hi else lo) } }
  match s.deviceSign "OXSTAY" (sha3_256 (t ++ [if low then 1 else 2])) with
  | (some g, s) => s.sendParts 2 (blocks 2048 (Config.identityCert ++ g))
  | (none, s) => s.linkFall 0

/-- `KEM` : ek or c of the twin (R383 step 3). -/
def execKem (body frame : List Byte) (s : State) : Result :=
  if s.stay.lstate ≠ 2 || s.stay.hs ≠ 2 then .next s
  else match s.stay.kemDk with
    | some dz => .next ((s.heard false frame).sendAuth (mlkemDecaps dz body))
    | none =>
      if s.lowerTwin then .next s
      else if !mlkemEkOk body then .next s.rejectPeer
      else match (s.heard false frame).rillDraw (wireRill 3) with
        | (none, s) => .next ((s.refuse pgNaris 0xB6).linkFall 0)
        | (some n, s) =>
          let (k, c) := mlkemEncaps body (randBytes n 32)
          .next ((s.sendShake 1 c).sendAuth k)

/-! ### The configuration digest (R391) -/

/-- P_STATE (Table 11.1). -/
def PState.num : PState → Nat
  | .none => 0 | .pending => 1 | .active => 2 | .quiescing => 3 | .quiesced => 4 | .clearing => 5 | .exported => 6

/-- The state of a P_STATE number. -/
def PState.ofNum (n : Nat) : PState :=
  match n with
  | 1 => .pending | 2 => .active | 3 => .quiescing | 4 => .quiesced | 5 => .clearing | 6 => .exported | _ => .none

/-- CONFIG_DIGEST as the heartbeat carries it: partition table, ownership and bindings in effect. The layout that is hashed is
not given (notes/assumptions/28.md). -/
def State.configDigest (s : State) : List Byte :=
  let pairs (m : SMap Nat) : List Byte := m.flatMap fun (e : Nat × Nat) => leBytes 4 e.1 ++ leBytes 4 e.2
  let parts := s.parts.tab.flatMap fun (e : Nat × Part) =>
    [BitVec.ofNat 8 e.1, BitVec.ofNat 8 e.2.st.num] ++ e.2.res.flatMap (leBytes 4)
  (sha3_256 (parts ++ pairs s.adm.owner ++ pairs s.adm.binding)).take 16

/-- The 16 B summary of a logical row (R404): ATTR of a head row, and CHECK of the row as its entry has it; CHECK of a row without an
entry is that of a zero row. -/
def State.rowSummary (s : State) (r : Nat) : List Byte :=
  let head := match s.entry r with
    | some e => e.attr (s.rowGen r)
    | none => List.replicate 8 0
  let check := match (s.headOf r).bind fun h => (s.entry h).map fun e => (h, e) with
    | some (h, e) => (e.rowImage h (s.rowGen h) e.useCount (r - h)).drop 0x78
    | none => leBytes 8 (rowCheck [] r)
  leBytes 2 (s.rowGen r) ++ head.take 8 ++ [0, 0] ++ check.take 4

/-- The row comparison starts: every row's summary is sent (R403, R404). -/
def State.startResync (s : State) : State :=
  let s := s.setPstate 4
  { s with stay := { s.stay with rowsLeft := 131072, settled := [], everPaired := true } }.sendMsg 10 ((List.range 131072).flatMap s.rowSummary)

/-- The tick reference after pairing: the twin that already runs a rig, else the lower twin (R79). DESIGN CHOICE
(notes/assumptions/79.md): the lower twin also where both already run one; and a reference that stood at TWIN goes to FSYNC_IN where the
domain has more members than the pair, to FREE where it has not. -/
def State.takeReference (s : State) : State :=
  let zero := List.replicate 32 (0 : Byte)
  let own := s.rigHash != zero
  let twin := s.stay.twinRig != zero
  if (twin && !own) || (twin == own && !s.lowerTwin) then s.takeSource 2
  else if s.reg Reg.FRAME.SOURCE = 2 then s.takeSource (if 2 < s.flash.opt.members.length then 1 else 0)
  else s

/-- A device that pairs with an OPERATIONAL twin in ACTIVE-STANDBY enters STANDBY (R393). -/
def State.takeRole (s : State) : State :=
  if s.glob.booted && s.stay.twinOp && (s.stayId.map StayId.pairMode) == some 2 && s.mode == .operational && s.glob.change.isNone then
    s.startChange .standby .device true
  else s

/-- The link is up and the twins compare rig and configuration (R384, R403). -/
def State.pairUp (s : State) (digest : List Byte) (mode : Nat) : State :=
  let lost := s.stay.pstate == 3
  let rigEq := s.stay.twinRig == s.rigHash
  let cfgEq := fitBytes 16 digest == s.configDigest
  let s := { s with stay := { s.stay with lstate := 3, twinOp := mode == 4, hbMiss := 0 } }
  let s := (s.updHd pgStay fun h => { h with st := if h.st = 1 then 2 else h.st }).raise pgStay 0
  let s :=
    if rigEq && cfgEq then
      if lost then s.startResync else { s with stay := { s.stay with everPaired := true } }.setPstate 1
    else { s with stay := { s.stay with splitRig := !rigEq, splitCfg := !cfgEq } }.setPstate 2
  s.takeReference.takeRole

/-- The key that an identity certificate certifies, where its signature verifies under Yunacor's certification key (R248, R383). -/
def certifiedKey (cert sig : List Byte) : Option (List Byte) :=
  if mldsaVerify Config.certRoot "OXCERT" (sha3_256 cert) sig then some (Config.certKey cert) else none

/-- The twin's AUTH is accepted: its certificate verifies, and its signature over the transcript does under the certified key. -/
def State.authOk (s : State) (cert certSig sig : List Byte) : Bool :=
  match certifiedKey cert certSig with
  | some pk => mldsaVerify pk "OXSTAY" (sha3_256 (s.transcriptHash ++ [if s.lowerTwin then 2 else 1])) sig
  | none => false

/-- `AUTH` : certificate and signature of the twin (R383 step 4, R384). -/
def execAuth (cert certSig sig digest : List Byte) (mode : Fin 16) (s : State) : Result :=
  if s.stay.lstate ≠ 2 || s.stay.hs ≠ 3 then .next s
  else .next (if s.authOk cert certSig sig then s.pairUp digest mode.val else s.rejectPeer)

/-! ### Frames (R386 to R388) -/

/-- The session ends at once on a tag failure, and on a NAK for a frame that is no longer held. -/
def State.tagFail (s : State) : State := ((s.raise pgStay 4).fault 0 0).declareLost

/-- An entry whose write the twin has acknowledged reads MIRRORED (R275). -/
def State.markMirrored (s : State) (head : Nat) : State :=
  let s := match s.entry head with
    | some e => if e.mirror = 2 then s.setEntry head (some (e.mirrored 1)) else s
    | none => s
  { s with cleat := { s.cleat with pending := s.cleat.pending.map fun w =>
    match w.op with
    | .create e => if w.head = head && e.mirror = 2 then { w with op := .create (e.mirrored 1) } else w
    | _ => w } }

/-- ACK_SEQ of an accepted frame acknowledges every frame before it (Table 12.2). -/
def State.takeAck (s : State) (n : Nat) : State :=
  let got (q : Nat) : Bool := match seqAhead q n with
    | some d => 0 < d
    | none => false
  let more := got s.stay.acked
  let ms := s.stay.mirror.filter fun m => got m.seq
  let s := { s with stay := { s.stay with
    acked := if more then n else s.stay.acked, resends := if more then 0 else s.stay.resends,
    mirror := s.stay.mirror.filter fun m => !got m.seq } }
  (ms.foldl (fun s m => s.markMirrored m.head) s).unwait got

/-- The twin refuses the mirrored write before ACK_SEQ: its item completes as for a lost twin, its rows stay PENDING and
PSTATE becomes RESYNC (R396). -/
def State.takeReject (s : State) (n : Nat) : State :=
  let q := (n + 2 ^ 32 - 1) % 2 ^ 32
  let s := { s with stay := { s.stay with mirror := s.stay.mirror.filter fun m => m.seq != q } }
  let fi (i : Item) : Item := if i.mirrorWait.contains q then { i with unmirrored := true } else i
  let fh (h : Held) : Held := if h.waits.contains q then { h with ended := { h.ended with unmirrored := true } } else h
  let s := { s with adm := { s.adm with items := s.adm.items.map fi }, host := { s.host with held := s.host.held.map fh } }
  let s := s.takeAck n
  if s.stay.pstate = 1 then s.startResync else s

/-- A frame from number `n` on is no longer held for a resend (R388). -/
def State.unheld (s : State) (n : Nat) : Bool :=
  match seqAhead n s.stay.txSeq with
  | some d => decide (s.stay.replay.length < d)
  | none => true

/-- A NAK asks for the frames from `n` on; a frame that has been resent 8 times starts a retrain (R382). -/
def State.takeNak (s : State) (n : Nat) : State :=
  if s.unheld n then s.tagFail
  else
    let s := s.takeAck n
    if 8 ≤ s.stay.resends then s.startRetrain
    else { s with stay := { s.stay with resends := s.stay.resends + 1 } }.resendFrom n

/-- `LINK_RETRAIN` : the lock of a lane is lost and a retrain starts; where one runs, it ends: the mode is chosen anew and the frames
from the number that the receiver expects on are sent again (R382). Lanes that give no mode leave it running. -/
def execLinkRetrain (fast slow : Fin 16) (lat : Fin 65536) (expect : Word) (s : State) : Result :=
  if s.stay.lstate ≠ 3 then .next s
  else if s.stay.retrain.isNone then .next s.startRetrain
  else match s.linkMode fast.val slow.val with
    | none => .next s
    | some m =>
      let s := { s with stay := { s.stay with retrain := none, resends := 0, mode := m } }.setReg Reg.STAY.LINK_LAT lat.val
      .next (if s.unheld expect.toNat then s.tagFail else (s.takeAck expect.toNat).resendFrom expect.toNat)

/-- `LINK_FRAME_RX` : the checks of R388, then the acknowledgement that the frame carries. -/
def execLinkFrameRx (typ : Fin 16) (seq ackSeq : Word) (nak rej crcOk tagOk : Bool) (s : State) : Result :=
  if s.stay.lstate < 2 then .next s
  else
    let ahead := seqAhead s.stay.rxSeq seq.toNat
    if !crcOk || (ahead.map fun d => decide (0 < d)) == some true then
      let s := if crcOk then s else s.inc (Reg.CVU.FIX_MM 5)
      .next ((s.inc Reg.STAY.CRC_ERR_CNT).sendFrame 9 [] true true)
    else if ahead.isNone then .next s
    else if typ.val ≠ 0 && typ.val ≠ 1 && !tagOk then .next s.tagFail
    else
      let n := (s.stay.rxSeq + 1) % 2 ^ 32
      let s := { s with stay := { s.stay with
        rxSeq := n, rxEpoch := if n = 0 then s.stay.rxEpoch + 1 else s.stay.rxEpoch, ackDue := true } }
      let s := if 0xB ≤ typ.val then s.inc Reg.STAY.CRC_ERR_CNT else s
      if nak && rej then .next (s.takeReject ackSeq.toNat).drained
      else if nak then .next (s.takeNak ackSeq.toNat).drained
      else .next (s.takeAck ackSeq.toNat).drained

/-- `ACK` : nothing else has been sent for 1 µs after a receipt (R388). -/
def execAck (s : State) : Result :=
  .next (if s.stay.ackDue && 2 ≤ s.stay.lstate then s.sendFrame 9 [] else s)

/-! ### Heartbeats (R389 to R391) -/

/-- The digests of the heartbeats that close one frame differ, or agree again once RESYNC_CFG has made them equal (R391,
R403). -/
def State.compareDigests (s : State) (same : Bool) : State :=
  if !same && (s.stay.pstate == 1 || s.stay.pstate == 4) then
    ({ s with stay := { s.stay with splitCfg := true } }.setPstate 2).raise pgStay 6
  else if same && s.stay.pstate == 2 && s.stay.splitCfg then
    let s := { s with stay := { s.stay with splitCfg := false } }
    if s.stay.splitRig then s else s.startResync
  else s

/-- Both heartbeats that close one frame are there: their digests are compared. -/
def State.matchBeats (s : State) : State :=
  match s.stay.hbSent, s.stay.hbHeard with
  | some (f, d), some (g, e) => if f = g then s.compareDigests (d == e) else s
  | _, _ => s

/-- `HEARTBEAT` : sent at fabric cycle FL_CYCLES − 100 of every frame. -/
def execHeartbeat (s : State) : Result :=
  if s.stay.lstate ≠ 3 then .next s
  else
    let s := s.at' (s.flCycles - 100)
    let d := s.stay.ownDigest
    let msg := leBytes 8 s.frame.no ++ leBytes 4 (s.reg Reg.STAY.CONFIG_GEN)
      ++ [BitVec.ofNat 8 s.mode.num, if s.stay.depart then 1 else 0, 0, 0] ++ fitBytes 16 d
    let s := s.sendFrame 3 msg
    .next { s with stay := { s.stay with
      hbSent := some (s.frame.no, fitBytes 16 d), departed := s.stay.departed || s.stay.depart, depart := false } }.matchBeats

/-- The phase of the twin's tick, in cycles of 1 ns: the arrival cycle of its heartbeat less LINK_LAT, measured against
FL_CYCLES − 100, within half a frame (R389). -/
def State.beatPhase (s : State) (cyc : Nat) : Int :=
  let n : Int := s.flCycles
  let d := ((cyc : Int) - s.reg Reg.STAY.LINK_LAT - (n - 100)) % n
  if n < 2 * d then d - n else d

/-- The frame that runs on the twin as its heartbeat arrives: the one it closes where it arrives before the twin's tick. -/
def State.beatFrame (s : State) (frame cyc : Nat) : Nat :=
  if s.reg Reg.STAY.LINK_LAT < 100 && s.flCycles - 100 ≤ cyc then frame else frame + 1

/-- `HEARTBEAT_RX` : it arrives in fabric cycle `cyc`: the tick phase and the numbering where the twin is the reference, DEPART, and the
digest of the frame it closes. -/
def execHeartbeatRx (frame : Nat) (digest : List Byte) (depart : Bool) (cyc : Nat) (s : State) : Result :=
  if s.stay.lstate ≠ 3 then .next s
  else
    let s := { s with stay := { s.stay with
      hbLast := s.tickOf frame <|> s.stay.hbLast, hbHeard := some (frame, fitBytes 16 digest) } }
    if depart then .next s.declareLost
    else
      let s := if s.reg Reg.FRAME.SOURCE = 2 then (s.track (s.beatPhase cyc)).takeNumber (s.beatFrame frame cyc) else s
      .next s.matchBeats

/-- `HEARTBEAT_MISS` : at fabric cycle 1,000 the heartbeat of the frame before is judged; the third miss in a row loses the
twin. -/
def execHeartbeatMiss (s : State) : Result :=
  if !s.stay.session then .next s
  else
    let s := s.at' 1000
    let seen := s.stay.hbLast.any fun t => decide (s.frame.ticks ≤ t + 1)
    let n := if seen then 0 else s.stay.hbMiss + 1
    let s := { s with stay := { s.stay with hbMiss := n } }
    .next (if 3 ≤ n then s.declareLost else s)

/-- `TWIN_LOST` : the link goes down, or another cause of R390. -/
def execTwinLost (s : State) : Result := .next (if s.stay.lstate = 0 then s else s.declareLost)

/-! ### Mirrored writes and commands (R395 to R399) -/

/-- An entry as the twin sends it; both twins hold it, so it reads MIRRORED. -/
def twinEntry (t : TwinEntry) : Entry :=
  { alg := t.alg, klen := t.klen, usage := t.usage, part := t.part, exportF := t.exportF, mirror := 1, persist := t.persist,
    packed := t.packed, system := t.system, rows := t.rows, kbits := t.kbits, pubexp := t.pubexp, tr31 := t.tr31,
    useLimit := t.useLimit, notAfter := t.notAfter, material := t.material }

/-- The rows of a head row that other entries hold: their heads. -/
def State.overlapHeads (s : State) (head rows : Nat) : List (Nat × Entry) :=
  s.cleat.ents.filterMap fun (x : Nat × Option Entry) => x.2.bind fun e =>
    if x.1 < head + rows ∧ head < x.1 + e.rows then some (x.1, e) else none

/-- The pending write that a record of the twin makes, or none where the twin refuses it (R395, R396). -/
def State.twinWrite (s : State) (r : MirrorRec) : Option CleatWrite :=
  let held (h : BitVec 32) : Option Entry :=
    match s.entry (h.toNat % 2 ^ 17) with
    | some e => if s.rowGen (h.toNat % 2 ^ 17) = h.toNat / 2 ^ 17 then some e else none
    | none => none
  match r with
  | .create h t =>
    let head := h.toNat % 2 ^ 17
    let g := h.toNat / 2 ^ 17
    if (s.overlapHeads head t.rows).any fun x => s.rowGen x.1 != g then none
    else some { head := head, rows := t.rows, op := .create (twinEntry t), writer := .twin, gen := some g }
  | .delete h => (held h).map fun e => { head := h.toNat % 2 ^ 17, rows := e.rows, op := .delete, writer := .twin }
  | .restrict h u l n => (held h).map fun e =>
    { head := h.toNat % 2 ^ 17, rows := e.rows, op := .restrict u l n, writer := .twin }

/-- `CLEAT_WR` : the record joins the pending writes and is acknowledged; a record that cannot be applied is acknowledged with
NAK, and PSTATE becomes RESYNC. -/
def execCleatWr (rec : MirrorRec) (seq : Word) (s : State) : Result :=
  if s.stay.lstate ≠ 3 || !s.paired then .next s
  else match s.twinWrite rec with
    | some w => .next { s.pushWrite w with stay := { s.stay with ackDue := true, settled := s.stay.settled ++ [w.head] } }
    | none =>
      let s := { s with stay := { s.stay with rxSeq := (max s.stay.rxSeq (seq.toNat + 1)) % 2 ^ 32 } }
      let s := s.sendFrame 9 [] true true
      .next (if s.stay.pstate = 1 then s.startResync else s)

/-- A table from its entries. -/
def tableOf (l : List (Nat × Nat)) : SMap Nat := l.foldl (fun m e => SMap.put 0 m e.1 e.2) []

/-- `CONFIG` : a mirrored command of the twin waits for the guard of frame m + 2; one that arrives after that tick is
discarded (R397). -/
def execConfig (m : Nat) (cmd : TwinCmd) (s : State) : Result :=
  if s.stay.lstate ≠ 3 || s.stay.pstate ≠ 1 then .next s
  else match s.tickOf m with
  | none => .next s
  | some t =>
    let c : CfgCmd := match cmd with
      | .part op p q res => .part op.val p.val q res
      | .commit o b => .commit (tableOf o) (tableOf b)
      | .exported p => .exported p.val
    .next { s with stay := { s.stay with cfg := s.stay.cfg ++ [{ atTick := t + 2, lower := !s.lowerTwin, cmd := c }] } }

/-- The rig that loads, or has loaded and waits for its guard. -/
def RigSt.coming (r : RigSt) : Option Rig := (r.loading <|> r.ready).map Prod.snd

/-- `RIG` : where both twins load the same rig, TAKE_FRAME is the latest of both proposals and of what the manager wrote
(R398). -/
def execRig (hash : List Byte) (take : Nat) (s : State) : Result :=
  if s.stay.lstate ≠ 3 || !s.paired then .next s
  else match s.rig.coming, s.stay.rigOwn with
    | some r, some t =>
      if r.hash = hash then
        let m := max (max t take) s.takeFrame
        let s := { s with stay := { s.stay with rigProposal := some (hash, m) } }
        .next ((s.setReg Reg.FRAME.TAKE_FRAME_LO m).setReg Reg.FRAME.TAKE_FRAME_HI (m / 2 ^ 32))
      else .next { s with stay := { s.stay with rigProposal := some (hash, take) } }
    | _, _ => .next { s with stay := { s.stay with rigProposal := some (hash, take) } }

/-- The rig hashes differ after one of the twins has taken a rig: SPLIT with SPLIT_RIG (R398). `own` tells that the
device's rig took effect at this guard. -/
def State.stayRigGuard (s : State) (own : Bool) : State :=
  let due := s.stay.rigProposal.any fun e => e.2 ≤ s.frame.no
  let hash := (s.stay.rigProposal.map Prod.fst).getD s.stay.twinRig
  let s := if due then { s with stay := { s.stay with twinRig := fitBytes 32 hash, rigProposal := none } } else s
  let s := if own then { s with stay := { s.stay with rigOwn := none } } else s
  if (due || own) && s.paired && s.stay.twinRig != s.rigHash then
    ({ s with stay := { s.stay with splitRig := true } }.setPstate 2).raise pgStay 6
  else s

/-- `CPL_REC` : a completion record of the twin enters the duplicate table; a full table gives up its oldest one, and a frozen
table takes none (R400). -/
def execCplRec (ring : Fin 4096) (part status : Fin 256) (seq frame : Word) (flags : Fin 8) (s : State) : Result :=
  if s.stay.lstate ≠ 3 || s.stay.frozen then .next s
  else
    let r : DupRec := {
      ring := ring.val, part := part.val, status := status.val, seq := seq.toNat, frame := frame.toNat, flags := flags.val,
      tick := s.frame.ticks }
    let d := s.stay.dup ++ [r]
    .next { s with stay := { s.stay with dup := d.drop (d.length - 262144) } }

/-- Records older than 1,024 frames leave a table that is not frozen (R400). -/
def State.dupAge (s : State) : State :=
  if s.stay.frozen then s
  else { s with stay := { s.stay with dup := s.stay.dup.filter fun d => decide (s.frame.ticks ≤ d.tick + 1024) } }

/-- `HEAD` : the twin's last head of a partition (R399). -/
def execHead (part : Fin 256) (headFrame : Nat) (h : List Byte) (s : State) : Result :=
  .next (if s.stay.lstate ≠ 3 then s
    else { s with stay := { s.stay with heads := SMap.put none s.stay.heads part.val (some (headFrame, fitBytes 32 h)) } })

/-! ### Resynchronisation (R403, R404) -/

/-- Generation `a` is newer than `b`, by 15-bit serial arithmetic over 1 to 0x7FFF. -/
def genNewer (a b : Nat) : Bool :=
  let d := (a + 0x7FFF - b % 0x7FFF) % 0x7FFF
  d ≠ 0 && decide (d < 0x4000)

/-- The twin's row settles a differing row, or the local row does (Table 12.5); a mirrored write made during the comparison has replaced
its outcome (R404). -/
def State.settleRow (s : State) (row gen : Nat) (t : Option TwinEntry) : State :=
  let g := s.rowGen row
  let del (x : Nat × Entry) : CleatWrite := { head := x.1, rows := x.2.rows, op := .delete, writer := .twin }
  let put (t : TwinEntry) : CleatWrite := { head := row, rows := t.rows, op := .create (twinEntry t), writer := .twin, gen := some gen }
  if s.stay.settled.contains row || s.writePending row then s
  else if genNewer gen g then
    match t with
    | some t => (((s.overlapHeads row t.rows).map del).foldl State.pushWrite s).pushWrite (put t)
    | none =>
      let rows := ((s.entry row).map Entry.rows).getD 1
      if (s.entry row).isNone && !(s.overlapHeads row 1).isEmpty then s
      else s.pushWrite { head := row, rows := rows, op := .delete, writer := .twin, gen := some gen }
  else if gen ≠ g then s
  else match s.entry row, t with
    | none, some t => s.pushWrite (put t)
    | some e, some t =>
      if e.alg = t.alg && e.klen = t.klen && e.material == t.material then
        if e.usage = t.usage && e.useLimit = t.useLimit && e.notAfter = t.notAfter then s
        else s.pushWrite {
          head := row, rows := e.rows, writer := .twin,
          op := .restrict (e.usage &&& t.usage) (narrow e.useLimit t.useLimit) (narrow e.notAfter t.notAfter) }
      else (s.pushWrite (del (row, e))).sat Reg.STAY.RESYNC_CONFLICT_CNT
    | _, none => s

/-- `RESYNC` : one logical row of the twin is compared; a row that differs is sent to it in full. -/
def execResync (row : Fin 131072) (gen : Fin 32768) (e : Option TwinEntry) (s : State) : Result :=
  if s.stay.lstate ≠ 3 || !s.paired then .next s
  else
    let s := if s.stay.pstate = 1 then s.startResync else s
    let s := { s with stay := { s.stay with rowsLeft := s.stay.rowsLeft - 1 } }
    let same := decide (s.rowGen row.val = gen.val) && (match s.entry row.val, e with
      | none, none => true
      | some x, some t => x == { twinEntry t with
          mirror := x.mirror, vaulted := x.vaulted, useCount := x.useCount, suspended := x.suspended,
          restoring := x.restoring, ckpt := x.ckpt, ckptPend := x.ckptPend }
      | _, _ => false)
    if same then .next s
    else
      let s := match s.entry row.val with
        | some x => s.sendMsg 10 ((List.range x.rows).flatMap fun i => x.rowImage row.val (s.rowGen row.val) 0 i)
        | none => s
      .next (s.settleRow row.val gen.val e)

/-- `RESYNC_DONE` : every entry reads MIRRORED and PSTATE becomes PAIRED (R404). -/
def execResyncDone (s : State) : Result :=
  if s.stay.pstate ≠ 4 then .next s
  else
    let s := { s with
      cleat := { s.cleat with ents := s.cleat.ents.map fun (x : Nat × Option Entry) => (x.1, x.2.map fun (e : Entry) => e.mirrored 1) },
      stay := { s.stay with rowsLeft := 0 } }
    .next ((s.setPstate 1).raise pgStay 7)

/-- `RETRAIN` : LINK_CMD 1 (R407). -/
def execRetrain (s : State) : Result :=
  .next (if s.stay.lstate ≠ 3 then s.refuse pgStay 0x82 else s.startRetrain)

/-- `RESYNC_CFG` : LINK_CMD 2; the twin's configuration is adopted at the next guard (R403). -/
def execResyncCfg (c : TwinConfig) (s : State) : Result :=
  if s.stay.lstate ≠ 3 then .next (s.refuse pgStay 0x82)
  else if s.stay.pstate ≠ 2 || !s.stay.splitCfg then .next (s.refuse pgStay 0x81)
  else if s.parts.tab.any fun (e : Nat × Part) => e.2.st != .quiesced && e.2.st != .none then .next (s.refuse pgStay 0x70)
  else .next { s with stay := { s.stay with twinCfg := some c } }

/-- One partition of the source is adopted. -/
def State.adoptPart (s : State) (e : Nat × Nat × Bool × List Nat) : State :=
  let (p, st, q, res) := e
  let s := if (s.part p).st == .none then s.createPart p q res else s
  let v := s.part p
  let w := Part.ofRes (PState.ofNum st) res
  s.setPart p { v with
    st := w.st, quiesce := q, pasid := w.pasid, ringQuota := w.ringQuota, cleatQuota := w.cleatQuota, opmBase := w.opmBase,
    opmSlotLen := w.opmSlotLen, opmSlots := w.opmSlots, vecBase := w.vecBase, vecCount := w.vecCount }

/-- The adoption at the guard: a partition absent from the source is destroyed, and the row comparison follows. Answers the
bound items whose binding is void. -/
def State.adoptGuard (s : State) : List Nat × State :=
  match s.stay.twinCfg with
  | none => ([], s)
  | some c =>
    let s := { s with stay := { s.stay with twinCfg := none } }
    let gone := (s.parts.tab.map Prod.fst).filter fun p => !(c.parts.any fun e => e.1 == p)
    let s := gone.foldl (fun s p => s.destroyPart p true) s
    let s := c.parts.foldl State.adoptPart s
    let (v, s) := s.putTables (tableOf c.owner) (tableOf c.binding)
    let s := { s with stay := { s.stay with splitCfg := false } }
    (v, if s.stay.pstate = 2 && !s.stay.splitRig then s.startResync else s)

/-! ### The duplicate table (R400) -/

/-- The table is cleared. -/
def State.clearDup (s : State) : State := { s with stay := { s.stay with dup := [], frozen := false } }

/-- `DUP_CLEAR` : LINK_CMD 3, accepted only in PSTATE LOST (R407). DEDUCED (notes/assumptions/80.md): LINK_NOT_UP, the answer of a
LINK_CMD with the link not up, is not given in LOST, where the link is down as a rule. -/
def execDupClear (s : State) : Result :=
  .next (if s.stay.pstate = 3 then s.clearDup else if s.stay.lstate ≠ 3 then s.refuse pgStay 0x82 else s)

/-- `DUP_HOLD_EXPIRY` : DUP_HOLD frames after the table was frozen. -/
def execDupHoldExpiry (s : State) : Result :=
  .next (if s.stay.frozen && s.stay.frozenTicks + s.reg Reg.STAY.DUP_HOLD ≤ s.frame.ticks then s.clearDup else s)

end Sys2Proof.Machine
end

