-- ==== Sys2Proof/Machine/WitnessMem.lean ====
section
/-!
DEFINITION. Witness memory (R517, R518, R537): its records, the record writer, the log head, and the arbiter.
-/
set_option autoImplicit false

namespace Sys2Proof.Machine

/-! ### Records (Table 17.4) -/

/-- Bytes of witness memory. -/
def State.witBytes (s : State) (off n : Nat) : List Byte := SMap.bytes s.witness.mem off n

/-- Write bytes of witness memory. -/
def State.witWrite (s : State) (off : Nat) (bs : List Byte) : State :=
  { s with witness := { s.witness with mem := SMap.putBytes s.witness.mem off bs } }

/-- Two's complement of a reading in 16 bits. -/
def signed16 (v : Int) : Nat := (v % 65536).toNat

/-- The 32 B of a record, with its CHECK folded with the CHECK of the record before it. -/
def WRec.bytes (r : WRec) (wseq prev : Nat) : List Byte :=
  let b (v : Nat) : Byte := BitVec.ofNat 8 v
  let t := leBytes 4 wseq ++ [b r.typ, b r.source, b r.resp, b r.flags] ++ leBytes 4 r.sec ++ leBytes 2 r.sub
    ++ leBytes 2 r.bootLo ++ fitBytes 8 r.detail ++ leBytes 2 r.vbat ++ leBytes 2 (signed16 r.temp)
  t ++ leBytes 4 (crc32c t prev)

/-- The slot of a record. -/
def recSlot (wseq : Nat) : Nat := wseq % 224

/-- WSEQ of a record slot; 0 in a slot that has never been written. -/
def State.slotSeq (s : State) (i : Nat) : Nat := leNat (s.witBytes (32 * i) 4)

/-- WSEQ that the last record queued will have: the queue is written in order. -/
def State.lastWseq (s : State) : Nat := s.witness.wseq + s.tamper.recs.length - 1

/-- `WITNESS_RECORD_WRITE` : the record writer writes the oldest record; it yields to an access of the field (R511, R537). -/
def execWitnessRecordWrite (s : State) : Result :=
  match s.tamper.recs with
  | [] => .next s
  | r :: rest =>
    if s.witness.arb then .next s
    else
      let w := s.witness.wseq
      let wraps := s.slotSeq (recSlot w) ≠ 0
      let bs := r.bytes w s.witness.check
      let s := s.witWrite (32 * recSlot w) bs
      let s := { s with
        witness := { s.witness with wseq := w + 1, check := leNat (cut bs 28 4), arb := true },
        tamper := { s.tamper with recs := rest } }
      let s := (s.setReg Reg.TAMPER.WIT_SEQ (w + 1)).setReg Reg.TAMPER.WIT_NEXT (recSlot (w + 1))
      .next (if wraps then (s.inc Reg.TAMPER.WIT_OVF).raise pgTamper 7 else s)

/-- The written record slots in ascending WSEQ. -/
def State.slotsInOrder (s : State) : List Nat :=
  (((List.range 224).map fun i => (s.slotSeq i, i)).filter fun e => e.1 != 0).mergeSort (fun a b => decide (a.1 ≤ b.1)) |>.map Prod.snd

/-- WITNESS_HEAD (R518). -/
def State.witnessHead (s : State) : List Byte :=
  sha3_256 (ascii "OXWITNESS" ++ (s.slotsInOrder.flatMap fun i => s.witBytes (32 * i) 32) ++ s.witBytes 0x1C00 0x400)

/-! ### The arbiter (R537) -/

/-- A wired access that loses the arbiter receives BUSY and waits for its first retry. -/
def State.wiredBusy (s : State) (a : Wired) : State :=
  { s with witness := { s.witness with wired := s.witness.wired ++ [(a, 0)] } }.sat Reg.WITNESS.BUSY_CNT

/-- The offset that a wired access names. -/
def Wired.off : Wired → Nat
  | .load o _ _ => o
  | .store o _ => o
  | .window o => o

/-- An access fails after its eighth retry. -/
def State.hostBusyFail (s : State) (off : Nat) : State :=
  ((s.inc Reg.WITNESS.HBF_CNT).setReg Reg.WITNESS.HBF_ADDR off).raise pgWitness 4

end Sys2Proof.Machine
end

