-- ==== Sys2Proof/Machine/Modes.lean ====
section
/-!
DEFINITION. Modes and mode changes (R472 to R477), firmware images and floors (R482 to R485), attestation (R486, R487), the
recovery window (R489).
-/
set_option autoImplicit false

namespace Sys2Proof.Machine

/-! ### Requests (R473, Table 16.2) -/

/-- A session of a purpose is open with its quorum met. -/
def State.quorumMet (s : State) (purpose : Nat) : Bool :=
  match s.cust.quorum with
  | some q => q.met && q.purpose == purpose
  | none => false

/-- The quorum that a request for TERMINATED needs: a TERMINATE session, or in CEREMONY the one that holds the ceremony. -/
def State.terminateMet (s : State) : Bool :=
  s.quorumMet 3 || (s.mode == .ceremony && match s.cust.quorum with
    | some q => q.met
    | none => false)

/-- Every partition is QUIESCED or NONE. -/
def State.allQuiesced (s : State) : Bool :=
  s.parts.tab.all fun (e : Nat × Part) => e.2.st == .quiesced || e.2.st == .none

/-- The identity seed and certificate are programmed (R469). -/
def State.identityDone (s : State) : Bool :=
  s.flash.idSeed || (s.sysRaw 0x18000 0x40 != List.replicate 64 0xFF && s.sysRaw 0x18040 4 != List.replicate 4 0xFF)

/-- The verdict on a request for a mode: an ERR_CODE, or none where the change starts. The change out of FACTORY is asked
for by the test floor in the same way (notes/assumptions/33.md). -/
def State.modeRefusal (s : State) (t : Mode) : Option Nat :=
  match s.mode, t with
  | .factory, .unclaimed => if s.identityDone then none else some 0xB0
  | .unclaimed, .ceremony => if s.quorumMet 1 then none else some 0xB1
  | .operational, .ceremony | .maintenance, .ceremony | .degraded, .ceremony => if s.quorumMet 2 then none else some 0xB1
  | .operational, .maintenance | .degraded, .maintenance => if s.allQuiesced then none else some 0x70
  | .maintenance, .operational => none
  | .degraded, .operational => if s.standing then some 0xB2 else none
  | .standby, .operational => if s.stay.pstate = 0 || s.stay.pstate = 3 then none else some 0xB0
  | .unclaimed, .terminated | .ceremony, .terminated | .operational, .terminated | .maintenance, .terminated
  | .degraded, .terminated | .standby, .terminated => if s.terminateMet then none else some 0xB1
  | _, _ => some 0xB0

/-- The ROM alone answers, or the option area is bad (R464, R481). -/
def State.held (s : State) : Bool := s.reg Reg.GLOBAL.BOOT_HOLD == 1 || s.reg Reg.GLOBAL.BOOT_HOLD == 2

/-- `MODE_REQ` (R473, R477). -/
def execModeReq (m : Fin 16) (s : State) : Result :=
  if !s.glob.booted || s.held then .next s
  else if s.glob.change.isSome then .next (s.refuse pgGlobal 0xB3)
  else match Mode.ofNum m with
    | none => .next (s.refuse pgGlobal 0x01)
    | some t => match s.modeRefusal t with
      | some c => .next (s.refuse pgGlobal c)
      | none =>
        let s := if t = .ceremony then
            { s with cust := { s.cust with quorum := s.cust.quorum.map fun q => { q with ceremony := true } } } else s
        .next (s.startChange t .manager true)

/-! ### Steps 1, 2 and 4 (Table 16.3) -/

/-- Change the running mode change. -/
def State.updChange (s : State) (f : Change → Change) : State :=
  { s with glob := { s.glob with change := s.glob.change.map f } }

/-- CLEAR_ALL, an F4 and entry to TERMINATED: no completion is written, and the host interface goes down (R25). -/
def Change.silent (c : Change) : Bool := c.cause == .clearAll || c.cause == .f4 || c.target == .terminated

/-- Every item leaves the in-flight table without a completion. -/
def State.dropItems (s : State) : State :=
  { s with adm := { s.adm with items := [] }, host := { s.host with held := [] } }

/-- Every item completes with INTERNAL_FAULT (R25); those that wait first. -/
def State.endAll (s : State) : State := (s.endWhere (fun i => i.place == .waiting) 0x14).endWhere (fun _ => true) 0x14

/-- ADMIT ENABLE is cleared; STATE is OFF once no admitted item is left (R66). -/
def State.admitOff (s : State) : State :=
  let h := s.hd pgAdmit
  (s.setHd pgAdmit { h with enable := false, st := if h.st = 0 then 0 else 3 }).checkOff

/-- The fields of the termination statement before its signature (Table 16.6, R487). -/
def State.termBody (s : State) : List Byte :=
  leBytes 4 0x4D54584F ++ leBytes 2 1 ++ leBytes 2 0 ++ leBytes 4 2644 ++ leBytes 4 0x10245910
    ++ [8, BitVec.ofNat 8 (s.reg Reg.GLOBAL.CLEAR_PENDING_RAN + 2 * s.reg Reg.GLOBAL.FW_FALLBACK_USED + 4 * s.reg Reg.GLOBAL.RIG_FALLBACK_USED), 0, 0]
    ++ leBytes 4 (s.reg Reg.GLOBAL.FW_VERSION) ++ leBytes 8 s.frame.no ++ ownFp
    ++ ((List.range 8).flatMap fun i => leBytes 4 (s.reg (Reg.NARIS.FW_HASH i)))
    ++ s.rigHash ++ (if s.flash.optState = 3 then List.replicate 32 0 else sha3_256 s.optBytes) ++ s.witnessHead

/-- Step 4: the root mask is zeroized, and the termination statement is signed and written; it is tried again while the rill
refuses its masks (R487, R514). -/
def State.terminate (s : State) : State :=
  let b := fitBytes 0xE0 s.termBody
  match s.deviceSign "OXTERM" (sha3_256 b) with
  | (none, s) => s
  | (some g, s) =>
    let s := (s.setRoot 0 3 none).closeVault
    { s with flash := { s.flash with termStmt := b ++ g } }.optChange fun o => { o with mode := 8, prevMode := s.mode.num }

/-- Where a change out of FACTORY takes 256 bits of wire rill 3 as the root mask; false where the rill refuses (R514). -/
def State.armRoot (s : State) (c : Change) : Bool × State :=
  if s.mode = .factory ∧ c.target = .unclaimed then
    match s.rillDraw (wireRill 3) with
    | (some k, s) => (true, s.setRoot 1 0 (some k))
    | (none, s) => (false, s)
  else (true, s)

/-- `MODE_CHANGE` : steps 1 and 2, and step 4 of an entry to TERMINATED (R475). -/
def execModeChange (s : State) : Result :=
  match s.glob.change with
  | none => .next s
  | some c =>
    if c.wiped then .next s
    else if c.begun then
      .next (if c.target = .terminated && s.flash.termStmt.isEmpty then s.terminate else s)
    else
      match s.armRoot c with
      | (false, s) => .next s
      | (true, s) =>
        let s := if s.stay.session then { s with stay := { s.stay with depart := true } } else s
        let s := if c.silent then { s.dropItems with host := { s.dropItems.host with linkUp := false } }
          else if c.orderly then s else s.endAll
        let s := s.admitOff.updChange fun c => { c with begun := true }
        .next (if c.target = .terminated then s.terminate else s)

/-! ### Steps 5 to 7 -/

/-- Every partition is lost, with its rings, ownership and bindings (R360), and a partition command with them. -/
def State.loseParts (s : State) : State :=
  let s := (List.range 16).foldl (fun s h => if (s.cvu h).isSome then s.endCvu h 4 0 else s) s
  let s := if s.parts.cmd.isSome then (s.setBit Reg.PART.BUSY false).setDetail pgPart 4 false else s
  { s with
    host := { s.host with rings := [] },
    adm := { s.adm with owner := [], ownerSh := [], binding := [], bindingSh := [], ownerIdle := [], bindingIdle := [], commit := false },
    parts := {}, stay := { s.stay with cfg := [] } }

/-- A fresh change of mode leaves no rig in effect; frames of 10 µs run until one takes effect (R33). DESIGN CHOICE
(notes/assumptions/69.md): the frame in which the wipe falls already has 10 µs. The microprograms go with the rig, and a link that trains waits for the next one (Table 1.3). -/
def State.unloadRig (s : State) : State :=
  let s := { s with rig := { s.rig with eff := none, ready := none, loading := none, due := false }, frame := { s.frame with len := 0 },
                      bne := { s.bne with micro := [] }, pu := { s.pu with micro := [] },
                      stay := { s.stay with lstate := if s.stay.lstate = 1 then 0 else s.stay.lstate } }
  s.setDetail pgFrame 4 false

/-- The vault key is computed and the store waits for its reload, where the mask is SET and the mode loads entries
(Table 16.1, R278, R282). -/
def State.openVault (s : State) (t : Mode) : State :=
  let s := ((s.setOn pgCleat false).setOn pgCleat1 false).setDetail pgCleat 4 true
  match s.tamper.rootState, s.tamper.rootMask with
  | 2, some m =>
    if t.parts || t == .ceremony then
      { s with cleat := { s.cleat with vaultKey := some (vaultKeyOf m) } }.setReg Reg.CLEAT0.VAULT_STATE 1
    else (s.setDetail pgCleat 4 false).setReg Reg.CLEAT0.VAULT_STATE 0
  | _, _ => (s.setDetail pgCleat 4 false).setReg Reg.CLEAT0.VAULT_STATE 0

/-- MODE, PREV_MODE and MODE_FRAME take their values (step 5). -/
def State.takeMode (s : State) (t : Mode) : State :=
  let s := { s with glob := { s.glob with prevMode := s.mode, mode := t } }
  (s.setReg Reg.GLOBAL.MODE_FRAME_LO s.frame.no).setReg Reg.GLOBAL.MODE_FRAME_HI (s.frame.no / 2 ^ 32)

/-- The wipe of a mode change: R24, the session with the twin, what the target mode does not keep. -/
def State.changeWipe (s : State) (t : Mode) : State :=
  let s := if s.stay.session then s.declareLost else s
  let s := if t.parts then s else s.loseParts
  let s := if t = .unclaimed || t = .terminated then s.artClear.dropStaged else s
  let s := if t = .terminated then s.closeQuorum else s
  let s := s.wipe.unloadRig
  { s with narisRam := [], glob := { s.glob with kemDk := none, katRun := false }, tamper := { s.tamper with clrVol := false, clrAll := false } }

/-- Entry actions of the new mode (step 7); ADMIT ENABLE follows with step 8. -/
def State.enterMode (s : State) (t : Mode) : State :=
  let s := s.openVault t
  let s := { s with rig := { s.rig with due := t.rigRuns } }
  let s := if t = .degraded then s.voidEntry else s
  if t = .operational then s.setOn pgPart true else s

/-- The steps before the wipe have ended: DEPART has been sent; an orderly change waits for ADMIT OFF and an idle vault, an entry to
TERMINATED for its statement and its option generation (Table 16.3). -/
def State.readyToWipe (s : State) (c : Change) : Bool :=
  c.begun && !c.wiped
    && (s.stay.lstate != 3 || s.stay.departed)
    && (!c.orderly || ((s.hd pgAdmit).st == 0 && s.cleat.pending.isEmpty && s.vaultIdle))
    && (c.target != .terminated || (!s.flash.termStmt.isEmpty && s.flash.optWrite.isNone && s.flash.opt.mode == 8))

/-- `MODE_CHANGE_WIPE` : steps 5 to 7 start (R475); step 8 follows once the rills, tests, reload and load have ended. -/
def execModeChangeWipe (s : State) : Result :=
  match s.glob.change with
  | none => .next s
  | some c =>
    if !s.readyToWipe c then .next s
    else
      let s := if c.silent then s.dropItems else s.endAll
      let s := ((s.changeWipe c.target).takeMode c.target).enterMode c.target
      .next (s.updChange fun c => { c with wiped := true }).changeEnd

/-! ### The recovery window (R489) -/

/-- `RECOVERY_WINDOW_END` : the window closes at its 64th tick. -/
def execRecoveryWindowEnd (s : State) : Result :=
  match s.glob.window with
  | some w => if w.left = 0 then .next ({ s with glob := { s.glob with window := none } }.setDetail pgFault 4 false) else .next s
  | none => .next s

/-! ### Firmware images (R482 to R484) -/

/-- What an image that passes R482 gives. -/
structure FwImage where
  version : Nat
  entry   : Nat
  hash    : List Byte
  xo      : List XoEnt
  deriving DecidableEq, Repr

/-- The checks of R482 on the image in a bank. -/
def State.fwCheck (s : State) (bank : Nat) : Option FwImage :=
  let base := bank * 0x800000
  if s.flash.shipped && bank == 0 then
    if Config.shippedVersion < s.flash.opt.fwFloor then none
    else some { version := Config.shippedVersion, entry := Config.shippedEntry, hash := fitBytes 32 Config.shippedHash, xo := [] }
  else
    let h := s.rangeBytes base 0x100
    let len := fld h 8 4
    let bad := fld h 0 4 ≠ 0x5746584F || fld h 4 2 ≠ 1 || fld h 6 2 ≠ 0x100 || 0x400000 < len || len < 0x100 + 2420
      || fld h 0xC 2 ≠ 0x1024 || fld h 0xE 1 ≠ 1 || fld h 0x10 4 < s.flash.opt.fwFloor
    if bad then none
    else
      let img := s.rangeBytes base (ceilDiv len 16 * 16)
      let d := sha3_256 (img.take (len - 2420))
      if mldsaVerify Config.firmwareKey "OXFW" d (cut img (len - 2420) 2420) then
        some {
          version := fld h 0x10 4, entry := fld h 0x14 4, hash := d,
          xo := (List.range (min 16 (fld h 0xF 1))).map fun i =>
            { start := base + fld h (0x40 + 8 * i) 4, stop := base + fld h (0x44 + 8 * i) 4 : XoEnt } }
      else none

/-- `FW_STAGE` : STAGE of FW_CMD (R483). -/
def execFwStage (src : Fin 2) (s : State) : Result :=
  if s.bit Reg.NARIS.FW_BUSY then .next (s.refuse pgNaris 0xB5)
  else if s.mode ≠ .maintenance then .next (s.refuse pgNaris 0x18)
  else if src.val = s.reg Reg.NARIS.RUN_BANK then .next (s.refuse pgNaris 0x01)
  else
    let s := s.setReg Reg.NARIS.STAGE_SRC src
    match s.fwCheck src with
    | some f =>
      let s := { s with glob := { s.glob with fwXo := f.xo } }
      .next (((s.setReg Reg.NARIS.FW_STAGE 2).setReg Reg.NARIS.STAGE_VERSION f.version).raise pgNaris 1)
    | none => .next (((s.setReg Reg.NARIS.FW_STAGE 3).setReg Reg.NARIS.STAGE_VERSION 0).raise pgNaris 1)

/-- `FW_ACTIVATE` : ACTIVATE of FW_CMD; it ends with the read-back of its option generation (R483). -/
def execFwActivate (_src : Fin 2) (s : State) : Result :=
  if s.bit Reg.NARIS.FW_BUSY then .next (s.refuse pgNaris 0xB5)
  else if s.mode ≠ .maintenance then .next (s.refuse pgNaris 0x18)
  else if s.reg Reg.NARIS.FW_STAGE ≠ 2 then .next (s.refuse pgNaris 0x19)
  else
    let bank := s.reg Reg.NARIS.STAGE_SRC
    .next ((s.optChange fun o => { o with fwActive := bank, fwFallback := true, xo := s.glob.fwXo }).setBit Reg.NARIS.FW_BUSY true)

/-- `CONFIRM` : CONFIRM of FW_CMD (R483). -/
def execConfirm (s : State) : Result :=
  if s.bit Reg.NARIS.FW_BUSY then .next (s.refuse pgNaris 0xB5)
  else .next ((s.optChange fun o => { o with fwFallback := false }).setBit Reg.NARIS.FW_BUSY true)

/-! ### Floors (R485) -/

/-- Floors are raised in MAINTENANCE and OPERATIONAL alone. -/
def State.floorMode (s : State) : Bool := s.mode == .maintenance || s.mode == .operational

/-- A floor changes; DONE follows the read-back of the generation. -/
def State.raiseFloor (s : State) (f : OptArea → OptArea) : State :=
  let s := s.optChange f
  { s with glob := { s.glob with floorPend := true } }

/-- `RAISE_FW` : FW_FLOOR becomes the version of the running image, and is never lowered. -/
def execRaiseFw (s : State) : Result :=
  if !s.floorMode then .next (s.refuse pgGlobal 0xB4)
  else
    let v := s.reg Reg.GLOBAL.FW_VERSION
    .next (s.raiseFloor fun o => { o with fwFloor := max o.fwFloor v })

/-- RIG_VERSION in the header of a rig slot. -/
def State.slotVersion (s : State) (src : Nat) : Nat := fld (s.sectorRead src 1024) 0x18 4

/-- `RAISE_RIG` : RIG_FLOOR becomes the version of the rig in effect; a fallback below it is given up. -/
def execRaiseRig (s : State) : Result :=
  if !s.floorMode then .next (s.refuse pgGlobal 0xB4)
  else
    let v := (s.rig.eff.map Rig.version).getD 0
    .next (s.raiseFloor fun o =>
      let fl := max o.rigFloor v
      { o with rigFloor := fl, rigFallback := if o.rigFallback < 2 && s.slotVersion o.rigFallback < fl then 0xFF else o.rigFallback })

/-! ### Attestation (R486, R487) -/

/-- The statement of Table 16.6 before its signature; `ek` with KEM_EXT. -/
def State.attBody (s : State) (ek : List Byte) : List Byte :=
  let rom := s.romRecovery
  let ver := if rom then 0 else s.reg Reg.GLOBAL.FW_VERSION
  let hash := if rom then List.replicate 32 0 else (List.range 8).flatMap fun i => leBytes 4 (s.reg (Reg.NARIS.FW_HASH i))
  leBytes 4 0x5441584F ++ leBytes 2 1 ++ leBytes 2 ((if ek.isEmpty then 0 else 1) + (if rom then 2 else 0))
    ++ leBytes 4 (0x100 + ek.length + 2420) ++ leBytes 4 0x10245910
    ++ [BitVec.ofNat 8 s.mode.num, BitVec.ofNat 8 (s.reg Reg.GLOBAL.CLEAR_PENDING_RAN + 2 * s.reg Reg.GLOBAL.FW_FALLBACK_USED
      + 4 * s.reg Reg.GLOBAL.RIG_FALLBACK_USED), 0, 0]
    ++ leBytes 4 ver ++ leBytes 8 s.frame.no ++ ownFp ++ hash ++ s.rigHash
    ++ (if s.flash.optState = 3 then List.replicate 32 0 else sha3_256 s.optBytes) ++ s.witnessHead
    ++ ((List.range 8).flatMap fun i => leBytes 4 (s.reg (Reg.NARIS.ATT_NONCE i))) ++ List.replicate 32 0 ++ ek

/-- A statement is ready in ATT_WIN. -/
def State.attReady (s : State) (bs : List Byte) : State :=
  let s := { s with glob := { s.glob with stmt := bs } }
  ((s.setReg Reg.NARIS.ATT_LEN bs.length).setBit Reg.NARIS.ATT_DONE true).raise pgNaris 0

/-- Sign a statement; a signature that cannot be made writes nothing. -/
def State.attSign (s : State) (body : List Byte) (dk : Option (List Byte)) : State :=
  match s.deviceSign "OXATT" (sha3_256 body) with
  | (none, s) => s
  | (some g, s) =>
    let s := match dk with
      | some k => { s with glob := { s.glob with kemDk := some k } }
      | none => s
    s.attReady (body ++ g)

/-- `ATTEST` : ATT_CMD with GO (R486, R487). -/
def execAttest (kemExt term : Bool) (s : State) : Result :=
  let s := s.setBit Reg.NARIS.ATT_DONE false
  if term then .next (s.attReady s.flash.termStmt)
  else if kemExt then
    match s.rillDraw (wireRill 3) with
    | (none, s) => .next (s.refuse pgNaris 0xB6)
    | (some k, s) =>
      let dz := randBytes k 64
      .next (s.attSign (s.attBody (mlkemEk dz)) (some dz))
  else .next (s.attSign (s.attBody []) none)

end Sys2Proof.Machine
end

