-- ==== Sys2Proof/Machine/Boot.lean ====
section
/-!
DEFINITION. Power, resets and boot (R15 to R18, R23, R33, R460 to R464, R478 to R481, R553 to R560), the die link, and the
start of the Spring (R418, R419).
-/
set_option autoImplicit false

namespace Sys2Proof.Machine

/-! ### Full resets (R478, R560) -/

/-- A program that a reset cuts: of the units that it would have programmed, some hold the new contents; the next one holds
its old contents, its new contents or an ECC failure (R462). -/
def State.cutProgram (s : State) (o : FlashOp) : State :=
  let (k, s) := s.draw
  let units := o.data.length / 16
  let n := Config.freeNat k % (units + 1)
  let s := s.programRange o.addr (o.data.take (16 * n))
  let (k, s) := s.draw
  if n < units && Config.freeNat k % 3 = 1 then s.programRange (o.addr + 16 * n) (cut o.data (16 * n) 16)
  else if n < units && Config.freeNat k % 3 = 2 then s.deadUnit (o.addr + 16 * n)
  else s

/-- The flash across a reset: an erase that ran leaves its sector INCOMPLETE, a program leaves what R462 gives, and what
had not begun, or was to be written later, is lost (R461, R462, R560). -/
def State.cutFlash (s : State) : State :=
  let s := match s.flash.op with
    | some o => if o.started && o.op = 2 then s.cutProgram o else s
    | none => s
  { s with flash := { s.flash with ready := false, op := none, waits := [], optWrite := none, optState := 0, opt := {}, remap := [] } }

/-- The fields of a page that stays as it is across full resets. -/
def inTamperPage (k : Nat) : Bool := decide (0x17000 * 32 ≤ k) && decide (k < 0x18000 * 32)

/-- A full reset: the always-on domain, witness memory and its port, and the flash keep what they hold; everything else
takes its reset value (R478, R479, R519, R560). -/
def State.fullReset (s : State) (cause : Nat) : State :=
  let s := s.cutFlash
  let lock := s.reg Reg.NARIS.LOCKSTEP_CNT
  let hdr := SMap.put {} State.reset.hdr pgTamper (s.hd pgTamper)
  let t : State := {
    hdr := hdr, pools := resetPools, rf := SMap.keep inTamperPage s.rf,
    frame := { hwm := s.frame.hwm }, flash := s.flash, tamper := { s.tamper with clrVol := false, clrAll := false },
    witness := { s.witness with wired := [], scan := none },
    stay := { everPaired := s.stay.everPaired }, glob := { bootCnt := s.glob.bootCnt }, pins := s.pins,
    outbound := s.outbound, free := s.free, pending := s.pending }
  (t.setReg Reg.GLOBAL.RESET_CAUSE cause).setReg Reg.NARIS.LOCKSTEP_CNT lock

/-- Boot step 1: the die link is keyed from the fused link secret, the boot counter and a fresh nonce; the frame timer
starts (R16, R33). DESIGN CHOICE (notes/assumptions/71.md): the hash takes the secret, the counter as 8 bytes, least significant
first, and the nonce, in this order. The manager's view of the frame and CVU pages opens with it. -/
def State.bootStep1 (s : State) : State :=
  let (k, s) := s.draw
  let key := sha3_256 (Config.linkSecret ++ leBytes 8 s.glob.bootCnt ++ randBytes k 16)
  let s := { s with glob := { s.glob with dieKey := key, dieSeqUp := 0, dieSeqDown := 0, dieRekeyed := false, dieBuf := [] }, frame := { s.frame with running := true } }
  ((s.setOn pgFrame true).setOn pgCvu true).setReg Reg.GLOBAL.BOOT_STAGE 1

/-- `RESET` : a write of any other value is ignored (R478). -/
def execReset (v : Word) (s : State) : Result :=
  if v = 0x52535445 ∧ !s.pins.perst then .next (s.fullReset 2).bootStep1 else .next s

/-- `LOCKSTEP_MISMATCH` : F3, and a full reset that boots to DEGRADED (R479). -/
def execLockstepMismatch (s : State) : Result :=
  if s.reg Reg.GLOBAL.BOOT_STAGE = 0 then .next s
  else
    let s := s.fault 3 srcLockstep
    .next ((s.fullReset 3).inc Reg.NARIS.LOCKSTEP_CNT).bootStep1

/-- A pulse of 100 ns to 1 µs: its outcome is not defined (R557), so whether it is taken as an assertion is free. -/
def State.shortPulse (s : State) (ns : Nat) : Bool × State :=
  if ns < 100 then (false, s)
  else if 1000 ≤ ns then (true, s)
  else
    let (k, s) := s.draw
    (Config.freeNat k % 2 == 1, s)

/-- `PERST_N_ASSERT` (R557, R560). -/
def execPerstNAssert (ns : Nat) (s : State) : Result :=
  match s.shortPulse ns with
  | (false, s) => .next s
  | (true, s) => .next { s.fullReset 1 with pins := { s.pins with perst := true } }

/-- `PERST_N_RELEASE` (R558): boot starts, with every rail up and the always-on domain running. -/
def execPerstNRelease (s : State) : Result :=
  if !s.pins.perst || !s.pins.rails then .next s
  else .next { s with pins := { s.pins with perst := false } }.bootStep1

/-- `POWER_ON` : the rails have risen in the order of Table 19.4, with PERST_N asserted; the boot counter increments
(R16, R553, R554). LOCKSTEP_CNT does not survive power-on (R479). -/
def execPowerOn (s : State) : Result :=
  let s := { s with glob := { s.glob with bootCnt := s.glob.bootCnt + 1 }, tamper := { s.tamper with mainPower := true } }
  .next { (s.fullReset 0).setReg Reg.NARIS.LOCKSTEP_CNT 0 with pins := {} }

/-- The compute die loses its supply: it holds nothing, and PERST_N is asserted before the rails rise again. -/
def State.dark (s : State) : State :=
  { s.fullReset (s.reg Reg.GLOBAL.RESET_CAUSE) with pins := { rails := false, perst := true } }

/-- `POWER_DOWN` (R553, R555). -/
def execPowerDown (s : State) : Result := .next s.dark

/-- `MAIN_POWER_LOSS` : the domain runs from VBAT. Where it cuts a CLEAR_VOLATILE response short, the domain sets both
pending flags (R499, R512, R555). -/
def execMainPowerLoss (s : State) : Result :=
  if !s.tamper.mainPower then .next s
  else
    let short : Bool := match s.glob.change with
      | some c => c.cause == .clearVolatile
      | none => false
    let t := s.tamper
    let t := if short then { t with alertPending := true, clearPending := true, alertSeq := t.respSeq, clearSeq := t.respSeq } else t
    .next { s with tamper := { t with mainPower := false } }.dark

/-- ALERT_N is low while INT_STAT.ALERT is 1; a change is sent out. -/
def State.raiseAlert (s : State) : State :=
  let was := bitOf (s.hd pgTamper).intStat 1
  let s := s.raise pgTamper 1
  if was || !s.tamper.mainPower then s else s.emit (.pin "ALERT_N" false)

/-- `MAIN_POWER_RETURN` : a pending alert is delivered before PERST_N is released (R512). -/
def execMainPowerReturn (s : State) : Result :=
  if s.tamper.mainPower then .next s
  else
    let s := { s with tamper := { s.tamper with mainPower := true } }
    if s.tamper.alertPending then
      .next ({ s with tamper := { s.tamper with alertPending := false } }.raiseAlert.raise pgTamper 2)
    else .next s

/-- The highest WSEQ in witness memory, and the CHECK of its record. -/
def State.lastRec (s : State) : Nat × Nat :=
  match s.slotsInOrder.getLast? with
  | some i => (s.slotSeq i, leNat (s.witBytes (32 * i + 28) 4))
  | none => (0, 0)

/-- `DOMAIN_COLD_START` (R501): it happens as main power first appears, so with PERST_N asserted (R554). -/
def execDomainColdStart (s : State) : Result :=
  if !s.pins.perst then .next s
  else
    let was := s.tamper.rootState
    let (w, c) := s.lastRec
    let s := { s with
      tamper := { rootState := 0, rootMask := none, mainPower := s.tamper.mainPower, xtalOn := false, eraseBanks := s.tamper.eraseBanks,
                  vbat := s.tamper.vbat, vhold := s.tamper.vhold, tempSd := s.tamper.tempSd, tempCd := s.tamper.tempCd },
      witness := { s.witness with wseq := w + 1, check := c, arb := false },
      frame := { s.frame with hwm := 0 }, glob := { s.glob with bootCnt := 0 },
      rf := SMap.keep (fun k => !inTamperPage k) s.rf }
    let s := (s.setHd pgTamper { enable := true, st := 2 }).setReg Reg.TAMPER.WIT_SEQ (w + 1)
    let s := (s.setReg Reg.TAMPER.WIT_NEXT (recSlot (w + 1))).setReg Reg.GLOBAL.RESET_CAUSE 0
    let s := s.setReg Reg.NARIS.LOCKSTEP_CNT 0
    let s := if was = 0 then s else s.witness0 0x06 [0, 4]
    .next (s.witness0 0x09 [])

/-! ### The die link (R16, R17) -/

/-- `DIE_LINK_REKEY` : once SEED_READY has first been set, from wire rill 3; a refused draw leaves the boot key (R16, R487). -/
def execDieLinkRekey (s : State) : Result :=
  if !s.spring.seedReady || s.glob.dieRekeyed then .next s
  else match s.rillDraw (wireRill 3) with
    | (none, s) => .next s
    | (some k, s) => .next { s with glob := { s.glob with dieKey := randBytes k 32, dieRekeyed := true } }

/-- AES-256 in counter mode, as the core at each end applies it (R15). DESIGN CHOICE (notes/assumptions/71.md): the counter block
holds the sequence number, the direction and the number of the block in the transfer. -/
def dieCrypt (key : List Byte) (up : Bool) (seq : Nat) (text : List Byte) : List Byte :=
  let block (i : Nat) : List Byte := aesEnc key (leBytes 4 seq ++ [if up then 1 else 0] ++ List.replicate 7 0 ++ beBytes 4 i)
  xorBytes text ((List.range (ceilDiv text.length 16)).flatMap block)

/-- The key under which a sender's buffer holds a transfer. -/
def dieBufKey (up : Bool) (seq : Nat) : Nat := 2 * seq + (if up then 1 else 0)

/-- What leaves a die for a transfer: its bytes and their CRC-32C with the sequence number folded in, enciphered (R15, R17). -/
def State.dieWire (s : State) (up : Bool) (seq : Nat) (data : List Byte) : List Byte :=
  dieCrypt s.glob.dieKey up seq (data ++ leBytes 4 (crc32c data seq))

/-- The far end deciphers what arrives and compares the CRC: the bytes, where they match. -/
def State.dieReceive (s : State) (up : Bool) (seq : Nat) (wire : List Byte) : Option (List Byte) :=
  let text := dieCrypt s.glob.dieKey up seq wire
  let n := text.length - 4
  if crc32c (text.take n) seq = leNat (text.drop n) then some (text.take n) else none

/-- A transfer is accepted: its bytes are delivered, its number is the last of its direction. -/
def State.dieAccept (s : State) (up : Bool) (seq : Nat) (bs : List Byte) : State :=
  let g := s.glob
  { s with glob := { g with
      dieSeqUp := if up then seq else g.dieSeqUp, dieSeqDown := if up then g.dieSeqDown else seq, dieIn := bs,
      dieBuf := SMap.put none g.dieBuf (dieBufKey up seq) none } }

/-- `DIE_LINK_TRANSFER` : a mismatch is F0 and the sender sends the transfer again from its buffer; where the resend mismatches
as well, F3 (R17). A transfer that the buffer holds is sent from there. -/
def execDieLinkTransfer (x : DieTransfer) (err : List Byte) (s : State) : Result :=
  if !s.frame.running then .next s
  else
    let up := x.up
    let q := x.seq.toNat
    let held := SMap.get none s.glob.dieBuf (dieBufKey up q)
    let data := held.getD x.data
    let wire := s.dieWire up q data
    let wire := xorBytes wire (fitBytes wire.length err)
    let s := s.emit (.dieLink up q wire)
    match s.dieReceive up q wire with
    | some bs => .next (s.dieAccept up q bs)
    | none =>
      let s := s.inc (Reg.CVU.FIX_MM 4)
      if held.isSome then
        .next ({ s with glob := { s.glob with dieBuf := SMap.put none s.glob.dieBuf (dieBufKey up q) none } }.fault 3 srcDie)
      else
        .next (({ s with glob := { s.glob with dieBuf := SMap.put none s.glob.dieBuf (dieBufKey up q) (some data) } }.fault 0 srcDie).emit
          (.dieResend q))

/-! ### Boot steps 2 to 6 (Table 16.4) -/

/-- The image that the ROM starts: FW_ACTIVE, or the other one where FW_FALLBACK is 1 and the first fails or the last reset was a
lockstep mismatch (R484). Answers the bank, the image and whether it is the other one. -/
def State.fwChoice (s : State) : Option (Nat × FwImage × Bool) :=
  let a := s.flash.opt.fwActive % 2
  let b := 1 - a
  let first := (s.fwCheck a).map fun f => (a, f, false)
  let other := (s.fwCheck b).map fun f => (b, f, true)
  if !s.flash.opt.fwFallback then first
  else if s.reg Reg.GLOBAL.RESET_CAUSE = 3 then (match other with
    | some x => some x
    | none => first)
  else (match first with
    | some x => some x
    | none => other)

/-- Naris leaves the ROM for the entry of an image. -/
def State.startFirmware (s : State) (bank : Nat) (f : FwImage) (other : Bool) : State :=
  let s := (s.setReg Reg.NARIS.RUN_BANK bank).setReg Reg.NARIS.NSTATE 1
  let s := (s.setReg Reg.GLOBAL.FW_VERSION f.version).setBit Reg.GLOBAL.FW_FALLBACK_USED other
  let s := (List.range 8).foldl (fun s i => s.setReg (Reg.NARIS.FW_HASH i) (leNat (cut f.hash (4 * i) 4))) s
  let pc := BitVec.ofNat 32 (0x01000000 + bank * 0x800000 + f.entry)
  { s with naris := { s.naris with cpu := { s.naris.cpu with pc := pc } } }.setDetail pgFlash 5 (bank == 1)

/-- Step 5: a pending clear runs its wipe, and the records of R512 are written. -/
def State.clearPendingStep (s : State) : State :=
  let t := s.tamper
  let s := if t.clearPending then
      let s := { s.wipe with tamper := { t with clearPending := false, clearSeq := 0 } }
      (s.setBit Reg.GLOBAL.CLEAR_PENDING_RAN true).witness0 0x04 (leBytes 4 t.clearSeq)
    else s
  if t.alertSeq ≠ 0 && !t.alertPending then
    { s with tamper := { s.tamper with alertSeq := 0 } }.witness0 0x05 (leBytes 4 t.alertSeq)
  else s

/-- The boot target as steps 3 to 5 know it (R480). -/
def State.bootMode (s : State) : Mode :=
  let opt := (Mode.ofNum s.flash.opt.mode).getD .unclaimed
  let prev := (Mode.ofNum s.flash.opt.prevMode).getD .unclaimed
  if opt = .factory || opt = .terminated then opt
  else if s.tamper.rootState = 0 then .unclaimed
  else if s.bit Reg.GLOBAL.CLEAR_PENDING_RAN || s.reg Reg.GLOBAL.RESET_CAUSE = 3 then .degraded
  else if opt = .ceremony then (if s.tamper.rootState = 2 then prev else .unclaimed)
  else opt

/-- Steps 3 to 5: mode, row retirement table, clear pending. -/
def State.takeOptions (s : State) : State :=
  let o := s.flash.opt
  let s := s.loadRet.clearPendingStep
  let s := (s.setReg Reg.GLOBAL.MODE_FRAME_LO o.modeFrame).setReg Reg.GLOBAL.MODE_FRAME_HI (o.modeFrame / 2 ^ 32)
  let m := s.bootMode
  let was := (Mode.ofNum (if m.num = o.mode then o.prevMode else o.mode)).getD .unclaimed
  { s with glob := { s.glob with mode := m, prevMode := was } }.setReg Reg.GLOBAL.BOOT_STAGE 5

/-- `FLASH_CONTROLLER_READY` : the journal has been scanned and the option copies loaded (R460, R463); the ROM verifies the
firmware (R482, R484), Naris runs steps 3 to 5, builds the spare maps and starts the Spring. Where both option copies are
bad, or no image verifies, the ROM stays in control (R464, R481). -/
def execFlashControllerReady (s : State) : Result :=
  if s.flash.ready || s.reg Reg.GLOBAL.BOOT_STAGE ≠ 1 then .next s
  else
    let s := { s with flash := { s.flash with ready := true } }.setOn pgFlash true
    let s := s.showIncomplete
    let s := if s.incompleteList.isEmpty then s else s.raise pgFlash 3
    let s := s.optTakeUp.optionLoad
    if s.flash.optState = 3 then .next (s.setReg Reg.GLOBAL.BOOT_HOLD 2).buildMaps.springStart
    else match s.fwChoice with
      | none => .next (s.setReg Reg.GLOBAL.BOOT_HOLD 1).buildMaps.springStart
      | some (bank, f, other) => .next (s.startFirmware bank f other).takeOptions.buildMaps.springStart

/-! ### The Spring and the tests (R418, R419, R179, R222, R246) -/

/-- `SPRING_START_RETRY` : the startup test ends with these cells passing, at the first start or at one of those that repeat
every 1 s; fewer than eight are a failed start: HEALTH_FAIL and F3 (R418, R481). -/
def execSpringStartRetry (pass : BitVec 10) (s : State) : Result :=
  if !s.spring.started || s.spring.startupDone then .next s
  else
    let good := (List.range 10).filter fun c => pass.getLsbD c && !(s.cell c).retired
    if 8 ≤ good.length then
      let s := s.springFeed fun c => pass.getLsbD c
      let failed := s.spring.healthFail
      let s := { s with spring := { s.spring with startupDone := true, healthFail := false, hfTicks := 0 } }.setDetail pgSpring 4 false
      .next (if failed then s.raise pgSpring 4 else s)
    else
      if s.spring.healthFail then .next s
      else
        let s := s.healthFail.fault 3 srcSpring
        .next (if s.held || s.glob.booted then s else s.setReg Reg.GLOBAL.BOOT_HOLD 3)

/-- At boot the privacy generator of the witness port is reseeded from wire rill 3 (R534), and every loop in PRBS mode takes a new
seed of it; one whose draw is refused keeps its sequence (R505). -/
def State.reseedLoops (s : State) : State :=
  let (_, s) := s.rillDraw (wireRill 3)
  (List.range 16).foldl (fun s n =>
    if !(s.policyOf (8 + n)).lmode then s
    else match s.rillDraw (wireRill 3) with
      | (some k, s) =>
        let v := leNat (randBytes k 4) % 2 ^ 31
        { s with tamper := { s.tamper with loops := SMap.upd {} s.tamper.loops n fun (l : LoopSt) => { l with lfsr := if v = 0 then 1 else v } } }
      | (none, s) => s) s

/-- The vault key of the mode, and the rig load where the mode runs one: boot step 7 on (Table 16.4). -/
def State.bootStep7 (s : State) : State :=
  let s := s.openVault s.mode
  { s with rig := { s.rig with due := s.mode.rigRuns } }.bootStage 7

/-- `SEED_READY` : the wire rills are instantiated and checked; what waited for them goes on (R418, R419). At the first one of a
boot all ten cells have passed their startup test where none was reported failing. -/
def execSeedReady (s : State) : Result :=
  if !s.spring.started || s.spring.seedReady || s.spring.healthFail || s.spring.testpat then .next s
  else
    let s := if s.spring.startupDone then s
      else { s.springFeed (fun _ => true) with spring := { (s.springFeed (fun _ => true)).spring with startupDone := true } }
    if s.feeding.length < 8 then .next s
    else
      let first := !s.spring.seedReadyEver
      let s := (List.range 4).foldl (fun s w => s.seedRill (wireRill w)) s
      let s := { s with spring := { s.spring with seedReady := true, seedReadyEver := true, queue := s.livingParts } }
      let s := (s.updHd pgSpring fun h => { h with st := 2 }).raise pgSpring 5
      let (k, s) := s.draw
      let s := s.setReg Reg.SPRING.STARTUP_US (Config.freeNat k % 2 ^ 16)
      let s := if s.glob.katRun then s else [pgCipher, pgHash, pgBne, pgPu].foldl (fun s k => s.setDetail k 4 true) s
      let s := if first then s.reseedLoops else s
      if s.held then .next s
      else if !s.glob.booted then .next (s.bootStage 6).bootStep7
      else if first then .next s.bootStep7
      else .next s

/-- `YARD_RILL_INSTANTIATE` : yard rills 0 to 63 in ascending order after SEED_READY and the partition rills (R418, R419). -/
def execYardRillInstantiate (y : Fin 64) (s : State) : Result :=
  let before := (List.range y.val).all fun i => (s.rill (yardRill i)).seeded
  if !s.spring.seedReady || s.spring.healthFail || !before || (s.rill (yardRill y)).seeded then .next s
  else .next (s.seedRill (yardRill y))

/-- A unit that fails its known-answer test shows in the register of its page and is retired (R179, R222, R246). -/
def State.katFail (s : State) (kind u : Nat) : State :=
  let mark (s : State) (F : Field) (b : Nat) : State := s.setReg F (orBit (s.reg F) b)
  if kind = 0 && u < 34 then
    let s := (if u < 32 then mark s Reg.CIPHER.KAT_FAIL_LO u else mark s Reg.CIPHER.KAT_FAIL_HI (u - 32)).raise pgCipher 1
    s.retirePool 0 u srcKat
  else if kind = 1 && u < 68 then ((mark s (Reg.HASH.KECCAK_KAT_FAIL (u / 32)) (u % 32)).raise pgHash 1).retirePool 1 u srcKat
  else if kind = 2 && u < 34 then
    let s := (if u < 32 then mark s Reg.HASH.SHA2_KAT_FAIL_LO u else mark s Reg.HASH.SHA2_KAT_FAIL_HI (u - 32)).raise pgHash 1
    s.retirePool 2 u srcKat
  else if kind = 3 && u < 34 then
    let s := (if u < 32 then mark s Reg.BNE.KAT_FAIL_LO u else mark s Reg.BNE.KAT_FAIL_HI (u - 32)).raise pgBne 2
    s.retirePool 3 u srcKat
  else if kind = 4 && u < 16 then ((mark s Reg.PU.KAT_FAIL u).raise pgPu 1).retireCluster u srcKat
  else s

/-- `BOOT_KNOWN_ANSWER_TESTS` : the tests end; each page comes ON (R179, R222, R246). After a mode change they run as at boot. -/
def execBootKnownAnswerTests (failed : List (Fin 16 × Fin 128)) (s : State) : Result :=
  if !s.spring.seedReady || s.glob.katRun then .next s
  else
    let s := failed.foldl (fun s e => s.katFail e.1 e.2) s
    let s := [pgCipher, pgHash, pgBne, pgPu].foldl (fun s k => (s.setOn k true).setDetail k 4 false) s
    .next { s with glob := { s.glob with katRun := true } }.changeEnd

/-! ### Boot step 11 -/

/-- STANDBY is decided by the pair (R393): a device that paired takes the standby role of an ACTIVE-STANDBY pair where the twin is
OPERATIONAL or the device is so configured. A standby that finishes boot unpaired becomes OPERATIONAL with PROMOTE_AUTO, STANDBY
without it; a device configured as the standby of an ACTIVE-STANDBY pair is one (notes/assumptions/43.md). -/
def State.roleMode (s : State) (m : Mode) : Mode :=
  if m ≠ .operational && m ≠ .standby then m
  else if s.stay.session then
    (match s.stayId with
    | some i => if i.pairMode = 2 && (s.stay.twinOp || i.roleCfg = 1) then .standby else .operational
    | none => .operational)
  else if m = .standby || (s.stayId.any fun i => i.pairMode == 2 && i.roleCfg == 1) then
    (if s.bit Reg.STAY.PROMOTE_AUTO then .operational else .standby)
  else m

/-- The mode that boot ends in (R480, R481). -/
def State.bootEnd (s : State) : Mode :=
  let m := s.mode
  if m = .factory || m = .terminated then m
  else if s.tamper.rootState = 0 then .unclaimed
  else if s.reg Reg.GLOBAL.BOOT_HOLD = 4 then m
  else if s.standing || s.glob.bootTarget = some .degraded || s.reg Reg.GLOBAL.BOOT_HOLD = 3 then .degraded
  else s.roleMode m

/-- The steps before step 11 have ended. -/
def State.bootReady (s : State) : Bool :=
  s.flash.ready && (s.held || s.reg Reg.GLOBAL.BOOT_HOLD == 3
    || (s.spring.seedReady && s.glob.katRun && s.reg Reg.CLEAT0.VAULT_STATE != 1 && !s.rig.due && s.rig.loading.isNone))

/-- The device enters its boot target. -/
def State.enterBoot (s : State) : State :=
  let m := s.bootEnd
  let s := if m = s.mode then s else { s with glob := { s.glob with mode := m, prevMode := s.mode } }
  let s := if m = .operational then s.setOn pgPart true else s
  let s := if m = .operational || m = .degraded then s.admitStart else s
  let s := if m.rigRuns && s.spring.seedReady && s.reg Reg.CLEAT0.VAULT_STATE = 0 then s.openVault m else s
  let idle := s.rig.eff.isNone && s.rig.ready.isNone && s.rig.loading.isNone
  { s with rig := { s.rig with due := m.rigRuns && s.spring.seedReady && idle } }.stayBoot

/-- `BOOT_COMPLETE` : step 11 (R480, R481). In ROM_RECOVERY and with a bad option area no mode is entered. -/
def execBootComplete (us : Word) (s : State) : Result :=
  if s.glob.booted || s.pins.perst || !s.bootReady then .next s
  else
    let s := if s.held then s else s.enterBoot
    let s := ((s.setReg Reg.GLOBAL.BOOT_STAGE 11).setReg Reg.GLOBAL.BOOT_US us.toNat).setOn pgHost true
    .next ({ s with glob := { s.glob with booted := true, bootTarget := none } }.raise pgGlobal 2)

end Sys2Proof.Machine
end

