-- ==== Sys2Proof/Machine/Witness.lean ====
section
/-!
DEFINITION. The witness port (R534 to R537): the PICC side of the contactless unit, and the retries of the wired host.
-/
set_option autoImplicit false

namespace Sys2Proof.Machine

/-- CRC_A of ISO/IEC 14443-3, low byte first. -/
def crcA (bs : List Byte) : List Byte := leBytes 2 (crc ⟨16, 0x8408, 0x6363, true, 0⟩ bs)

/-- The port answers. -/
def State.piccOut (s : State) (bs : List Byte) : State := s.emit (.picc bs)

/-- The port's state. -/
def State.setPicc (s : State) (p : Picc) : State := { s with witness := { s.witness with picc := p } }

/-- An unexpected frame of the initialisation sequence returns the port to IDLE, or to HALT where it was woken from there. -/
def State.piccBack (s : State) : State := s.setPicc (if s.witness.fromHalt then .halt else .idle)

/-- UID and BCC of the port. -/
def State.piccUid (s : State) : List Byte := s.witness.uid ++ [s.witness.uid.foldl (· ^^^ ·) 0]

/-- The bits of a byte string in transmission order. -/
def bitsOfBytes (bs : List Byte) : List Bool := bs.flatMap fun b => (List.range 8).map b.getLsbD

/-- Bits in transmission order packed into bytes. -/
def piccPack (bs : List Bool) : List Byte :=
  (List.range (ceilDiv bs.length 8)).map fun i =>
    BitVec.ofNat 8 ((List.range 8).foldl (fun v k => if bs.getD (8 * i + k) false then v + 2 ^ k else v) 0)

/-- `FIELD_ON` : an external field appears, or its strength changes. At each entry the port takes a new UID: 0x08 and 3 free
bytes of the privacy generator (R534). -/
def execFieldOn (ma : Fin 65536) (s : State) : Result :=
  let w := s.witness
  if w.field then .next { s with witness := { w with ma := ma } }
  else
    let (k, s) := s.draw
    .next ({ s with witness := { w with field := true, ma := ma, picc := .idle, fromHalt := false, uid := 0x08 :: randBytes k 3 } }.raise pgWitness 0)

/-- `REQA`, or WUPA: in IDLE the port answers ATQA 0x0001, in HALT to WUPA alone. -/
def execPicReqa (wupa : Bool) (s : State) : Result :=
  match s.witness.picc with
  | .off => .next s
  | .idle => .next ({ s with witness := { s.witness with fromHalt := false } }.setPicc .ready |>.piccOut [0x01, 0x00])
  | .halt =>
    if wupa then .next ({ s with witness := { s.witness with fromHalt := true } }.setPicc .ready |>.piccOut [0x01, 0x00]) else .next s
  | .ready | .active => .next s.piccBack

/-- `ANTICOLLISION` : the port answers with the bits of UID and BCC that follow the known ones. -/
def execPicAnticoll (known : List Bool) (s : State) : Result :=
  match s.witness.picc with
  | .ready =>
    let bits := bitsOfBytes s.piccUid
    if known == bits.take known.length then .next (s.piccOut (piccPack (bits.drop known.length))) else .next s
  | .active => .next s.piccBack
  | _ => .next s

/-- `SELECT` : the port is selected by its own UID and answers SAK 0x00. -/
def execPicSelect (uid : List Byte) (crcOk : Bool) (s : State) : Result :=
  match s.witness.picc with
  | .ready => if crcOk && uid == s.piccUid then .next ((s.setPicc .active).piccOut ([0x00] ++ crcA [0x00])) else .next s.piccBack
  | .active => .next s.piccBack
  | _ => .next s

/-- `HLTA` : ACTIVE goes to HALT without an answer. -/
def execHlta (s : State) : Result :=
  match s.witness.picc with
  | .active => .next (s.setPicc .halt)
  | .ready => .next s.piccBack
  | _ => .next s

/-- `WREAD` : blocks `blk` to `blk` + 3 (Table 18.5). -/
def execWread (blk : Fin 65536) (crcOk : Bool) (s : State) : Result :=
  if s.witness.picc ≠ .active || !crcOk then .next s
  else if 0x1FC < blk.val then .next (s.piccOut [0x1])
  else
    let d := s.witBytes (16 * blk) 64
    .next ({ s with witness := { s.witness with arb := true } }.piccOut (d ++ crcA d))

/-- `WSTAMP` : a write of one block of the audit-stamp area, gated by field strength and VBAT (R535, R536). -/
def execWstamp (blk : Fin 65536) (data : Vector Byte 16) (ma vbat : Fin 65536) (crcOk : Bool) (s : State) : Result :=
  if s.witness.picc ≠ .active || !crcOk then .next s
  else
    let s := { s with witness := { s.witness with ma := ma }, tamper := { s.tamper with vbat := vbat } }
    if blk.val < 0x1C0 || 0x1FF < blk.val then .next (s.piccOut [0x1])
    else if ma.val < s.reg Reg.WITNESS.FIELD_WRITE_MIN || vbat.val < s.reg Reg.TAMPER.VBAT_WARN then
      .next (((s.inc Reg.WITNESS.NAK_GATE_CNT).raise pgWitness 1).piccOut [0x5])
    else
      let s := s.witWrite (16 * blk) data.toList
      let s := { s with witness := { s.witness with arb := true } }
      .next (((s.inc Reg.WITNESS.STAMP_CNT).raise pgWitness 2).piccOut [0xA])

/-! ### The wired host (R537) -/

/-- A Naris access or a window read that wins: a load fills its register, a store writes, a window read answers. -/
def State.wiredDone (s : State) (a : Wired) (ok : Bool) : State :=
  match a with
  | .load off size dst =>
    let bs := if ok then s.witBytes off size else List.replicate size 0
    { s with naris := { s.naris with cpu := s.naris.cpu.write (dst.write bs) } }
  | .store off bs => if ok then s.witWrite off bs else s
  | .window off => s.emit (.regRead 0 (0x18800 + off % 2048) (if ok then leNat (s.witBytes off 4) else 0))

/-- Naris has gone past the load that waited: the trap names the load's address (R124). -/
def State.loadTrap (s : State) : State :=
  let c := s.naris.cpu
  { s with naris := { s.naris with cpu := { c with pc := c.pc - 4 } } }.instrFault .naris 0x03

/-- `HOST_BUSY_RETRY` : the oldest wired access that waits retries; the eighth failure ends it. A load then receives zero and traps
with ADDR_CLASS, a store is discarded, a window read returns zero. -/
def execHostBusyRetry (won : Bool) (s : State) : Result :=
  match s.witness.wired with
  | [] => .next s
  | (a, n) :: rest =>
    if won then .next ({ s with witness := { s.witness with wired := rest } }.wiredDone a true)
    else if n + 1 < 8 then
      .next ({ s with witness := { s.witness with wired := (a, n + 1) :: rest } }.sat Reg.WITNESS.BUSY_CNT)
    else
      let s := { s with witness := { s.witness with wired := rest } }.wiredDone a false
      let s := (s.sat Reg.WITNESS.BUSY_CNT).hostBusyFail a.off
      match a with
      | .load _ _ _ => .next s.loadTrap
      | _ => .next s

end Sys2Proof.Machine
end

