-- ==== Sys2Proof/Machine/Card.lean ====
section
/-!
DEFINITION. The card slot (R522 to R530), contactless reader mode (R531 to R533), custodian credentials and quorum sessions
(R538 to R541).
-/
set_option autoImplicit false

namespace Sys2Proof.Machine

/-- LAST_RESULT of the last operation (Table 18.10). -/
def State.cardResult (s : State) (code : Nat) : State := s.setReg Reg.CARD.LAST_RESULT code

/-! ### Insertion and removal (R522) -/

/-- No session is left on the ICC pins. -/
def State.iccOff (s : State) : State := { s with card := { s.card with icc := none } }.setReg Reg.CARD.ICC_CLASS 0

/-- A card of TYPE UNKNOWN. -/
def State.cardUnknown (s : State) : State :=
  (({ s with card := { s.card with typ := 3 } }.iccOff).setReg Reg.CARD.TYPE 3).raise pgCard 2

/-- One group of interface bytes of an ATR: TA, TB, TC, TD where the indicator `y` announces them, and what follows. -/
def atrGroup (y : Nat) (bs : List Byte) : Option Nat × Option Nat × Option Nat × Option Nat × List Byte :=
  let one (i : Nat) (bs : List Byte) : Option Nat × List Byte :=
    if bitOf y i then (bs.head?.map BitVec.toNat, bs.drop 1) else (none, bs)
  let (a, bs) := one 0 bs
  let (b, bs) := one 1 bs
  let (c, bs) := one 2 bs
  let (d, bs) := one 3 bs
  (a, b, c, d, bs)

/-- Fi and Di that the PPS asks for: what TA1 offers where Table 18.3 supports it, 372 and 1 otherwise. -/
def atrFiDi (ta1 : Option Nat) : Nat × Nat :=
  let v := ta1.getD 0x11
  let f := if v / 16 = 1 then 372 else if v / 16 = 9 then 512 else 0
  let d := if 1 ≤ v % 16 ∧ v % 16 ≤ 5 then 2 ^ (v % 16 - 1) else 0
  if f = 0 || d = 0 then (372, 1) else (f, d)

/-- The session that an ATR gives in a class: T=0 must be offered (Table 18.3). -/
def atrSession (cls : Nat) (atr : List Byte) : Option IccSt :=
  match atr with
  | ts :: t0 :: rest =>
    if ts ≠ 0x3B && ts ≠ 0x3F then none
    else
      let (ta1, _, tc1, td1, more) := atrGroup (t0.toNat / 16) rest
      let (fi, di) := atrFiDi ta1
      let s : IccSt := { cls := cls, inverse := ts == 0x3F, fi := fi, di := di, guardT := tc1.getD 0, wi := 10 }
      match td1 with
      | none => some s
      | some d =>
        let (_, _, tc2, _, _) := atrGroup (d / 16) more
        if d % 16 = 0 then some { s with wi := tc2.getD 10 } else none
  | _ => none

/-- Activation of the ICC pins: class B first, then class A, each where ICC_CLASS_EN allows it (R528). -/
def State.iccActivate (s : State) (atrB atrA : Option (List Byte)) : State :=
  let en := s.reg Reg.CARD.ICC_CLASS_EN
  let b := if bitOf en 0 then atrB else none
  let a := if bitOf en 1 then atrA else none
  let got := match b, a with
    | some t, _ => atrSession 1 t
    | none, some t => atrSession 2 t
    | none, none => none
  match got with
  | some i =>
    let s := { s with card := { s.card with typ := 2, icc := some i } }
    (s.setReg Reg.CARD.TYPE 2).setReg Reg.CARD.ICC_CLASS i.cls
  | none => s.cardUnknown

/-- `CARD_INSERT` : SD identification, then the ICC pins (R522, R523, R526); four lines are used where DAT_BUS_WIDTH reads 10b, and
50 MHz where bits [379:376] of the switch status read 0x1 (R524). -/
def execCardInsert (c : CardIn) (s : State) : Result :=
  if s.card.present then .next s
  else
    let s := { s with card := { present := true } }
    let s := ((s.setBit Reg.CARD.PRESENT true).inc Reg.CARD.INSERT_CNT).raise pgCard 0
    if c.cmd8.val = 0 then .next (s.iccActivate c.atrB c.atrA)
    else if !c.v33 then .next s.cardUnknown
    else
      let s := { s with card := { s.card with typ := 1 } }.setReg Reg.CARD.TYPE 1
      let (wide, fast) := (c.busWidth == 2, c.hsFn == 1)
      let s := ((s.setBit Reg.CARD.WP c.wp).setBit Reg.CARD.WIDTH4 wide).setBit Reg.CARD.HS fast
      .next (if wide && fast then s else s.raise pgCard 3)

/-- A removal: an ICC session is deactivated, and its operation ends with CARD_REMOVED (R522, R530). -/
def State.cardGone (s : State) : State :=
  let s := if s.card.icc.isSome then s.cardResult 7 else s
  let s := { s with card := {} }
  let s := ((s.setBit Reg.CARD.PRESENT false).setReg Reg.CARD.TYPE 0).setReg Reg.CARD.ICC_CLASS 0
  (((s.setBit Reg.CARD.WP false).setBit Reg.CARD.WIDTH4 false).setBit Reg.CARD.HS false).raise pgCard 1

/-- `CARD_REMOVE` . -/
def execCardRemove (s : State) : Result := if s.card.present then .next s.cardGone else .next s

/-! ### SD blocks (R523, R527) -/

/-- `SD_BLOCK_READ` : into Naris RAM at `buf` (R521); a write that the access rules refuse is discarded (R435). -/
def execSdBlockRead (blk : Word) (crcErrs ms : Nat) (data : List Byte) (buf : Fin 262144) (s : State) : Result :=
  if s.card.typ ≠ 1 then .next s
  else
    let s := s.emit (.sdRead blk.toNat)
    if 3 < crcErrs then .next (s.cardResult 1)
    else if 100 < ms then .next (s.cardResult 2)
    else
      let (ok, s) := s.cardDma .write buf 512
      .next ((if ok then { s with narisRam := SMap.putBytes s.narisRam buf (fitBytes 512 data) } else s).cardResult 0)

/-- A write that may or may not have reached the card. -/
def State.writeIndeterminate (s : State) (blk : Nat) : State := (s.setReg Reg.CARD.BAD_BLOCK blk).cardResult 5

/-- A block write, and how it ends (R526, R527). -/
def State.sdWrite (s : State) (blk : Nat) (bs : List Byte) (wp : Bool) (crcErrs : Nat) (e : SdEnd) : State :=
  let s := s.setBit Reg.CARD.WP wp
  if wp then s.cardResult 3
  else
    match e with
    | .removedBefore => s.cardGone.cardResult 4
    | .removedAfter => (s.emit (.sdWrite blk bs)).cardGone.writeIndeterminate blk
    | .done ms =>
      let s := s.emit (.sdWrite blk bs)
      if 3 < crcErrs then s.cardResult 1
      else if 250 < ms then s.writeIndeterminate blk
      else s.cardResult 0

/-- `SD_BLOCK_WRITE` : 512 B from Naris RAM at `buf`. A read that the access rules refuse fails (Table 14.4): nothing is written;
DESIGN CHOICE (notes/assumptions/78.md): Table 18.10 gives no code for it, and LAST_RESULT is a free one of 1 to 7. -/
def execSdBlockWrite (blk : Word) (wp : Bool) (crcErrs : Nat) (buf : Fin 262144) (e : SdEnd) (s : State) : Result :=
  if s.card.typ ≠ 1 then .next s
  else
    let (ok, s) := s.cardDma .read buf 512
    if !ok then
      let (k, s) := s.draw
      .next (s.cardResult (Config.freeNat k % 7 + 1))
    else .next (s.sdWrite blk.toNat (SMap.bytes s.narisRam buf 512) wp crcErrs e)

/-! ### Credentials (R538 to R541) -/

/-- What the challenge is signed over: c = SHA3-256("OXQUORUM" ‖ DEVICE_FP ‖ SNONCE ‖ PURPOSE). -/
def Quorum.challenge (q : Quorum) : List Byte := sha3_256 (ascii "OXQUORUM" ++ ownFp ++ q.snonce ++ [BitVec.ofNat 8 q.purpose])

/-- The algorithm byte and public key of an INFO answer. -/
def infoKey (info : List Byte) : Option (List Byte) :=
  match info with
  | a :: rest =>
    let n := if a = 1 then 64 else if a = 2 then 1312 else 0
    if n = 0 || rest.length < n || n + 32 < rest.length then none else some (a :: rest.take n)
  | [] => none

/-- An ECDSA P-256 signature over a 32 B digest, as r ‖ s under x ‖ y. -/
def p256Check (pk digest sig : List Byte) : Bool :=
  let x := beNat (pk.take 32)
  let y := beNat (pk.drop 32)
  let r := beNat (sig.take 32)
  let t := beNat (sig.drop 32)
  sig.length == 64 && decide (x < p256.p) && decide (y < p256.p) && p256.on x y
    && r != 0 && t != 0 && decide (r < p256.n) && decide (t < p256.n) && p256.verify (x, y) (beNat digest) r t

/-- A credential's signature over the challenge verifies (R538). -/
def credOk (key c auth : List Byte) : Bool :=
  if key.head? = some 1 then p256Check (key.drop 1) c auth else mldsaVerify (key.drop 1) "OXCUST" c auth

/-- ALG of the entry of a credential key. -/
def credAlg (key : List Byte) : Nat := if key.head? = some 1 then 0x18 else 0x41

/-- The enrolled custodian list (R539). -/
def State.custodianList (s : State) : List (Nat × Entry) :=
  s.sysEntries.filter fun (e : Nat × Entry) => e.2.tr31.take 6 == ascii "OXCUST"

/-- A byte of TR31_HDR. -/
def Entry.hdrByte (e : Entry) (i : Nat) : Nat := (e.tr31.getD i 0).toNat

/-- The index of the enrolled custodian with a credential's key. -/
def State.custodianIndex (s : State) (key : List Byte) : Option Nat :=
  (s.custodianList.find? fun e => e.2.alg == credAlg key && e.2.material == key.drop 1).map fun e => e.2.hdrByte 6

/-- A credential that counts nothing. -/
def State.credReject (s : State) : State := (s.inc Reg.CARD.REJECT_CNT).raise pgCard 4

/-- The session after custodian `i` has been counted. -/
def State.countCred (s : State) (q : Quorum) (key : List Byte) (i : Nat) : State :=
  let q := { q with counted := q.counted ++ [key], indexes := q.indexes ++ [i] }
  let met := if q.fresh then q.counted.length == q.n else q.m != 0 && decide (q.m ≤ q.counted.length)
  let s := { s with cust := { s.cust with quorum := some { q with met := q.met || met } } }
  let s := s.setReg Reg.CARD.COUNTED q.counted.length
  let s := s.setReg Reg.CARD.PRESENT_19148 (orBit (s.reg Reg.CARD.PRESENT_19148) i)
  if met && !q.met then (s.setBit Reg.CARD.Q_MET true).raise pgCard 5 else s

/-- A credential is checked: its answers to INFO and AUTH (R540). Where no custodian is enrolled it counts as a new one. -/
def State.credential (s : State) (info auth : List Byte) : State :=
  match s.cust.quorum, infoKey info with
  | some q, some key =>
    if !credOk key q.challenge auth then s.credReject
    else if q.fresh then
      if q.counted.contains key || q.n ≤ q.counted.length then s else s.countCred q key q.counted.length
    else
      match s.custodianIndex key with
      | some i => if q.indexes.contains i then s else s.countCred q key i
      | none => s.credReject
  | some _, none => s.credReject
  | none, _ => s

/-! ### APDUs on the ICC pins -/

/-- The APDU that Naris sends (Table 18.6). -/
def State.apduBytes (s : State) (c : Apdu) : List Byte :=
  match c with
  | .select => [0x00, 0xA4, 0x04, 0x00, 7, 0xF0, 0x4F, 0x58, 0x43, 0x55, 0x53, 0x54]
  | .info => [0x80, 0x10, 0x00, 0x00]
  | .auth => [0x80, 0x12, 0x00, 0x00, 32] ++ ((s.cust.quorum.map Quorum.challenge).getD [])

/-- The data of a response whose SW reads 9000. -/
def apduBody (resp : List Byte) : Option (List Byte) :=
  if resp.drop (resp.length - 2) = [0x90, 0x00] then some (resp.take (resp.length - 2)) else none

/-- Character repetitions; more than 5 of one character deactivate the card and end the operation with CARD_PARITY
(R529). -/
def State.iccRepeats (s : State) (reps : Nat) : Bool × State :=
  let s := s.setReg Reg.CARD.REPEAT_CNT (min 65535 (s.reg Reg.CARD.REPEAT_CNT + min reps 5))
  if 5 < reps then (false, s.iccOff.cardResult 6) else (true, s)

/-- `ICC_ACTIVATION` : Naris activates a card that is no SD card again. -/
def execIccActivation (atrB atrA : Option (List Byte)) (reps : Nat) (s : State) : Result :=
  if !s.card.present || s.card.typ = 1 then .next s
  else
    match s.iccRepeats reps with
    | (false, s) => .next s
    | (true, s) => .next (s.iccActivate atrB atrA)

/-- What a response does to the session. -/
def State.apduAnswer (s : State) (i : IccSt) (c : Apdu) (body : Option (List Byte)) : State :=
  let set (i : IccSt) : State := { s with card := { s.card with icc := some i } }
  match c with
  | .select => set { i with selected := body.isSome, info := none }
  | .info => if i.selected then set { i with info := body } else s
  | .auth => if i.info.isSome then s.credential (i.info.getD []) (body.getD []) else s

/-- `APDU_EXCHANGE` : a custodian APDU on the card port. AUTH needs an open session. -/
def execApduExchange (cmd : Apdu) (resp : List Byte) (reps : Nat) (s : State) : Result :=
  match s.card.icc with
  | none => .next s
  | some i =>
    if cmd = .auth && s.cust.quorum.isNone then .next s
    else
      match (s.emit (.apdu 0 (s.apduBytes cmd))).iccRepeats reps with
      | (false, s) => .next s
      | (true, s) => .next ((s.apduAnswer i cmd (apduBody resp)).cardResult 0)

/-! ### Quorum sessions (R540, R541) -/

/-- Whether a purpose is allowed in the mode. -/
def purposeMode (p : Nat) (m : Mode) : Bool :=
  match p, m with
  | 1, .unclaimed => true
  | 2, .operational | 2, .maintenance | 2, .degraded => true
  | 3, .unclaimed | 3, .operational | 3, .maintenance | 3, .degraded | 3, .standby => true
  | _, _ => false

/-- Open a session with a nonce of wire rill 3. -/
def State.openQuorum (s : State) (p : Nat) (fresh : Bool) : State :=
  match s.rillDraw (wireRill 3) with
  | (none, s) => s.refuse pgNaris 0xB6
  | (some k, s) =>
    let hdr (i : Nat) : Nat := ((s.custodianList.head?).map fun e => e.2.hdrByte i).getD 0
    let q : Quorum := {
      purpose := p, snonce := randBytes k 32, fresh := fresh,
      m := if fresh then s.reg Reg.CARD.Q_M else hdr 7, n := if fresh then s.reg Reg.CARD.Q_N else hdr 8 }
    let s := { s with cust := { s.cust with quorum := some q } }.setBit Reg.CARD.Q_OPEN true
    (s.setReg Reg.CARD.Q_LEFT (s.reg Reg.CARD.Q_TIMEOUT)).setDetail pgCard 4 true

/-- `OPEN` . -/
def execQOpen (s : State) : Result :=
  let p := s.reg Reg.CARD.Q_PURPOSE
  let m := s.reg Reg.CARD.Q_M
  let n := s.reg Reg.CARD.Q_N
  let fresh := p == 1 || (p == 3 && s.mode == .unclaimed)
  if p = 0 then .next (s.refuse pgCard 0x01)
  else if s.cust.quorum.isSome then .next (s.refuse pgCard 0xD1)
  else if !purposeMode p s.mode then .next (s.refuse pgCard 0xD0)
  else if fresh && !(decide (2 ≤ m) && decide (m ≤ n) && decide (n ≤ 16)) then .next (s.refuse pgCard 0x01)
  else .next (s.openQuorum p fresh)

/-- `CLOSE` . -/
def execQClose (s : State) : Result := .next s.closeQuorum

/-- The ceremony is abandoned and the device leaves CEREMONY (Table 16.2). -/
def State.leaveCeremony (s : State) (cause : Cause) : State :=
  s.abandonCeremony.startChange (if s.tamper.rootState = 2 then .operational else .unclaimed) cause true

/-- `QUORUM_TIMEOUT` : Q_TIMEOUT seconds after OPEN; in CEREMONY it abandons the ceremony. -/
def execQuorumTimeout (s : State) : Result :=
  if s.cust.quorum.isNone then .next s
  else if s.mode = .ceremony then .next (s.leaveCeremony .device)
  else .next s.closeQuorum

/-! ### Reader mode (R531 to R533) -/

/-- The UID part and BCC of a tag at a cascade level; empty where the UID has ended. -/
def TagIn.level (t : Sys2Proof.TagIn) (lvl : Nat) : List Byte :=
  let u := t.uid
  let last := (u.length - 1) / 3
  let part := if lvl + 1 < last then 0x88 :: cut u (3 * lvl) 3 else if lvl + 1 = last then u.drop (3 * lvl) else []
  if part.isEmpty then [] else part ++ [part.foldl (· ^^^ ·) 0]

/-- The bits of a tag's identifier in transmission order, over the three levels. -/
def tagBits (t : TagIn) : List Bool := (List.range 3).flatMap fun l => bitsOfBytes (TagIn.level t l)

/-- Bit-frame anticollision: at each bit in which the answers differ, the tags with 1 remain. Answers the tags that remain
and the collisions met. -/
def anticollide (tags : List TagIn) : List TagIn × Nat :=
  (List.range 120).foldl (fun (acc : List TagIn × Nat) k =>
    let ones := acc.1.filter fun t => (tagBits t).getD k false
    if ones.isEmpty || ones.length = acc.1.length then acc else (ones, acc.2 + 1)) (tags, 0)

/-- The rounds of a scan: the tags in the order in which they are completed, at most 32, and the collisions. -/
def scanRounds : Nat → List TagIn → List TagIn × Nat
  | 0, _ => ([], 0)
  | fuel + 1, tags =>
    let (sel, c) := anticollide tags
    match sel with
    | [] => ([], 0)
    | t :: _ =>
      let (r, d) := scanRounds fuel (tags.filter fun x => x.uid != t.uid)
      (t :: r, c + d)

/-- One tag is completed: a custodian exchange where its SAK shows ISO/IEC 14443-4. -/
def State.scanTag (s : State) (t : TagIn) : State :=
  if !t.iso4 || s.cust.quorum.isNone then s
  else
    let s := ((s.emit (.apdu 1 (s.apduBytes .select))).emit (.apdu 1 (s.apduBytes .info))).emit (.apdu 1 (s.apduBytes .auth))
    s.credential t.info t.auth

/-- A scan ends. -/
def State.scanDone (s : State) (n c : Nat) : State :=
  let s := { s with witness := { s.witness with scan := none } }
  ((s.incBy Reg.WITNESS.COLL_CNT c).setReg Reg.WITNESS.TOKENS_LAST n).raise pgWitness 3

/-- Reader mode runs: the witness port stops at once, and every tag is completed. -/
def State.runScan (s : State) (tags : List TagIn) : State :=
  let s := { s with witness := { s.witness with picc := .off } }
  let (order, c) := scanRounds 32 tags
  (order.foldl State.scanTag s).scanDone order.length c

/-- `SCAN` : a scan needs an open session; it waits while an external field is present. -/
def execScan (tags : List TagIn) (s : State) : Result :=
  if s.cust.quorum.isNone || s.witness.scan.isSome then .next s
  else if s.witness.field then .next { s with witness := { s.witness with scan := some tags } }
  else .next (s.runScan tags)

/-- `FIELD_LOSS` : the port returns to power-off; a scan that waits starts once no field has been sensed for 5 ms. -/
def execFieldLoss (quiet : Bool) (s : State) : Result :=
  let s := { s with witness := { s.witness with field := false, ma := 0, picc := .off, fromHalt := false } }
  match s.witness.scan with
  | some tags => if quiet then .next (s.runScan tags) else .next s
  | none => .next s

/-- `READER_FIELD_TIMEOUT` : after 10 s a scan that waits ends. -/
def execReaderFieldTimeout (s : State) : Result :=
  match s.witness.scan with
  | some _ => .next ((s.refuse pgCard 0xD6).scanDone 0 0)
  | none => .next s

end Sys2Proof.Machine
end

