-- ==== Sys2Proof/Machine/Ceremony.lean ====
section
/-!
DEFINITION. The ceremony (R542, R543, R406): steps staged through CER_CMD, and their commit.
-/
set_option autoImplicit false

namespace Sys2Proof.Machine

/-! ### The ceremony window -/

/-- The CER_LEN bytes of CER_WIN. -/
def State.cerBytes (s : State) : List Byte := SMap.bytes s.cust.win 0 (min 4096 (s.reg Reg.CARD.CER_LEN))

/-- Bytes written to CER_WIN, with their count. -/
def State.cerPut (s : State) (bs : List Byte) : State :=
  { s with cust := { s.cust with win := SMap.putBytes s.cust.win 0 bs } }.setReg Reg.CARD.CER_LEN bs.length

/-- CER_CMD outside CEREMONY is refused with NOT_MODE (R544). -/
def ceremonyCmd (s : State) (f : State → State) : Result :=
  if s.mode ≠ .ceremony then .next (s.refuse pgCard 0xD0) else .next (f s)

/-- A step is staged; a step staged twice keeps its later value. -/
def State.stageStep (s : State) (k : Nat) (f : Staged → Staged) : State :=
  let s := { s with cust := { s.cust with staged := f s.cust.staged } }
  (s.setReg Reg.CARD.STAGED (orBit (s.reg Reg.CARD.STAGED) k)).setBit Reg.CARD.CER_DONE true

/-- A step is refused. -/
def State.cerRefuse (s : State) (code : Nat) : State := (s.refuse pgCard code).setBit Reg.CARD.CER_DONE true

/-! ### The domain -/

/-- The membership list that the commit leaves. -/
def State.newMembers (s : State) : List (List Byte) :=
  match s.cust.staged.members with
  | some m => m.1
  | none => s.flash.opt.members

/-- A fingerprint is in a membership list. -/
def inList (ms : List (List Byte)) (fp : List Byte) : Bool := ms.any fun m => fitBytes 8 m == fitBytes 8 fp

/-- DOMAIN_ID of a membership list (R405, R465). -/
def domainId (ms : List (List Byte)) : List Byte := (sha3_256 (fitBytes 8192 (ms.flatMap (fitBytes 8)))).take 8

/-- The domain key that the commit leaves: steps 4, 5 and 8 take effect in this order (Table 18.7). -/
def Staged.domain (t : Staged) : Option (List Byte) := t.domLoad.or (t.domImport.or t.domGen)

/-- The domain key as steps 6 and 7 meet it: after steps 4 and 5, before step 8 (Table 18.7). -/
def State.newDomain (s : State) : List Byte := (s.cust.staged.domImport.or s.cust.staged.domGen).getD s.domainKey

/-- KCV of a domain key: bytes 0 to 7 of the encipherment of a zero block (Table 18.8). -/
def kcv (key : List Byte) : List Byte := (aesEnc key (List.replicate 16 0)).take 8

/-- The wrapping key of a domain key blob (R406). -/
def wrapKey (k fp : List Byte) : List Byte := sha3_256 (ascii "OXDOMKEY" ++ k ++ fp)

/-! ### Steps 1 to 5 -/

/-- `CUSTODIANS` : the list becomes every credential counted in the session. -/
def execCustodians (s : State) : Result :=
  ceremonyCmd s fun s =>
    let keys := (s.cust.quorum.map Quorum.counted).getD []
    let m := s.reg Reg.CARD.Q_M
    if m < 2 || keys.length < m then s.cerRefuse 0x01 else s.stageStep 1 fun t => { t with custodians := some (m, keys) }

/-- `RIG_KEY` . -/
def execRigKey (s : State) : Result :=
  ceremonyCmd s fun s =>
    let pk := s.cerBytes
    if pk.length ≠ 1312 then s.cerRefuse 0x01 else s.stageStep 2 fun t => { t with rigKey := some pk }

/-- What a MEMBERS step brings: MEMBER_COUNT in 2 B, entries of 8 B, then STAY_PRESENT, PAIR_MODE and ROLE in 1 B each and
TWIN_FP (notes/assumptions/35.md). -/
def membersOf (bs : List Byte) : Option (List (List Byte) × Option StayId) :=
  let n := leNat (cut bs 0 2)
  let o := 2 + 8 * n
  let f (i : Nat) : Nat := leNat (cut bs (o + i) 1)
  let stay : Option StayId := if f 0 = 1 then some { twinFp := cut bs (o + 3) 32, pairMode := f 1, roleCfg := f 2 } else none
  if bs.length ≠ o + 35 || 1024 < n || 1 < f 0 || (f 0 = 1 && (f 1 = 0 || 2 < f 1 || 1 < f 2)) then none
  else some ((List.range n).map fun i => cut bs (2 + 8 * i) 8, stay)

/-- `MEMBERS` . -/
def execMembers (s : State) : Result :=
  ceremonyCmd s fun s =>
    match membersOf s.cerBytes with
    | some m => s.stageStep 3 fun t => { t with members := some m }
    | none => s.cerRefuse 0x01

/-- `DOMAIN_GEN` : a fresh AES-256 key from wire rill 3. -/
def execDomainGen (s : State) : Result :=
  ceremonyCmd s fun s =>
    match s.rillDraw (wireRill 3) with
    | (none, s) => s.refuse pgNaris 0xB6
    | (some k, s) => s.stageStep 4 fun t => { t with domGen := some (randBytes k 32) }

/-- The domain key of a blob that the checks of R406 accept (Table 12.6). -/
def State.openDomainBlob (s : State) (b dk : List Byte) : Option (List Byte) :=
  let fp := cut b 0x8 32
  let pk := Config.memberKey fp
  if b.length ≠ 3652 || leNat (cut b 0 4) ≠ 0x4B44584F || leNat (cut b 4 2) ≠ 1 then none
  else if !inList s.newMembers fp || sha3_256 pk ≠ fp || !mldsaVerify pk "OXBLOB" (sha3_256 (b.take 0x4D0)) (b.drop 0x4D0) then none
  else if cut b 0x28 32 ≠ ownFp || cut b 0x48 8 ≠ domainId s.newMembers then none
  else gcmOpen (wrapKey (mlkemDecaps dk (cut b 0x50 1088)) ownFp) (cut b 0x490 12) (b.take 0x4A0) (cut b 0x4A0 32) (cut b 0x4C0 16)

/-- `DOMAIN_IMPORT` . -/
def execDomainImport (s : State) : Result :=
  ceremonyCmd s fun s =>
    match s.glob.kemDk.bind (s.openDomainBlob s.cerBytes) with
    | some k => s.stageStep 5 fun t => { t with domImport := some k }
    | none => s.cerRefuse 0x01

/-! ### Step 6 -/

/-- Fingerprint and encapsulation key of an ATTEST statement with KEM_EXT that a member signed (Table 16.6, R406). -/
def State.joiner (s : State) (b : List Byte) : Option (List Byte × List Byte) :=
  let fp := cut b 0x20 32
  let ek := cut b 0x100 1184
  let pk := Config.memberKey fp
  if b.length ≠ 3860 || leNat (cut b 0 4) ≠ 0x5441584F || leNat (cut b 4 2) ≠ 1 || !bitOf (leNat (cut b 6 2)) 0 then none
  else if !inList s.newMembers fp || sha3_256 pk ≠ fp || !mldsaVerify pk "OXATT" (sha3_256 (b.take 1440)) (b.drop 1440) then none
  else if mlkemEkOk ek then some (fp, ek) else none

/-- The domain key blob for a joining member, before its signature. -/
def domainBlob (key did dst ek m iv : List Byte) : List Byte :=
  let (k, ct) := mlkemEncaps ek m
  let hdr := fitBytes 0x4A0 (leBytes 4 0x4B44584F ++ leBytes 2 1 ++ [0, 0] ++ ownFp ++ dst ++ did ++ ct ++ fitBytes 12 iv)
  let (w, tag) := gcmSeal (wrapKey k dst) (fitBytes 12 iv) hdr key
  hdr ++ w ++ tag

/-- The blob for a joiner is made, signed and written to CER_WIN. -/
def State.exportDomain (s : State) (dst ek : List Byte) : State :=
  match s.rillDraw (wireRill 3) with
  | (none, s) => s.refuse pgNaris 0xB6
  | (some k, s) =>
    let t := domainBlob s.newDomain (domainId s.newMembers) dst ek (randBytes k 32) ((randBytes k 44).drop 32)
    match s.deviceSign "OXBLOB" (sha3_256 t) with
    | (none, s) => s
    | (some g, s) => s.cerPut (t ++ g)

/-- `DOMAIN_EXPORT` : the statement is checked; the blob for the member is written to CER_WIN at COMMIT. -/
def execDomainExport (s : State) : Result :=
  ceremonyCmd s fun s =>
    match s.joiner s.cerBytes with
    | some (fp, ek) => if s.newDomain.length = 32 then s.stageStep 6 fun t => { t with join := some (fp, ek) } else s.cerRefuse 0x01
    | none => s.cerRefuse 0x01

/-! ### Steps 7 and 8: component cards (R543) -/

/-- The 512 B of a component block (Table 18.8). -/
def compBlock (index count custodian : Nat) (did kc comp : List Byte) : List Byte :=
  let t := fitBytes 0x1FC (leBytes 4 0x4F43584F ++ leBytes 2 1 ++ [BitVec.ofNat 8 index, BitVec.ofNat 8 count, BitVec.ofNat 8 custodian]
    ++ List.replicate 7 0 ++ did ++ kc ++ comp)
  t ++ leBytes 4 (crc crc32cPar t)

/-- The custodian of an index is PRESENT. -/
def State.custodianHere (s : State) (i : Nat) : Bool := decide (i < 16) && bitOf (s.reg Reg.CARD.PRESENT_19148) i

/-- Write the blocks to the cards in turn, each read back under R527; false where the step ends early. -/
def State.writeComps (s : State) : List (CompCard × (Nat → List Byte)) → Bool × State
  | [] => (true, s)
  | (c, blk) :: rest =>
    if !s.custodianHere c.custodian then (false, s.cerRefuse 0xD4)
    else
      let b := blk c.custodian
      let s := s.sdWrite 0 b c.wp 0 c.done
      if c.wp || c.done == .removedBefore then (false, s)
      else if c.back == b then s.writeComps rest
      else (false, s.cerRefuse 0xD5)

/-- XOR of byte strings of 32 B. -/
def xorAll (bs : List (List Byte)) : List Byte := bs.foldl xorBytes (List.replicate 32 0)

/-- `COMP_WRITE` : the domain key is split into n components, one to a card. n is byte 0 of CER_WIN. -/
def execCompWrite (cards : List CompCard) (s : State) : Result :=
  ceremonyCmd s fun s =>
    let n := leNat (SMap.bytes s.cust.win 0 1)
    let key := s.newDomain
    if n < 2 || 16 < n || key.length ≠ 32 then s.cerRefuse 0x01
    else if cards.length < n then s
    else
      match s.rillDraw (wireRill 3) (ceilDiv (32 * (n - 1)) 64) with
      | (none, s) => s.refuse pgNaris 0xB6
      | (some k, s) =>
        let parts := (List.range (n - 1)).map fun i => (randBytes k (32 * n)).drop (32 * i) |>.take 32
        let comps := parts ++ [xorBytes key (xorAll parts)]
        let did := domainId s.newMembers
        let jobs := ((cards.zip comps).zip (List.range n)).map fun (e : (CompCard × List Byte) × Nat) =>
          (e.1.1, fun (cu : Nat) => compBlock (e.2 + 1) n cu did (kcv key) e.1.2)
        match s.writeComps jobs with
        | (true, s) => s.stageStep 7 id
        | (false, s) => s

/-- How COMP_LOAD reads one block after those it holds: `some` of what it holds now, or the code of a refusal. A block that
does not fit those before it is passed over. -/
def State.takeComp (s : State) (held : List (List Byte)) (b : List Byte) : Except Nat (List (List Byte)) :=
  let f (o n : Nat) : Nat := leNat (cut b o n)
  let same (x : List Byte) : Bool := cut x 7 1 == cut b 7 1 && cut x 0x10 16 == cut b 0x10 16
  if b.length ≠ 512 || f 0 4 ≠ 0x4F43584F || f 4 2 ≠ 1 || f 0x1FC 4 ≠ crc crc32cPar (b.take 0x1FC) then .error 0xD5
  else if f 6 1 = 0 || f 7 1 < f 6 1 || f 7 1 < 2 || 16 < f 7 1 then .error 0xD5
  else if !s.custodianHere (f 8 1) then .error 0xD4
  else if held.all same && held.all (fun x => cut x 6 1 != cut b 6 1) then .ok (held ++ [b])
  else .ok held

/-- The components gathered from the cards in turn, up to COUNT. -/
def State.takeComps (s : State) : List (List Byte) → List (List Byte) → Except Nat (List (List Byte))
  | held, [] => .ok held
  | held, b :: bs =>
    match s.takeComp held b with
    | .error c => .error c
    | .ok h => if h.length = leNat (cut (h.headD []) 7 1) then .ok h else s.takeComps h bs

/-- `COMP_LOAD` . -/
def execCompLoad (blocks : List (List Byte)) (s : State) : Result :=
  ceremonyCmd s fun s =>
    match s.takeComps [] blocks with
    | .error c => s.cerRefuse c
    | .ok h =>
      let h0 := h.headD []
      if h.isEmpty || h.length ≠ leNat (cut h0 7 1) then s
      else
        let key := xorAll (h.map fun b => cut b 0x20 32)
        if kcv key = cut h0 0x18 8 then s.stageStep 8 fun t => { t with domLoad := some key } else s.cerRefuse 0xD3

/-! ### COMMIT and ABANDON -/

/-- A SYSTEM entry with PERSIST. -/
def sysEntry (alg klen kbits : Nat) (mat tr31 : List Byte) : Entry :=
  let (rows, packed) := rowsFor mat.length
  { alg := alg, klen := klen, kbits := kbits, persist := true, system := true, rows := rows, packed := packed,
    material := mat, tr31 := fitBytes 16 tr31 }

/-- Naris writes a SYSTEM entry: it takes effect at the next guard, after the writes of the others (R271, R272). -/
def State.putSystem (s : State) (e : Entry) : State :=
  match s.allocate e.rows with
  | some r => s.pushWrite { head := r, rows := e.rows, op := .create e, writer := .naris }
  | none => s

/-- SYSTEM entries that satisfy `p` are deleted at the next guard. -/
def State.dropSystem (s : State) (p : Entry → Bool) : State :=
  (s.sysEntries.filter fun e => p e.2).foldl (fun s e => s.pushWrite { head := e.1, rows := e.2.rows, op := .delete, writer := .naris }) s

/-- The enrolled list is replaced (R539). -/
def State.putCustodians (s : State) (m : Nat) (keys : List (List Byte)) : State :=
  let s := s.dropSystem fun e => e.tr31.take 6 == ascii "OXCUST"
  (keys.zip (List.range keys.length)).foldl (fun s (e : List Byte × Nat) =>
    let hdr := ascii "OXCUST" ++ [BitVec.ofNat 8 e.2, BitVec.ofNat 8 m, BitVec.ofNat 8 keys.length]
    s.putSystem (sysEntry (credAlg e.1) 0 (if credAlg e.1 = 0x18 then 256 else 0) (e.1.drop 1) hdr)) s

/-- The rig-signing key is enrolled. -/
def State.putRigKey (s : State) (pk : List Byte) : State :=
  (s.dropSystem fun e => e.alg == 0x41 && e.tr31.take 8 == ascii "OXRIGKEY").putSystem (sysEntry 0x41 0 0 pk (ascii "OXRIGKEY"))

/-- The domain key is replaced (R405). -/
def State.putDomain (s : State) (k : List Byte) : State :=
  (s.dropSystem fun e => e.alg == 3).putSystem (sysEntry 3 32 256 k [])

/-- The root mask of a claim: 256 bits from wire rill 3, then the vault key; the store opens empty (R278, R514). -/
def State.claimRoot (s : State) (mask row : Nat) : State :=
  let s := s.setRoot 2 0 (some mask)
  let s := { s with cleat := { s.cleat with vaultKey := some (vaultKeyOf mask), maskKey := some row, ready := true } }.advanceLost
  ((s.setReg Reg.CLEAT0.VAULT_STATE 2).setOn pgCleat true).setOn pgCleat1 true

/-- Every staged step takes effect, in the order of Table 18.7. -/
def State.commitSteps (s : State) (q : Quorum) : State :=
  let t := s.cust.staged
  let s := match t.custodians, q.purpose with
    | some c, _ => s.putCustodians c.1 c.2
    | none, 1 => s.putCustodians q.m q.counted
    | none, _ => s
  let s := match t.rigKey with
    | some pk => s.putRigKey pk
    | none => s
  let s := match t.members with
    | some m => s.optChange fun o => { o with members := m.1, stay := m.2 }
    | none => s
  let s := match t.domain with
    | some k => s.putDomain k
    | none => s
  match t.join with
  | some j => s.exportDomain j.1 j.2
  | none => s

/-- The session closes, and the device changes to OPERATIONAL. -/
def State.commitEnd (s : State) : State := (s.abandonCeremony.setBit Reg.CARD.CER_DONE true).startChange .operational .manager true

/-- `CER_COMMIT` : needs Q_MET, and in a claim the rig key and the membership list. -/
def execCerCommit (s : State) : Result :=
  ceremonyCmd s fun s =>
    match s.cust.quorum with
    | none => s.cerRefuse 0xD0
    | some q =>
      let t := s.cust.staged
      if !q.met || (q.purpose = 1 && (t.rigKey.isNone || t.members.isNone)) then s.cerRefuse 0xD0
      else if q.purpose = 1 then
        match s.rillDraw (wireRill 3) with
        | (none, s) => s.refuse pgNaris 0xB6
        | (some m, s) =>
          match s.rillDraw (wireRill 2) with
          | (none, s) => s.refuse pgNaris 0xB6
          | (some r, s) => ((s.claimRoot m r).commitSteps q).commitEnd
      else (s.commitSteps q).commitEnd

/-- `ABANDON` : every staged step is discarded, and the device leaves CEREMONY (Table 16.2). -/
def execAbandon (s : State) : Result := ceremonyCmd s fun s => s.leaveCeremony .manager

end Sys2Proof.Machine
end

