-- ==== Sys2Proof/Machine/Tamper.lean ====
section
/-!
DEFINITION. The always-on domain (R499 to R520): evaluation cycles, sources, Shroud loops, responses, policy, monitor tests, the
RTC.
-/
set_option autoImplicit false

namespace Sys2Proof.Machine

/-! ### Policy entries (R507, R508) -/

/-- A policy entry in the layout of POL_STAGE; `floor` adds FLOOR as in POL_ACTIVE. -/
def Policy.word (p : Policy) (floor : Nat := 0) : Nat :=
  (if p.enable then 2 ^ 31 else 0) + p.resp * 2 ^ 24 + floor * 2 ^ 20 + (if p.lmode then 2 ^ 16 else 0)
    + (if p.polarity then 2 ^ 12 else 0) + p.debounce * 2 ^ 8

/-- The staged entry for a source; a field that the source does not have is kept as it is. -/
def State.stagedPolicy (s : State) (n : Nat) : Policy :=
  let old := s.policyOf n
  { enable := s.bit Reg.TAMPER.ENABLE, resp := s.reg Reg.TAMPER.RESP,
    lmode := if 8 ≤ n && n < 24 then s.bit Reg.TAMPER.LMODE else old.lmode,
    polarity := if n < 24 then s.bit Reg.TAMPER.POLARITY else old.polarity,
    debounce := if n < 8 then s.reg Reg.TAMPER.DEBOUNCE else old.debounce }

/-- A change lowers an entry (R508). -/
def lowers (o p : Policy) : Bool :=
  decide (p.resp < o.resp) || (o.enable && !p.enable) || (o.lmode && !p.lmode)
    || (o.enable && o.polarity != p.polarity) || (o.enable && decide (o.debounce < p.debounce))

/-- The refusal of an APPLY (R505, R507, R508), in the order of notes/assumptions/34.md. -/
def State.applyRefusal (s : State) (n : Nat) (p : Policy) : Option Nat :=
  if s.tamper.staged.isSome then some 0xC2
  else if s.mode = .terminated then some 0xC0
  else if 36 < n || (!srcFree n && p.enable != (s.policyOf n).enable) then some 0x01
  else if p.resp < srcFloor n then some 0xC1
  else if lowers (s.policyOf n) p && !(s.mode == .factory || s.mode == .unclaimed || s.mode == .ceremony) then some 0xC0
  else none

/-- A staged entry waits for the next evaluation cycle. -/
def State.stagePolicy (s : State) (n : Nat) (p : Policy) (seed : Nat) : State :=
  { s with tamper := { s.tamper with staged := some (n, p, seed) } }.setDetail pgTamper 4 true

/-- `APPLY` : a loop placed in PRBS mode takes a seed of wire rill 3, and where the rill refuses nothing changes (R505). -/
def execApplyPolicy (s : State) : Result :=
  let n := s.reg Reg.TAMPER.SRC_SEL
  let p := s.stagedPolicy n
  match s.applyRefusal n p with
  | some c => .next (s.refuse pgTamper c)
  | none =>
    if p.lmode then
      match s.rillDraw (wireRill 3) with
      | (none, s) => .next (s.refuse pgTamper 0xC3)
      | (some k, s) =>
        let v := leNat (randBytes k 4) % 2 ^ 31
        .next (s.stagePolicy n p (if v = 0 then 1 else v))
    else .next (s.stagePolicy n p 0)

/-- A staged entry takes effect at a cycle boundary; each applied change writes a POLICY record. -/
def State.policyEffect (s : State) : State :=
  match s.tamper.staged with
  | none => s
  | some (n, p, seed) =>
    let old := s.policyOf n
    let s := { s with tamper := { s.tamper with
      policy := SMap.put none s.tamper.policy n (if p = resetPolicy n then none else some p), staged := none,
      loops := if seed = 0 then s.tamper.loops else SMap.upd {} s.tamper.loops (n - 8) fun (l : LoopSt) => { l with lfsr := seed } } }
    let s := s.pushRec (s.wrec 0x02 n p.resp 0 (leBytes 4 old.word ++ leBytes 4 p.word))
    (s.setDetail pgTamper 4 false).raise pgTamper 5

/-! ### Time of the domain -/

/-- Length of an evaluation cycle in ns (R499). -/
def State.evalNs (s : State) : Nat := if s.tamper.mainPower then 500 else 30518

/-- One cycle of XTAL32 passes: RTC_SUB counts, and at a full second RTC_SEC and the time left of a quorum session. -/
def State.rtcCycle (s : State) : State :=
  let t := s.tamper
  if t.rtcSub + 1 < 32768 then { s with tamper := { t with rtcSub := t.rtcSub + 1 } }
  else
    let s := { s with tamper := { t with rtcSub := 0, rtcSec := (t.rtcSec + 1) % 2 ^ 32 } }
    match s.cust.quorum with
    | some _ => s.setReg Reg.CARD.Q_LEFT (s.reg Reg.CARD.Q_LEFT - 1)
    | none => s

/-- The RTC over one evaluation cycle: a cycle of XTAL32 on battery, 0.5 µs on main power (notes/assumptions/32.md). -/
def State.rtcRun (s : State) : State :=
  if !s.tamper.mainPower then s.rtcCycle
  else if s.tamper.frac + 16384 < 1000000 then { s with tamper := { s.tamper with frac := s.tamper.frac + 16384 } }
  else { s with tamper := { s.tamper with frac := s.tamper.frac + 16384 - 1000000 } }.rtcCycle

/-! ### Conditions (R502 to R505, Table 17.1) -/

/-- A temperature source with hysteresis. -/
def hyst (was : Bool) (above below : Bool) : Bool := above || (was && !below)

/-- Whether a source's condition holds, given whether it was asserted and how long its case has stayed. -/
def State.condition (s : State) (t : TamperIn) (n : Nat) : Bool :=
  let main := s.tamper.mainPower
  let was := bitOf s.tamper.asserted n
  if n < 8 then
    let held := SMap.get 0 s.tamper.caseNs n
    decide (0 < held) && decide ((s.policyOf n).debounce * 1000000 ≤ held)
  else if n < 24 then (SMap.get {} s.tamper.loops (n - 8)).tripped
  else if n = 26 then hyst was (t.tempSd > 420 || (main && t.tempCd > 420)) (t.tempSd < 400 && (!main || t.tempCd < 400))
  else if n = 27 then hyst was (t.tempSd < -180 || (main && t.tempCd < -180)) (t.tempSd > -160 && (!main || t.tempCd > -160))
  else if n = 28 then t.tempSd > 500 || (main && t.tempCd > 500)
  else if n = 35 then (if main then decide (t.vbat.val < 2000) else t.drop || decide (t.vbat.val < 2200))
  else if n = 36 then decide (t.vbat.val < 2400)
  else if n = 24 || n = 29 then main && t.sensors.getLsbD n && !s.pins.perst
  else if n = 31 || n = 33 then main && t.sensors.getLsbD n
  else if n = 30 then s.tamper.xtalOn && t.sensors.getLsbD n
  else n < 37 && t.sensors.getLsbD n

/-- The cases over one cycle: how long each has stayed at its tamper level. -/
def State.sampleCases (s : State) (cases : BitVec 8) : State :=
  { s with tamper := { s.tamper with caseNs := (List.range 8).foldl (fun m n =>
    if cases.getLsbD n = (s.policyOf n).polarity then SMap.put 0 m n (min 16000000 (SMap.get 0 m n + s.evalNs)) else SMap.put 0 m n 0) s.tamper.caseNs } }

/-- The readings of a cycle; VBAT_WARN is raised when VBAT falls below it (R520). -/
def State.takeReadings (s : State) (t : TamperIn) : State :=
  let w := s.reg Reg.TAMPER.VBAT_WARN
  let fell := decide (w ≤ s.tamper.vbat) && decide (t.vbat.val < w)
  let s := { s with tamper := { s.tamper with vbat := t.vbat, vhold := t.vhold, tempSd := t.tempSd, tempCd := t.tempCd } }
  if fell then s.raise pgTamper 6 else s

/-- DETAIL of an EVENT record (Table 17.5). The spec gives no code for the die of a temperature: that byte is free. -/
def State.eventDetail (s : State) (t : TamperIn) (n : Nat) : List Byte × State :=
  let b (v : Nat) : Byte := BitVec.ofNat 8 v
  if n < 8 then ([b (if t.cases.getLsbD n then 1 else 0), b (s.policyOf n).debounce], s)
  else if n < 24 then
    let l := SMap.get {} s.tamper.loops (n - 8)
    (leBytes 4 l.lfsr ++ leBytes 4 l.sensed, s)
  else if n = 24 then ([t.railCd.1, 0] ++ leBytes 2 t.railCd.2.toNat, s)
  else if n = 25 then ([t.railSd.1, 0] ++ leBytes 2 t.railSd.2.toNat, s)
  else if n = 26 || n = 27 || n = 28 then
    let cd := s.tamper.mainPower && (if n = 27 then t.tempCd ≤ t.tempSd else t.tempSd ≤ t.tempCd)
    let (k, s) := s.draw
    ([b (Config.freeNat k), 0] ++ leBytes 2 (signed16 (if cd then t.tempCd else t.tempSd)), s)
  else ([], s)

/-! ### Responses (R506, R509, R510, R512, R513) -/

/-- The level of an event: CELL_REMOVED without main power is CLEAR_ALL whatever the policy (R513). -/
def State.respOf (s : State) (n : Nat) : Nat := if n = 35 && !s.tamper.mainPower then 3 else (s.policyOf n).resp

/-- The level of the response that still runs (R510). -/
def State.running (s : State) : Nat :=
  match s.glob.change with
  | some c => if c.cause = .clearAll then 3 else if c.cause = .clearVolatile then 2 else 0
  | none => 0

/-- The firmware has not started yet: a CLEAR_VOLATILE waits for boot step 5 (R506). -/
def State.beforeFirmware (s : State) : Bool := decide (s.reg Reg.GLOBAL.BOOT_STAGE < 5) && !s.glob.booted

/-- CLR_VOL is asserted: the wipe of R18 starts. It stays until the wipe has run. -/
def State.clearVolatile (s : State) : State :=
  let s := { s with tamper := { s.tamper with clrVol := true } }
  if s.beforeFirmware then { s with tamper := { s.tamper with clearPending := true, clearSeq := s.tamper.respSeq } }
  else
    let s := s.containment .clearVolatile
    if s.glob.change.isSome then s else { s with tamper := { s.tamper with clrVol := false } }

/-- The response of a level with main power (Table 17.2); CLEAR_ALL includes what CLEAR_VOLATILE does, by its own wipe. -/
def State.respondMain (s : State) (level : Nat) : State :=
  let s := if 1 ≤ level then s.raiseAlert else s
  if level = 2 then s.clearVolatile
  else if level = 3 then
    let s := { s with tamper := { s.tamper with clrVol := true } }.clearAll .clearAll
    if s.glob.change.isSome then s else { s with tamper := { s.tamper with clrVol := false } }
  else s

/-- The response of a level on battery (R512). -/
def State.respondBattery (s : State) (level : Nat) : State :=
  let t := s.tamper
  let t := if 1 ≤ level then { t with alertPending := true, alertSeq := t.respSeq } else t
  let t := if 2 ≤ level then { t with clearPending := true, clearSeq := t.respSeq } else t
  let s := { s with tamper := t }
  if level = 3 then { s.setRoot 0 1 none with tamper := { (s.setRoot 0 1 none).tamper with eraseBanks := true } } else s

/-- The root mask of a level-3 response is zeroized before any record of the cycle is written (R506); its ROOT record follows
the records of the events. -/
def State.respond (s : State) (level : Nat) : State :=
  if s.tamper.mainPower then s.respondMain level else s.respondBattery level

/-- FLAGS of an event's record. -/
def eventFlags (battery merged applied : Bool) (level : Nat) (vhold test : Bool) : Nat :=
  let b (v : Bool) (n : Nat) : Nat := if v then 2 ^ n else 0
  b battery 0 + b merged 1 + b (merged && applied) 2 + b (battery && applied && decide (1 ≤ level)) 3
    + b (battery && applied && decide (2 ≤ level)) 4 + b vhold 5 + b test 6

/-- Record one event: a source with a record not yet written counts only (R510). The record of the applied event is the one
that sets the pending flags. -/
def State.recordEvent (s : State) (t : TamperIn) (merged : Bool) (lead level : Nat) (n : Nat) (test : Bool := false) : State :=
  let F := if n < 32 then Reg.TAMPER.LATCHED_LO else Reg.TAMPER.LATCHED_HI
  let s := ((s.setReg F (orBit (s.reg F) (n % 32))).inc Reg.TAMPER.EVENT_CNT).raise pgTamper 0
  let at' := s.tamper.recs.findIdx fun r => r.typ == 1 && r.source == n
  if at' < s.tamper.recs.length then
    if n = lead && decide (0 < level) then { s with tamper := { s.tamper with respSeq := s.witness.wseq + at' } } else s
  else
    let (d, s) := s.eventDetail t n
    let cell := n == 35 && !s.tamper.mainPower
    let r := s.wrec 0x01 n (s.policyOf n).resp (eventFlags (!s.tamper.mainPower) merged (n == lead) level cell test) d
    let s := if cell then { s with tamper := { s.tamper with recs := r :: s.tamper.recs.take 3 } } else s.pushRec r
    if n = lead && decide (0 < level) then
      { s with tamper := { s.tamper with respSeq := if cell then s.witness.wseq else s.lastWseq } }
    else s

/-- The events of one cycle, taken together: the strongest level is applied once, unless a response as strong still runs
(R509, R510). -/
def State.takeEvents (s : State) (t : TamperIn) (ev : List Nat) (test : Bool := false) : State :=
  let top := ev.foldl (fun m n => max m (s.respOf n)) 0
  let level := if s.running < top then top else 0
  let lead := if top = 0 || 0 < level then (ev.find? fun n => s.respOf n == top).getD 64 else 64
  let s := ev.foldl (fun s n => s.recordEvent t (decide (1 < ev.length)) lead level n test) s
  if ev.isEmpty then s else s.respond level

/-- `TAMPER_EVAL` : one evaluation cycle (R499, R502). A source under test is judged again after its test (R515). -/
def execTamperEval (t : TamperIn) (s : State) : Result :=
  let s := { s.policyEffect.rtcRun with witness := { s.witness with arb := false } }
  let s := (s.takeReadings t).sampleCases t.cases
  let live (n : Nat) : Bool := s.tamper.test != some n
  let now := (List.range 37).filter fun n => live n && s.condition t n
  let ev := now.filter fun n => !bitOf s.tamper.asserted n && (s.policyOf n).enable
  let s := { s with tamper := { s.tamper with asserted := now.foldl (fun m n => m ||| 2 ^ n) 0 } }
  .next (s.takeEvents t ev)

/-! ### Shroud loops (R504) -/

/-- The level that a loop drives: the output of its LFSR, or POLARITY in STATIC mode. -/
def LoopSt.driven (l : LoopSt) (p : Policy) : Bool := if p.lmode then bitOf l.lfsr 30 else p.polarity

/-- The LFSR of x³¹ + x²⁸ + 1 steps. -/
def lfsrStep (v : Nat) : Nat := (2 * v + (if bitOf v 30 != bitOf v 27 then 1 else 0)) % 2 ^ 31

/-- One sample of a loop: STATIC trips on two consecutive differing samples, PRBS on 2 of any 8; 64 matching samples clear it. -/
def LoopSt.sample (l : LoopSt) (p : Policy) (b : Bool) : LoopSt :=
  let diff := l.driven p != b
  let hist := (diff :: l.hist).take 8
  let matched := if diff then 0 else min 64 (l.matched + 1)
  let bad := if p.lmode then decide (2 ≤ (hist.filter id).length) else hist.take 2 == [true, true]
  { lfsr := if p.lmode then lfsrStep l.lfsr else l.lfsr, hist := hist, matched := matched,
    sensed := (2 * l.sensed + (if b then 1 else 0)) % 2 ^ 32,
    tripped := bad || (l.tripped && decide (matched < 64)) }

/-- `LOOP_SAMPLE` : loop `n` drives and senses once per XTAL32 cycle. -/
def execLoopSample (n : Fin 16) (b : Bool) (s : State) : Result :=
  .next { s with tamper := { s.tamper with
    loops := SMap.upd {} s.tamper.loops n fun (l : LoopSt) => l.sample (s.policyOf (8 + n)) b } }

/-! ### After a CLEAR_ALL -/

/-- The physical sectors of a bank that hold anything. -/
def State.usedSectors (s : State) (bank : Nat) : List Nat :=
  ((s.flash.mem.filterMap fun (e : Nat × Byte) =>
      let k := e.1 / 4096
      if k / 2112 = bank then some (k % 2112) else none)
    ++ s.flash.progd.filterMap fun (e : Nat × Bool) =>
      let k := e.1 / 256
      if k / 2112 = bank then some (k % 2112) else none).eraseDups

/-- `BANK_ERASE_AFTER_CLEAR` : Naris erases banks 2 and 3 after a CLEAR_ALL; the erase resumes at the next boot (R506). -/
def execBankEraseAfterClear (s : State) : Result :=
  if !s.tamper.eraseBanks || !s.flash.ready then .next s
  else
    let s := [2, 3].foldl (fun s bank => (s.usedSectors bank).foldl (fun s x => s.rewrite bank x) s) s
    .next { s with tamper := { s.tamper with eraseBanks := false } }

/-! ### Monitor tests (R515) -/

/-- `TEST_GO` : TEST_CMD with GO. -/
def execTestGo (src : Fin 64) (s : State) : Result :=
  if s.tamper.test.isSome then .next (s.refuse pgTamper 0xC4)
  else if 36 < src.val || !(s.policyOf src).enable then .next (s.refuse pgTamper 0x01)
  else .next (({ s with tamper := { s.tamper with test := some src.val } }.setBit Reg.TAMPER.BUSY true).setDetail pgTamper 5 true)

/-- No reading is taken while a test fails: the event of a failed test carries the inputs as they stand. -/
def State.idleInput (s : State) : TamperIn :=
  { cases := 0, sensors := 0, tempSd := s.tamper.tempSd, tempCd := s.tamper.tempCd,
    vbat := Fin.ofNat 65536 s.tamper.vbat, vhold := Fin.ofNat 65536 s.tamper.vhold, drop := false,
    railCd := (0, 0), railSd := (0, 0) }

/-- `TEST_END` : PASS where the monitor asserted; otherwise its configured response is applied, and the EVENT record carries
TEST. The source is then judged again from its real input. -/
def execTestEnd (pass : Bool) (s : State) : Result :=
  match s.tamper.test with
  | none => .next s
  | some n =>
    let s := { s with tamper := { s.tamper with test := none, asserted := clrBit s.tamper.asserted n } }
    let s := ((s.setBit Reg.TAMPER.BUSY false).setReg Reg.TAMPER.LAST_SRC n).setReg Reg.TAMPER.RESULT (if pass then 1 else 2)
    let s := s.setDetail pgTamper 5 false
    let s := (s.pushRec (s.wrec 0x03 n (s.policyOf n).resp 0 [if pass then 1 else 2])).raise pgTamper 3
    .next (if pass then s else (s.raise pgTamper 4).takeEvents s.idleInput [n] true)

/-! ### The RTC (R516, R563) -/

/-- `SET` : RTC_CMD.SET. RTC_VALID stays 0 until the crystal has run. -/
def execRtcSet (s : State) : Result :=
  let v := s.reg Reg.TAMPER.RTC_SET_SEC
  let t := s.tamper
  if s.mode = .terminated then .next (s.refuse pgTamper 0xC0)
  else if v < t.rtcSec && !(s.mode == .unclaimed || s.mode == .ceremony) then .next (s.refuse pgTamper 0xC5)
  else .next ({ s with tamper := { t with rtcSec := v, rtcSub := 0, rtcValid := t.xtalOn } }.witness0 0x07 (leBytes 4 t.rtcSec ++ leBytes 4 v))

/-- `XTAL32_START` : the crystal has run 1,024 cycles after a cold start. -/
def execXtal32Start (s : State) : Result := .next { s with tamper := { s.tamper with xtalOn := true } }

end Sys2Proof.Machine
end

