-- ==== Sys2Proof/Machine/Tick.lean ====
section
/-!
DEFINITION. The tick (R37): the actions of Table 2.2 in their order, and what counts ticks (R35).
-/
set_option autoImplicit false

namespace Sys2Proof.Machine

/-! ### Cycles 66 to 70 -/

/-- A rig takes effect (R50, R51, R316, R352, R398). -/
def State.rigTakes (s : State) : State :=
  let was := s.rig.ready.isSome
  let s := s.rigGuard
  if was && s.rig.ready.isNone then ((s.livingParts.foldl State.startChain s).fitIntCycle).stayRigGuard true
  else s.stayRigGuard false

/-- The mirrored commands whose guard this is: the lower twin's first, each twin's in the order of acceptance (R397). -/
def State.cfgDue (s : State) : List CfgMsg :=
  let due := s.stay.cfg.filter fun m => decide (m.atTick ≤ s.frame.ticks)
  (due.filter fun m => m.lower) ++ due.filter fun m => !m.lower

/-- A mirrored command of the device itself. -/
def State.ownCfg (s : State) (m : CfgMsg) : Bool := m.lower == s.lowerTwin

/-- A mirrored partition command takes effect. -/
def State.cfgPart (s : State) (m : CfgMsg) : State :=
  match m.cmd with
  | .part op p q res =>
    let s := s.applyPart op p q res (s.ownCfg m)
    if s.ownCfg m then s.partDone else s
  | .exported p =>
    let s := (s.setPart p { s.part p with st := .exported }).cfgApplied
    if s.ownCfg m then s.partDone else s
  | .commit _ _ => s

/-- A mirrored COMMIT takes effect; the bound items that it concerns are gathered. -/
def State.cfgCommit (acc : List Nat × State) (m : CfgMsg) : List Nat × State :=
  match m.cmd with
  | .commit o b =>
    let (v, s) := acc.2.putTables o b
    let s := s.cfgApplied
    (acc.1 ++ v, if s.ownCfg m then s.commitDone else s)
  | _ => acc

/-- The own COMMIT has been mirrored and waits for the twin's guard. -/
def State.commitMirrored (s : State) : Bool := s.stay.cfg.any fun m => s.ownCfg m && match m.cmd with
  | .commit _ _ => true
  | _ => false

/-- Partition creations, resets and destroys, then ownership and bindings; answers the bound items that a change
concerns. -/
def State.configGuard (s : State) : List Nat × State :=
  let due := s.cfgDue
  let plain := s.adm.commit && !s.commitMirrored
  let s := due.foldl State.cfgPart s.partCmdGuard
  let (v, s) := s.adoptGuard
  let (w, s) := due.foldl State.cfgCommit (v, s)
  let s := { s with stay := { s.stay with cfg := s.stay.cfg.filter fun m => !decide (m.atTick ≤ s.frame.ticks) } }
  if plain then
    let (x, s) := s.putTables s.adm.ownerSh s.adm.bindingSh
    (w ++ x, s.cfgApplied.commitDone)
  else (w, s)

/-- Items of quiesced partitions that are not admitted complete with PART_QUIESCED, and open batches whose items have ended
close (R365). -/
def State.quiesceGuard (s : State) : State :=
  let ps := s.parts.tab.filterMap fun (e : Nat × Part) => if e.2.quiesce then some e.1 else none
  let rs (s : State) (p : Nat) : List Nat := (s.ringsOf p).map Prod.fst
  ps.foldl (fun s p =>
    let s := s.endWhere (fun i => i.part == p && i.place.unadmitted) 0x10
    ((rs s p).foldl State.flushBatches s).settle p) s

/-! ### Cycles 71 to 90: the admission decision (R59) -/

/-- The port interface of a Sheave as an admission of a new item leaves it (R584). -/
def State.clearPort (s : State) (y l : Nat) : State := s.setSheave y l { s.sheave y l with port := {} }

/-- HEAD_IN and HEAD_FRAME are written into the chain block of an audited class (R315). -/
def State.chainHead (s : State) (k : Nat) (buf : Nat) (c : ClassEnt) (p : Nat) : State :=
  if c.audited then
    let v := s.part p
    s.ymemWrite (k / 64) (c.block buf) (fitBytes 32 v.head ++ leBytes 8 v.headFrame)
  else s

/-- Admit a bound item. -/
def State.admitItem (s : State) (i : Item) (k : Nat) (e : SlotEnt) : State :=
  let s := { s with adm := { s.adm with epoch := SMap.put 0 s.adm.epoch k ((s.epochOf k + 1) % 4) } }
  let s := s.clearPort (k / 64) e.lsheave
  let s := match s.classEnt i.cls with
    | some c => s.chainHead k (e.buf i.place.bufB) c i.part
    | none => s
  s.updItem i.id fun i => { i with
    place := .running k i.place.bufB, frameNo := s.frame.no, frames := 1, carriedNow := false, posted := none, latch := none }

/-- Resume a carried item. -/
def State.resume (s : State) (i : Item) (k : Nat) : State :=
  s.updItem i.id fun i => { i with place := .running k i.place.bufB, frames := i.frames + 1, carriedNow := false }

/-- A bound item may be admitted to its slot at this tick (R59, R66, R67, R147, R492). -/
def State.mayAdmit (s : State) (i : Item) (k : Nat) (e : SlotEnt) : Bool :=
  let carry := ((s.classEnt e.cls).map ClassEnt.carry).getD false
  s.admitting && i.inDone && decide (i.f < s.frame.ticks) && !s.slotVoid k e && !(carry && s.poolBlocks e)

/-- The decision for one slot: `n` counts admissions, `idle` the slots that idle. -/
def State.decideSlot (acc : Nat × Nat × State) (x : Nat × SlotEnt) : Nat × Nat × State :=
  let (n, idle, s) := acc
  match s.holder x.1 with
  | some i => (n, idle, match i.place with
    | .parked _ _ => s.resume i x.1
    | _ => s)
  | none =>
    match s.boundItem x.1 with
    | some i => if s.mayAdmit i x.1 x.2 then (n + 1, idle, s.admitItem i x.1 x.2) else (n, idle + 1, s)
    | none => (n, idle + 1, s)

/-- The admission decision for every valid slot. -/
def State.decideAll (s : State) : State :=
  let (n, idle, s) := (slotOrder s.validSlots).foldl State.decideSlot (0, 0, s)
  (s.setReg Reg.ADMIT.ADMIT_LAST n).setReg Reg.ADMIT.IDLE_LAST idle

/-! ### Cycles 91 to 100 -/

/-- D of an item (R67). -/
def State.deadline (s : State) (i : Item) : Nat :=
  let d := descWord i.desc 2 % 256
  if d = 0 then ((s.classEnt i.cls).map ClassEnt.defDeadline).getD 0 else d

/-- The item's admission window ended at this tick. -/
def State.late (s : State) (i : Item) : Bool :=
  i.place.unadmitted && (s.classEnt i.cls).isSome && decide (i.f + s.deadline i ≤ s.frame.ticks)

/-- Items whose admission window ended complete with DROPPED_LATE. -/
def State.dropLate (s : State) : State :=
  (s.adm.items.filter s.late).foldl (fun s i => ((s.inc Reg.ADMIT.DROP_LATE_CNT).raise pgAdmit 2).endOpen i 0x02) s

/-! ### What else counts ticks -/

/-- DEG_MODE, DEG_PART and DEG_CLASS take effect (R493). -/
def State.degGuard (s : State) : State :=
  let tab (F : Nat → Field) : SMap Nat := (List.range 8).foldl (fun m i => SMap.put 0 m i (s.reg (F i))) []
  { s with glob := { s.glob with
      degMode := s.bit Reg.GLOBAL.DEG_MODE, degPart := tab Reg.GLOBAL.DEG_PART, degClass := tab Reg.GLOBAL.DEG_CLASS } }

/-- Rills, the health failure and the recovery window count the tick (R415, R423, R489). -/
def State.countTick (s : State) : State :=
  let r := s.spring.rills.map fun (e : Nat × Rill) => if e.2.seeded then (e.1, { e.2 with ticks := min 1024 (e.2.ticks + 1) }) else e
  let s := { s with spring := { s.spring with rills := r, hfTicks := if s.spring.healthFail then s.spring.hfTicks + 1 else 0 } }
  { s with glob := { s.glob with window := s.glob.window.map fun w => { w with left := w.left - 1 } } }

/-- A unit operation that runs on over the tick, in cycles of the new frame. -/
def Flight.shift (f : Flight) (len : Nat) : Flight :=
  { f with start := f.start - len, stop := f.stop - len, r := f.r - len, starts := f.starts.map (· - len) }

/-- The link's view of the frame that starts (R391, R400); a retrain that has lasted longer than three frames loses the twin (R382). -/
def State.stayTick (s : State) : State :=
  let s := s.dupAge
  let s := if s.stay.lstate = 3 then { s with stay := { s.stay with ownDigest := s.configDigest } } else s
  if s.stay.retrain.any fun t => decide (t + 3 < s.frame.ticks) then s.declareLost else s

/-- Cycles 0 to 70. -/
def State.tickGuard (s : State) : List Nat × State :=
  let len := s.flCycles
  let s := { s with flights := s.flights.map fun (f : Flight) => f.shift len }
  let s := { s with unitPuts := [] }.frameStep.fsyncRise
  let s := s.mapGuard.artSwap
  let (v, s) := s.rigTakes.admitPoll.configGuard
  (v, s.withdrawals.quiesceGuard)

/-- Cycles 71 to 100; FSYNC_OUT falls as the guard ends (R80). -/
def State.tickAdmit (s : State) (void : List Nat) : State :=
  let s := s.decideAll.dropLate
  let s := void.foldl State.release s
  ((s.at' 100).setFsync false).bindAll.checkOff

/-- The other effects of the guard. -/
def State.tickRest (s : State) : State :=
  let s := s.cleatGuard.degGuard.countTick
  let s := s.dirtyDone.dirtyTick
  (s.stayTick.raise pgFrame 0).changeEnd

/-- `FRAME_TICK` : the tick of frame m, once the frame timer runs (R33). -/
def execFrameTick (s : State) : Result :=
  if !s.frame.running then .next s
  else
    let (v, s) := s.tickGuard
    .next (s.foldDue.tickAdmit v).tickRest

end Sys2Proof.Machine
end

