-- ==== Sys2Proof/Machine/RegView.lean ====
section
/-!
DEFINITION. What a register reads as (R10, R12, R570 to R573, R580, R581): the header of each page, fields that are held, and
fields that show another part of the state. What a read does beside answering stands in `State.readReg` (R579, R495, R516).
-/
set_option autoImplicit false

namespace Sys2Proof.Machine

/-! ### Pages -/

/-- The page of yard blocks (R151). -/
def yardPage (p : Nat) : Bool := decide (4 ≤ p) && decide (p ≤ 7)

/-- The yard of an offset in the yard pages. -/
def yardAt (off : Nat) : Nat := 16 * (off / 4096 - 4) + off % 4096 / 256

/-- The header key of the block at an offset. -/
def blockKey (off : Nat) : Nat := if yardPage (off / 4096) then off / 256 else 16 * (off / 4096)

/-- The offset within the block. -/
def blockOff (off : Nat) : Nat := if yardPage (off / 4096) then off % 256 else off % 4096

/-- PAGE_KIND (Table 20.4, R151); IDREV on the GLOBAL page (R570). -/
def pageKind (off : Nat) : Nat :=
  let p := off / 4096
  if p = 0 then 0x10245910
  else if yardPage p then 0x400 + yardAt off
  else if p = 0x0D then 0x0C01
  else if p = 0x10 then 0x0F01
  else 256 * p

/-- A header register at block offset `o`. -/
def Hdr.word (h : Hdr) (kind o : Nat) : Nat :=
  if o = 0x00 then kind
  else if o = 0x04 then (if h.enable then 1 else 0)
  else if o = 0x08 then h.st + 16 * h.detail
  else if o = 0x0C then h.intStat
  else if o = 0x10 then h.intEn
  else if o = 0x18 then h.errCode
  else if o = 0x1C then h.errInfo
  else if o = 0x20 then (if h.lock then 1 else 0)
  else 0

/-- The fields of a page (its register tables). -/
def pageFields (p y : Nat) : List Field :=
  if p = 0x00 then Reg.GLOBAL.all else if p = 0x01 then Reg.FRAME.all else if p = 0x02 then Reg.ADMIT.all
  else if yardPage p then Reg.YARD.all y
  else if p = 0x08 then Reg.CIPHER.all else if p = 0x09 then Reg.HASH.all else if p = 0x0A then Reg.BNE.all
  else if p = 0x0B then Reg.PU.all else if p = 0x0C then Reg.CLEAT0.all else if p = 0x0D then Reg.CLEAT1.all
  else if p = 0x0E then Reg.SPRING.all else if p = 0x11 then Reg.ART.all else if p = 0x12 then Reg.CVU.all
  else if p = 0x13 then Reg.FLASH.all else if p = 0x14 then Reg.STAY.all else if p = 0x15 then Reg.HOSTIF.all
  else if p = 0x16 then Reg.PART.all else if p = 0x17 then Reg.TAMPER.all else if p = 0x18 then Reg.WITNESS.all
  else if p = 0x19 then Reg.CARD.all else if p = 0x1A then Reg.SPARES.all else if p = 0x1B then Reg.FAULT.all
  else if p = 0x1C then Reg.NARIS.all
  else if p = 0x10 then [Reg.RILL.RESEED_CNT, Reg.RILL.REFUSE_CNT]
  else []

/-- The fields of one register. -/
def fieldsAt (off : Nat) : List Field := (pageFields (off / 4096) (yardAt off)).filter fun F => F.off == off

/-- A register from the fields it holds; what is WO reads zero (R12). -/
def State.heldWord (s : State) (off : Nat) : Nat :=
  (fieldsAt off).foldl (fun v F => if F.acc = .wo then v else v ||| (s.reg F <<< F.lo)) 0

/-! ### Shown fields -/

/-- A bit as a number. -/
def bitAt (n : Nat) (b : Bool) : Nat := if b then 2 ^ n else 0

/-- Word `i` of a byte string, little-endian, zero past its end. -/
def wordAt (bs : List Byte) (i : Nat) : Nat := leNat (cut bs (4 * i) 4)

/-- Physical units of logical `4i` to `4i + 3`, a byte each with `w` bits. What it shows for a void unit is free
(notes/assumptions/39.md). -/
def mapWord (phys : Nat → Option Nat) (w i : Nat) : Nat :=
  (List.range 4).foldl (fun v k => v + (phys (4 * i + k)).getD (Config.voidMap (2 ^ w) (4 * i + k) % 2 ^ w) * 2 ^ (8 * k)) 0

/-- Bits of a list of unit numbers, 32 to a word. -/
def unitBits (l : List Nat) (i : Nat) : Nat := (l.filter fun u => u / 32 == i).foldl (fun v u => v ||| 2 ^ (u % 32)) 0

/-- GLOBAL (Table 16.9): MODE and PREV_MODE read 0 until boot has decided them. -/
def State.viewGlobal (s : State) (o : Nat) : Option Nat :=
  let g := s.glob
  if o = 0x100 then
    some (if g.booted then s.mode.num + g.prevMode.num * 2 ^ 8 + bitAt 16 g.change.isSome else bitAt 16 g.change.isSome)
  else if o = 0x164 then
    some (bitAt 5 g.memUe + bitAt 4 s.hot + bitAt 3 s.tamperStanding + bitAt 2 (!g.void.isEmpty) + bitAt 1 s.spring.healthFail
      + bitAt 0 s.standing)
  else if o = 0x178 then some (g.bootCnt % 2 ^ 32)
  else if o = 0x17C then some (g.bootCnt / 2 ^ 32 % 2 ^ 32)
  else none

/-- FRAME (Table 2.13). -/
def State.viewFrame (s : State) (o : Nat) : Option Nat :=
  let f := s.frame
  let r := s.rig.eff
  if o = 0x100 then some (f.no % 2 ^ 32)
  else if o = 0x104 then some (f.no / 2 ^ 32)
  else if o = 0x108 then some f.cycle
  else if o = 0x10C then some (f.len + s.flCycles * 2 ^ 16)
  else if o = 0x12C then some (f.hwm % 2 ^ 32)
  else if o = 0x130 then some (f.hwm / 2 ^ 32)
  else if 0x140 ≤ o && o < 0x160 then some (wordAt s.rigHash ((o - 0x140) / 4))
  else if o = 0x160 then some ((r.map Rig.version).getD 0)
  else if o = 0x164 then some (s.heldWord 0x1164 + s.rig.effSrc * 2 ^ 8)
  else if o = 0x168 then some ((r.map Rig.rigId).getD 0 % 2 ^ 32)
  else if o = 0x16C then some ((r.map Rig.rigId).getD 0 / 2 ^ 32)
  else none

/-- Carry slots held: slots with a parked item, or with a running item that was carried. -/
def State.carryUsed (s : State) : Nat :=
  (s.adm.items.filter fun i => match i.place with
    | .parked _ _ => true
    | .running _ _ => i.carriedEver
    | _ => false).length

/-- An owner or binding entry in the layout of its register. -/
def ownWord (v : Nat) : Nat := if v = 0 then 0 else 2 ^ 31 + (v - 1)

/-- The slot that OWN_SEL selects. -/
def State.ownSel (s : State) : Nat := s.reg Reg.ADMIT.OWN_YARD * 64 + s.reg Reg.ADMIT.OWN_SLOT

/-- The binding that BIND_SEL selects. -/
def State.bindSel (s : State) : Nat := bindKey (s.reg Reg.ADMIT.BIND_PART) (s.reg Reg.ADMIT.BIND_CLASS)

/-- ADMIT (Table 2.15). -/
def State.viewAdmit (s : State) (o : Nat) : Option Nat :=
  let shadow (m idle : SMap Nat) (k : Nat) : Nat := if SMap.get 0 m k = 0 then SMap.get 0 idle k else ownWord (SMap.get 0 m k)
  if o = 0x100 then some (s.adm.items.length + s.host.held.length)
  else if o = 0x104 then some s.carryUsed
  else if o = 0x10C then some (shadow s.adm.ownerSh s.adm.ownerIdle s.ownSel)
  else if o = 0x110 then some (ownWord (SMap.get 0 s.adm.owner s.ownSel))
  else if o = 0x118 then some (shadow s.adm.bindingSh s.adm.bindingIdle s.bindSel)
  else if o = 0x11C then some (ownWord (SMap.get 0 s.adm.binding s.bindSel))
  else none

/-- A yard block (Table 4.6). -/
def State.viewYard (s : State) (y o : Nat) : Option Nat :=
  let v := s.yard y
  if 0x40 ≤ o && o < 0x50 then some (mapWord v.phys 5 ((o - 0x40) / 4))
  else if o = 0x50 then some (v.gen + v.spare.getD 0x1F * 2 ^ 16)
  else if o = 0x54 then some (unitBits v.retired 0)
  else if o = 0x88 then
    let w := v.swap
    some (w.dst + w.frm * 2 ^ 8 + w.lsheave * 2 ^ 16 + bitAt 27 w.retire + bitAt 28 w.auto
      + bitAt 29 (w.pending && w.preloaded && s.carryHolds y w.lsheave) + bitAt 30 w.preloaded + bitAt 31 w.pending)
  else none

/-- SPARES (Table 4.8). -/
def State.viewSpares (s : State) (o : Nat) : Option Nat :=
  let left (k : Nat) : Nat := (s.pool k).spares.length
  let ret (k i : Nat) : Option Nat := some (unitBits (s.pool k).retired i)
  if o = 0x104 then
    some (left 0 + left 2 * 2 ^ 8 + left 3 * 2 ^ 12 + left 1 * 2 ^ 16
      + ((List.range 64).filter fun y => (s.yard y).spare.isSome).length * 2 ^ 24)
  else if 0x110 ≤ o && o < 0x130 then some (mapWord (s.pool 0).phys 6 ((o - 0x110) / 4))
  else if 0x130 ≤ o && o < 0x150 then some (mapWord (s.pool 2).phys 6 ((o - 0x130) / 4))
  else if 0x150 ≤ o && o < 0x170 then some (mapWord (s.pool 3).phys 6 ((o - 0x150) / 4))
  else if 0x170 ≤ o && o < 0x1B0 then some (mapWord (s.pool 1).phys 7 ((o - 0x170) / 4))
  else if o = 0x1B0 then ret 0 0
  else if o = 0x1B4 then ret 0 1
  else if o = 0x1B8 then ret 2 0
  else if o = 0x1BC then ret 2 1
  else if o = 0x1C0 then ret 3 0
  else if o = 0x1C4 then ret 3 1
  else if o = 0x1C8 then ret 1 0
  else if o = 0x1CC then ret 1 1
  else if o = 0x1D0 then ret 1 2
  else none

/-- MASK_READY and BLIND_READY beside the field that is held: the wire rill serves (Table 5.7, Table 6.13). -/
def State.viewReady (s : State) (off w : Nat) : Option Nat := some (s.heldWord off + bitAt 0 (s.rillServes (wireRill w)))

/-- BNE (Table 6.13): the region of REGION_SEL. -/
def State.viewBne (s : State) (o : Nat) : Option Nat :=
  let p := s.reg Reg.BNE.REGION_SEL
  let v := s.part p
  let has := v.st != .none && v.opmSlots != 0
  if o = 0x104 then some (if has then v.opmBase + 2 ^ 31 else 0)
  else if o = 0x108 then some (if has then v.opmSlots + v.opmSlotLen * 2 ^ 24 else 0)
  else if o = 0x10C then
    some (s.bne.slots.filter fun (e : Nat × OpSlot) => e.1 / 65536 == p && e.2.stale).length
  else if o = 0x158 then s.viewReady 0xA158 1
  else none

/-- Entries that await their vault record: those whose last record that waits, or is being programmed, is an entry record (R280). -/
def State.vaultPending (s : State) : Nat :=
  let rs := ((s.cleat.vaultProg.map Prod.snd).getD []) ++ s.cleat.vaultOpen
  ((rs.map VaultRec.head).eraseDups.filter fun h =>
    ((rs.filter fun r => r.head == h).getLast?).any VaultRec.isEntry && (s.entry h).isSome).length

/-- CLEAT page 0x0C (Table 8.9). -/
def State.viewCleat (s : State) (o : Nat) : Option Nat :=
  let c := s.cleat
  let ents : List Entry := c.ents.filterMap fun (e : Nat × Option Entry) => e.2
  if o = 0x100 then some ((ents.map Entry.rows).foldl (· + ·) 0)
  else if o = 0x104 then some s.pendingRows
  else if o = 0x108 then some s.rowSpares
  else if o = 0x10C then some s.vaultPending
  else if o = 0x110 then
    some (s.reg Reg.CLEAT0.VAULT_STATE + bitAt 4 c.vaultKey.isSome
      + (if s.allocRange.2 = 131072 then 0 else if s.allocRange.1 = 0 then 1 else 2) * 2 ^ 8)
  else if o = 0x118 then some (ents.filter fun e => e.mirror == 2).length
  else none

/-- SPRING (Table 13.4); the test pattern's registers read zero outside FACTORY (R424). -/
def State.viewSpring (s : State) (o : Nat) : Option Nat :=
  let g := s.spring
  let bits (p : Cell → Bool) : Nat := unitBits (s.cellsWith p) 0
  let c := s.cell (s.reg Reg.SPRING.CELL_SEL)
  let live := (s.cellsWith fun c => !c.retired).length
  if o = 0x100 then
    some (bitAt 0 g.seedReady + bitAt 1 g.startupDone + bitAt 2 g.healthFail + bitAt 3 g.testpat + (min 255 g.hfTicks) * 2 ^ 8)
  else if o = 0x104 then some (bits Cell.feeding + bits Cell.retired * 2 ^ 16)
  else if o = 0x108 then
    some (bits Cell.suspended + (if g.startupDone then s.spareCells.length else live - 8) * 2 ^ 16)
  else if o = 0x10C then some (s.reg Reg.SPRING.CELL_SEL + bitAt 8 c.estValid)
  else if o = 0x110 then some (c.bias + signedField 16 c.corr * 2 ^ 16)
  else if o = 0x114 then some (c.apt + c.rct * 2 ^ 16)
  else if o = 0x140 && s.mode != .factory then some 0
  else if 0x144 ≤ o && o < 0x164 && s.mode != .factory then some 0
  else none

/-- The status word of a rill (Table 13.6). -/
def State.rillWord (s : State) (r : Nat) : Nat :=
  let v := s.rill r
  (min (2 ^ 20) v.calls) + bitAt 29 v.due + bitAt 30 (s.rillRefuses r && v.seeded) + bitAt 31 (s.rillServes r)

/-- RILL page 0x0F: the partition rills. -/
def State.viewRill0 (s : State) (o : Nat) : Option Nat :=
  if 0x100 ≤ o && o < 0x500 then some (s.rillWord ((o - 0x100) / 4)) else none

/-- RILL page 0x10: the yard rills and the wire rills. -/
def State.viewRill1 (s : State) (o : Nat) : Option Nat :=
  if 0x100 ≤ o && o < 0x200 then some (s.rillWord (yardRill ((o - 0x100) / 4)))
  else if 0x200 ≤ o && o < 0x210 then some (s.rillWord (wireRill ((o - 0x200) / 4)))
  else none

/-- The words of a rule: BASE, LIMIT, MATCH, PART (Table 14.8). -/
def Rule.word (u : Rule) (i : Nat) : Nat :=
  if i = 0 then u.base % 2 ^ 26 * 64
  else if i = 1 then u.base / 2 ^ 26
  else if i = 2 then u.limit % 2 ^ 26 * 64
  else if i = 3 then u.limit / 2 ^ 26
  else if i = 4 then
    u.idMask + u.id * 2 ^ 16 + bitAt 26 u.r + bitAt 27 u.w + bitAt 28 u.x + bitAt 29 u.partAny + bitAt 30 u.host + bitAt 31 u.valid
  else u.part

/-- The rule of a row, in effect or in the shadow; a system row is the same in both (R433, R438). -/
def artRow (m : SMap Rule) (r : Nat) : Rule := if 1016 ≤ r then systemRules.getD (r - 1016) {} else SMap.get {} m r

/-- ART (Table 14.8). -/
def State.viewArt (s : State) (o : Nat) : Option Nat :=
  let r := s.reg Reg.ART.RULE_SEL
  let e : Option ArtErr := s.art.err.head?
  if 0x104 ≤ o && o < 0x11C then some ((artRow s.art.sh r).word ((o - 0x104) / 4))
  else if 0x120 ≤ o && o < 0x138 then some ((artRow s.art.act r).word ((o - 0x120) / 4))
  else if o = 0x150 then some (match e with
    | some e => e.part + e.init * 2 ^ 16 + bitAt 28 e.fetch + bitAt 29 e.host + bitAt 30 e.write + bitAt 31 e.imprecise
    | none => 0)
  else if o = 0x154 then some ((e.map ArtErr.page).getD 0)
  else if o = 0x158 then some ((e.map ArtErr.frame).getD 0)
  else if o = 0x15C then some s.art.err.length
  else none

/-- STAY (Table 12.8). -/
def State.viewStay (s : State) (o : Nat) : Option Nat :=
  let y := s.stay
  let id := s.stayId
  let hd : Nat × List Byte := (SMap.get none y.heads (s.reg Reg.STAY.TWIN_HEAD_SEL)).getD (0, [])
  if o = 0x100 then
    some (y.version + y.mode * 2 ^ 8 + bitAt 25 y.splitCfg + bitAt 26 y.splitRig + y.pstate * 2 ^ 27 + y.lstate * 2 ^ 30)
  else if o = 0x104 then
    some (s.heldWord 0x14104 + bitAt 8 (s.mode == .standby) + ((id.map StayId.roleCfg).getD 0) * 2 ^ 12
      + ((id.map StayId.pairMode).getD 0) * 2 ^ 16)
  else if o = 0x10C then some (y.hbMiss + s.heldWord 0x1410C)
  else if o = 0x118 then some y.dup.length
  else if o = 0x120 then some y.mirror.length
  else if 0x130 ≤ o && o < 0x150 then some (wordAt ((id.map StayId.twinFp).getD []) ((o - 0x130) / 4))
  else if 0x154 ≤ o && o < 0x174 then some (wordAt hd.2 ((o - 0x154) / 4))
  else if o = 0x174 then some (hd.1 % 2 ^ 32)
  else if o = 0x178 then some (hd.1 / 2 ^ 32)
  else if o = 0x184 then some (y.rowsLeft + bitAt 31 (y.pstate == 4))
  else none

/-- The number of a ring state (Table 10.13). -/
def RingState.num : RingState → Nat
  | .none => 0 | .active => 1 | .stopped => 2

/-- HOSTIF (Table 10.13): the ring of RING_SEL and the oldest entry of the error FIFO. -/
def State.viewHost (s : State) (o : Nat) : Option Nat :=
  let r := s.reg Reg.HOSTIF.RING_SEL
  let g := s.ring r
  let e : Option HErr := s.host.herr.head?
  if o = 0x144 then some (g.sqFetch + g.cause * 2 ^ 24 + g.st.num * 2 ^ 30)
  else if o = 0x148 then some (g.cqTail + g.sqTail * 2 ^ 16)
  else if o = 0x14C then some (g.cqHead + g.cqRsv * 2 ^ 16)
  else if o = 0x150 then
    some (s.ringInFlight r + bitAt 28 g.sqPhase + bitAt 29 g.cqPhase + bitAt 30 g.revoke.isSome
      + bitAt 31 (g.batches.any fun b => !b.closed && !b.dead))
  else if o = 0x160 then some (match e with
    | some e => e.part + e.ring * 2 ^ 8 + e.cause * 2 ^ 24
    | none => 0)
  else if o = 0x164 then some (s.host.herr.length + ((e.map HErr.index).getD 0) * 2 ^ 16)
  else if o = 0x168 then some ((e.map HErr.frame).getD 0)
  else none

/-- PART (Table 11.7): the partition of PART_SEL. -/
def State.viewPart (s : State) (o : Nat) : Option Nat :=
  let p := s.partSel
  let v := s.part p
  if o = 0x104 then some (if v.st = .none then s.reg Reg.PART.PASID else v.pasid)
  else if o = 0x11C then
    some (v.st.num + bitAt 27 v.quiesce + bitAt 28 v.dirtyB + bitAt 29 v.dirtyOn + s.reg Reg.PART.DONE * 2 ^ 30 + s.reg Reg.PART.BUSY * 2 ^ 31)
  else if o = 0x120 then some (s.inFlight p)
  else if o = 0x124 then some (((s.cleat.ents.filterMap fun (e : Nat × Option Entry) => e.2).filter fun (e : Entry) => e.ofPart p).map Entry.rows |>.foldl (· + ·) 0)
  else if o = 0x128 then some (v.createFrame % 2 ^ 32)
  else if 0x130 ≤ o && o < 0x150 then some (wordAt v.head ((o - 0x130) / 4))
  else if o = 0x150 then some (v.headFrame % 2 ^ 32)
  else if o = 0x154 then some (v.headFrame / 2 ^ 32)
  else if o = 0x178 then some (s.reg Reg.PART.ACC_FULL + bitAt 1 v.beyond)
  else none

/-- TAMPER (Table 17.7). -/
def State.viewTamper (s : State) (o : Nat) : Option Nat :=
  let t := s.tamper
  let n := s.reg Reg.TAMPER.SRC_SEL
  if o = 0x108 then some ((s.policyOf n).word (srcFloor n))
  else if o = 0x110 then some (t.asserted % 2 ^ 32)
  else if o = 0x114 then some (t.asserted / 2 ^ 32)
  else if o = 0x120 then some (t.rootState + bitAt 8 t.clearPending + bitAt 9 t.alertPending)
  else if o = 0x124 then some (t.vbat + t.vhold * 2 ^ 16)
  else if o = 0x12C then some ((if t.mainPower then signedField 16 t.tempCd else 0x8000) + signedField 16 t.tempSd * 2 ^ 16)
  else if o = 0x130 then some t.rtcSec
  else if o = 0x134 then some (s.reg Reg.TAMPER.RTC_SUB + bitAt 31 t.rtcValid)
  else none

/-- The number of a PICC state (Table 18.11). -/
def Picc.num : Picc → Nat
  | .off => 0 | .idle => 0 | .ready => 1 | .active => 2 | .halt => 3

/-- WITNESS (Table 18.11). -/
def State.viewWitness (s : State) (o : Nat) : Option Nat :=
  let w := s.witness
  if o = 0x100 then
    some (w.ma + bitAt 27 w.field + w.picc.num * 2 ^ 28 + bitAt 31 (bitOf (s.hd pgWitness).detail 0))
  else if 0x800 ≤ o then some (leNat (s.witBytes (s.reg Reg.WITNESS.WIT_WSEL * 2048 + (o - 0x800)) 4))
  else none

/-- CARD (Table 18.9): the ceremony window. -/
def State.viewCard (s : State) (o : Nat) : Option Nat :=
  if 0x800 ≤ o then some (leNat (SMap.bytes s.cust.win (s.reg Reg.CARD.CER_WSEL * 2048 + (o - 0x800)) 4)) else none

/-- FAULT (Table 16.10): the oldest entry of the log and the recovery window. -/
def State.viewFault (s : State) (o : Nat) : Option Nat :=
  let e : Option FltEnt := s.glob.log.head?
  let w := s.glob.window
  if o = 0x100 then some s.glob.log.length
  else if o = 0x104 then some (match e with
    | some e => e.source + bitAt 22 e.dep + bitAt 23 e.esc + e.raised * 2 ^ 24 + e.cls * 2 ^ 28
    | none => 0)
  else if o = 0x108 then some (match e with
    | some e => e.unit % 2 ^ 18 + e.yard * 2 ^ 18
    | none => 0)
  else if o = 0x10C then some ((e.map FltEnt.frame).getD 0)
  else if o = 0x110 then some (((w.map Window.left).getD 0) + bitAt 31 w.isSome)
  else if o = 0x114 then some ((w.map Window.frame).getD 0)
  else none

/-- NARIS (Table 16.12): the statement window. -/
def State.viewNaris (s : State) (o : Nat) : Option Nat :=
  if 0x800 ≤ o then some (wordAt s.glob.stmt (s.reg Reg.NARIS.ATT_WSEL * 512 + (o - 0x800) / 4)) else none

/-- What a register of a page shows of the rest of the state; none where it is held as it reads. -/
def State.shown (s : State) (off : Nat) : Option Nat :=
  let p := off / 4096
  let o := off % 4096
  if p = 0x00 then s.viewGlobal o
  else if p = 0x01 then s.viewFrame o
  else if p = 0x02 then s.viewAdmit o
  else if yardPage p then s.viewYard (yardAt off) (o % 256)
  else if p = 0x08 then (if o = 0x128 then s.viewReady 0x8128 0 else none)
  else if p = 0x0A then s.viewBne o
  else if p = 0x0C then s.viewCleat o
  else if p = 0x0E then s.viewSpring o
  else if p = 0x0F then s.viewRill0 o
  else if p = 0x10 then s.viewRill1 o
  else if p = 0x11 then s.viewArt o
  else if p = 0x14 then s.viewStay o
  else if p = 0x15 then s.viewHost o
  else if p = 0x16 then s.viewPart o
  else if p = 0x17 then s.viewTamper o
  else if p = 0x18 then s.viewWitness o
  else if p = 0x19 then s.viewCard o
  else if p = 0x1A then s.viewSpares o
  else if p = 0x1B then s.viewFault o
  else if p = 0x1C then s.viewNaris o
  else none

/-- The header of a block as it reads: STATE bits that follow another part of the state are shown with it. -/
def State.shownHdr (s : State) (off : Nat) : Hdr :=
  let p := off / 4096
  let set (h : Hdr) (bit : Nat) (b : Bool) : Hdr := { h with detail := if b then orBit h.detail (bit - 4) else clrBit h.detail (bit - 4) }
  if p = 0x0F || p = 0x10 then { s.hd (16 * p) with enable := (s.hd pgSpring).enable, st := (s.hd pgSpring).st }
  else if p = 0x0D then { s.hd pgCleat1 with enable := (s.hd pgCleat).enable, st := (s.hd pgCleat).st }
  else if p = 0x01 then set (s.hd pgFrame) 4 s.rig.eff.isSome
  else if p = 0x02 then set (s.hd pgAdmit) 4 (!s.admitMode)
  else if p = 0x14 then set (s.hd pgStay) 4 (s.stay.pstate == 1)
  else if p = 0x15 then set (s.hd pgHost) 5 s.fetchHold
  else s.hd (blockKey off)

/-- What the register at a BAR0 offset reads as; reserved registers and pages read zero (R10). -/
def State.view (s : State) (off : Nat) : Nat :=
  if !s.pageAnswers (off / 4096) then 0
  else
    let o := blockOff off
    if o < 0x24 then (s.shownHdr off).word (pageKind off) o
    else ((s.shown off).getD (s.heldWord off)) % 2 ^ 32

/-! ### Latches (R579) -/

/-- The _LO registers that a chapter marks latched; the _HI register follows each. -/
def latchedLo : List Nat :=
  [0x1100, 0x112C, 0x8130, 0x9160, 0x9168, 0xA170, 0xB130, 0xB13C, 0xC128, 0x15170, 0x15178, 0x16150, 0x14174, 0x17110, 0x178]

/-- The key of a latch: the _HI register and its reader. -/
def latchKey (hi : Nat) (byNaris : Bool) : Nat := 2 * hi + (if byNaris then 1 else 0)

/-- A read of a _LO register copies the high word into the reader's latch. -/
def State.latchHi (s : State) (byNaris : Bool) (lo : Nat) : State :=
  { s with latch := SMap.put 0 s.latch (latchKey (lo + 4) byNaris) (s.view (lo + 4)) }

/-- What a reader gets: a latched _HI register answers its latch. -/
def State.readValue (s : State) (byNaris : Bool) (off : Nat) : Nat :=
  if latchedLo.contains (off - 4) && decide (4 ≤ off) then (if s.pageAnswers (off / 4096) then SMap.get 0 s.latch (latchKey off byNaris) else 0)
  else s.view off

/-- The answer of a read leaves the device. -/
def State.answer (s : State) (byNaris : Bool) (off v : Nat) : State := s.emit (.regRead (if byNaris then 1 else 0) off v)

/-- `LATCHED_LO_READ` . -/
def execLatchedLoRead (byNaris : Bool) (off : Fin 1048576) (s : State) : Result :=
  if latchedLo.contains off.val && s.readArrives byNaris (off / 4096) then .next ((s.latchHi byNaris off).answer byNaris off (s.view off))
  else .next s

/-! ### Reads that do something (R495, R516) -/

/-- The oldest entry of the fault log leaves it. -/
def State.popFault (s : State) : State := { s with glob := { s.glob with log := s.glob.log.drop 1 } }

/-- `FLT_FRAME_READ` : the read answers the oldest entry's frame and removes the entry. -/
def execFltFrameRead (byNaris : Bool) (s : State) : Result :=
  if !s.readArrives byNaris 0x1B then .next s else .next (s.popFault.answer byNaris Reg.FAULT.FLT_FRAME.off (s.view Reg.FAULT.FLT_FRAME.off))

/-- RTC_SUB is latched. -/
def State.latchSub (s : State) : State := s.setReg Reg.TAMPER.RTC_SUB s.tamper.rtcSub

/-- `RTC_SEC_READ` : the read answers RTC_SEC and latches RTC_SUB. -/
def execRtcSecRead (byNaris : Bool) (s : State) : Result :=
  if !s.readArrives byNaris 0x17 then .next s else .next (s.latchSub.answer byNaris Reg.TAMPER.RTC_SEC.off (s.view Reg.TAMPER.RTC_SEC.off))

/-- A read of any register: its value, and what the read does. -/
def State.readReg (s : State) (byNaris : Bool) (off : Nat) : Nat × State :=
  let v := s.readValue byNaris off
  if !s.pageAnswers (off / 4096) then (v, s)
  else if latchedLo.contains off then (v, s.latchHi byNaris off)
  else if off = Reg.HOSTIF.HERR_FRAME.off then (v, { s with host := { s.host with herr := s.host.herr.drop 1 } })
  else if off = Reg.ART.ERR_FRAME.off then (v, { s with art := { s.art with err := s.art.err.drop 1 } })
  else if off = Reg.FAULT.FLT_FRAME.off then (v, s.popFault)
  else if off = Reg.TAMPER.RTC_SEC.off then (v, s.latchSub)
  else (v, s)

/-! ### BAR2 and BAR4 -/

/-- What a doorbell page reads as: SQ_TAIL and CQ_HEAD of the ring of the slot, as last accepted; REVOKE is write-only and
reads zero with every reserved register (R332, R582). -/
def State.doorbellView (s : State) (off : Nat) : Nat :=
  if 0x400 ≤ off % 4096 then 0
  else
    match s.ringAt (off / 4096) (off % 4096 / 16) with
    | none => 0
    | some r =>
      match off % 16 with
      | 0 => (s.ring r).sqTail
      | 4 => (s.ring r).cqHead
      | _ => 0

/-- What BAR4 reads as: the MSI-X table, and from 0x8000 on its pending bits (Table 10.2). -/
def State.msixView (s : State) (off : Nat) : Nat :=
  let m (n : Nat) := SMap.get {} s.host.msix n
  if 0x8000 ≤ off then (List.range 32).foldl (fun v i => v + bitAt i (m (off % 0x8000 * 8 + i)).pending) 0
  else
    match off % 16 with
    | 0 => (m (off / 16)).addr % 2 ^ 32
    | 4 => (m (off / 16)).addr / 2 ^ 32
    | 8 => (m (off / 16)).data
    | _ => bitAt 0 (m (off / 16)).masked

end Sys2Proof.Machine
end

