-- ==== Sys2Proof/Machine/RegWrite.lean ====
section
/-!
DEFINITION. Register writes (R10, R12, R324, R573 to R578, R581): the common header, INT_FORCE and LOCK; the fields of each
page with what their chapter refuses; and the command registers, whose writes do what the command's own row does.
-/
set_option autoImplicit false

namespace Sys2Proof.Machine

/-! ### Interrupt bits (R575, R576) -/

/-- The INT_STAT bits that the chapter of a page defines. -/
def intBits (off : Nat) : Nat :=
  let p := off / 4096
  if yardPage p then 0xFF
  else ([0x0F, 0x1F, 0x1F, 0, 0, 0, 0, 0, 0x0F, 0x07, 0x3F, 0x1F, 0x3F, 0x01, 0x3F, 0x01, 0x03, 0x0F, 0xFFFFFFFF, 0x3F, 0xFF, 0x1F,
    0x1F, 0xFF, 0x1F, 0x3F, 0x0F, 0x1F, 0x03] : List Nat).getD p 0

/-- INT_STAT and INT_EN after a write: bits that are newly both 1 are raised (R575); ALERT_N follows INT_STAT.ALERT. -/
def State.putInt (s : State) (k stat en : Nat) : State :=
  let h := s.hd k
  let both := stat &&& en
  let s := s.setHd k { h with intStat := stat, intEn := en }
  let s := if both &&& (both ^^^ (h.intStat &&& h.intEn)) = 0 then s else s.mgrMsg
  if k = pgTamper && s.tamper.mainPower && bitOf h.intStat 1 != bitOf stat 1 then s.emit (.pin "ALERT_N" (!bitOf stat 1)) else s

/-- The block at BAR0 offset `blk` × 256 is a page or a yard block, and it answers. -/
def State.blockAnswers (s : State) (blk : Nat) : Bool := s.pageAnswers (blk / 16) && (yardPage (blk / 16) || blk % 16 == 0)

/-- A write of INT_FORCE. -/
def State.forceInt (s : State) (blk v : Nat) : State :=
  let h := s.hd blk
  s.putInt blk (h.intStat ||| (v &&& intBits (blk * 256))) h.intEn

/-- A write of LOCK: bit 0 locks the block until the next full reset (R578). -/
def State.lockBlock (s : State) (blk v : Nat) : State := if bitOf v 0 then s.updHd blk fun h => { h with lock := true } else s

/-- `INT_FORCE` (R576). -/
def execIntForce (blk : Fin 4096) (v : Word) (s : State) : Result :=
  if s.blockAnswers blk then .next (s.forceInt blk v.toNat) else .next s

/-- `LOCK` (R578). -/
def execLockPage (blk : Fin 4096) (v : Word) (s : State) : Result :=
  if s.blockAnswers blk then .next (s.lockBlock blk v.toNat) else .next s

/-! ### Fields by their access type (R12) -/

/-- A field of a written register. -/
def State.writeField (s : State) (lock : Bool) (v : Nat) (F : Field) : State :=
  let x := bitsOf v F.lo F.width
  match F.acc with
  | .rw => s.setReg F x
  | .rwl => if lock then s else s.setReg F x
  | .w1c => s.setReg F (s.reg F &&& (s.reg F ^^^ x))
  | _ => s

/-- Every field of the register at an offset. -/
def State.storeWord (s : State) (off v : Nat) : State :=
  (fieldsAt off).foldl (fun s F => s.writeField (s.hd (blockKey off)).lock v F) s

/-- The value that a write refuses, with the field's code. A locked register is not checked: its write is ignored. -/
def State.badWrite (s : State) (byNaris : Bool) (off v : Nat) : Option Nat :=
  let bad (lo w a b : Nat) : Option Nat := if bitsOf v lo w < a || b < bitsOf v lo w then some 0x01 else none
  let open' (k : Nat) (r : Option Nat) : Option Nat := if (s.hd k).lock then none else r
  if off = Reg.FRAME.SOURCE.off then
    (if v % 4 = 3 then some 0x01 else if v % 4 = 2 && !byNaris && !s.paired then some 0x22 else none)
  else if off = Reg.FRAME.FSYNC_SKEW.off then
    let x := fieldInt 16 (v % 65536)
    open' pgFrame (if x < -1000 || 1000 < x then some 0x01 else none)
  else if off = Reg.FRAME.ALIGN_LIMIT.off then bad 0 16 10 1000
  else if yardPage (off / 4096) && off % 256 = 0x58 then open' (blockKey off) (bad 0 10 10 500)
  else if off = Reg.STAY.MAX_LANES.off then open' pgStay (bad 2 2 0 2)
  else if off = Reg.STAY.DUP_HOLD.off then bad 0 21 1024 1048576
  else if off = Reg.SPRING.CELL_SEL.off then bad 0 4 0 9
  else if off = Reg.SPRING.BIAS_LO.off then open' pgSpring (if bitsOf v 16 16 ≤ bitsOf v 0 16 then some 0x01 else none)
  else if off = Reg.SPRING.CORR_LIMIT.off then open' pgSpring (bad 0 16 1 65535)
  else if off = Reg.TAMPER.SRC_SEL.off then bad 0 6 0 36
  else if off = Reg.TAMPER.VBAT_WARN.off then bad 0 12 2500 3000
  else if off = Reg.CARD.Q_TIMEOUT.off then open' pgCard (bad 0 12 60 3600)
  else if off = Reg.CARD.CER_LEN.off then bad 0 13 0 4096
  else if off = Reg.WITNESS.FIELD_WRITE_MIN.off then open' pgWitness (bad 0 16 1500 7500)
  else if off = Reg.HOSTIF.INT_CYCLE.off then bad 0 16 100 (s.flCycles - 1)
  else none

/-! ### The common header -/

/-- A write of CTRL: the manager enables ADMIT and STAY; Naris enables the pages that Table 20.4 leaves to it (R574). -/
def State.writeCtrl (s : State) (byNaris : Bool) (off v : Nat) : Result :=
  let p := off / 4096
  let narisPage := decide (p ≤ 0x0E && 0x04 ≤ p) || p == 0x01 || p == 0x12 || p == 0x15 || p == 0x16 || p == 0x1A
  if p = 0x02 && !byNaris then execAdmitEnable (bitOf v 0) s
  else if p = 0x14 && !byNaris then execStayEnable (bitOf v 0) s
  else if byNaris && narisPage && bitOf v 0 && !(s.hd (blockKey off)).enable then
    .next (if p = 0x0E then s.springStart else s.setOn (blockKey off) true)
  else .next s

/-- A write of a header register. -/
def State.writeHeader (s : State) (byNaris : Bool) (off v : Nat) : Result :=
  let k := blockKey off
  let o := blockOff off
  let h := s.hd k
  if o = 0x04 then s.writeCtrl byNaris off v
  else if o = 0x0C then .next (s.putInt k (h.intStat &&& (h.intStat ^^^ v)) h.intEn)
  else if o = 0x10 then .next (s.putInt k h.intStat v)
  else if o = 0x14 then .next (s.forceInt k v)
  else if o = 0x20 then .next (s.lockBlock k v)
  else .next s

/-! ### Command registers -/

/-- A command whose own row carries what the outside answers: a write of its register runs it with an answer that is left free
(notes/assumptions/38.md). -/
def State.answered (s : State) {α : Type} (answer : Nat → α) (f : α → State → Result) : Result :=
  let (j, s) := s.draw
  f (answer j) s

/-- GLOBAL (Table 16.9). -/
def State.writeGlobal (s : State) (o v : Nat) : Option Result :=
  if o = Reg.GLOBAL.MODE_REQ.off then some (execModeReq (Fin.ofNat 16 v) s)
  else if o = Reg.GLOBAL.RESET.off then some (execReset (BitVec.ofNat 32 v) s)
  else if o = Reg.GLOBAL.FLOOR_CMD.off then some (match v % 4 with
    | 1 => execRaiseFw s
    | 2 => execRaiseRig s
    | _ => .next (s.refuse pgGlobal 0x01))
  else none

/-- FRAME (Table 2.13): the commands, and ALIGN_CTRL, whose write selects the reference and lets FSYNC_OUT fall (R77, R80). -/
def State.writeFrame (s : State) (off v : Nat) : Option Result :=
  if off = Reg.FRAME.LOAD.off then some (if bitOf v 0 then execLoad s else .next s)
  else if off = Reg.FRAME.OP.off then some (match v % 16 with
    | 1 => execStage (Fin.ofNat 2 (v / 256)) s
    | 2 => execActivate (Fin.ofNat 2 (v / 256)) s
    | _ => .next (s.refuse pgFrame 0x01))
  else if off = Reg.FRAME.SOURCE.off then
    let s := (s.takeSource (v % 4)).storeWord off v
    some (.next (if bitOf v 4 then s else s.setFsync false))
  else none

/-- A write of a shadow entry: valid entries stand in one table, what an invalid one shows in another (R51). -/
def putShadow (sh idle : SMap Nat) (k v w : Nat) : SMap Nat × SMap Nat :=
  if bitOf v 31 then (SMap.put 0 sh k (bitsOf v 0 w + 1), SMap.put 0 idle k 0) else (SMap.put 0 sh k 0, SMap.put 0 idle k (bitsOf v 0 w))

/-- ADMIT (Table 2.15); shadow writes while a commit waits are refused (R85). -/
def State.writeAdmit (s : State) (off v : Nat) : Option Result :=
  let a := s.adm
  if off = Reg.ADMIT.COMMIT.off then some (if bitOf v 0 then execCommit s else .next s)
  else if off = Reg.ADMIT.OWN_PART.off then
    let t := putShadow a.ownerSh a.ownerIdle s.ownSel v 8
    some (.next (if a.commit then s.refuse pgAdmit 0x03 else { s with adm := { a with ownerSh := t.1, ownerIdle := t.2 } }))
  else if off = Reg.ADMIT.BIND_RING.off then
    let t := putShadow a.bindingSh a.bindingIdle s.bindSel v 12
    some (.next (if a.commit then s.refuse pgAdmit 0x03 else { s with adm := { a with bindingSh := t.1, bindingIdle := t.2 } }))
  else none

/-- A yard block: SWAP_CMD (Table 4.6). -/
def State.writeYard (s : State) (off v : Nat) : Option Result :=
  let y := yardAt off
  if off % 256 = 0x84 then some (match v % 16 with
    | 1 => execSwap (Fin.ofNat 64 y) (Fin.ofNat 16 (v / 2 ^ 16)) (bitOf v 8) s
    | 2 => execSwapCancel (Fin.ofNat 64 y) s
    | _ => .next (s.refuse (pgYard y) 0x01))
  else none

/-- SPARES: POOL_CMD (Table 4.8). -/
def State.writeSpares (s : State) (off v : Nat) : Option Result :=
  let kind : Fin 16 := Fin.ofNat 16 (v / 2 ^ 24)
  let unit : Fin 128 := Fin.ofNat 128 (v / 2 ^ 16)
  if off = Reg.SPARES.OP.off then some (match v % 16 with
    | 1 => execPoolRetire kind unit s
    | 2 => execPoolCancel kind unit s
    | _ => .next (s.refuse pgSpares 0x01))
  else none

/-- CLEAT page 0x0D: CMD_OP (Table 8.10). -/
def State.writeCleat1 (s : State) (off v : Nat) : Option Result :=
  if off = Reg.CLEAT1.CMD_OP.off then some (match v % 16 with
    | 1 => execInspect s
    | 2 => execCleatDelete s
    | 3 => execCleatRestrict s
    | 4 => execFlush s
    | _ => cleatCommand s fun s => s.refuse pgCleat1 0x01)
  else none

/-- SPRING: the test pattern (R424). -/
def State.writeSpring (s : State) (off v : Nat) : Option Result :=
  if off = Reg.SPRING.EN.off then some (execTestpatEn (bitOf v 31) (Fin.ofNat 65536 v) s) else none

/-- A rule with one of its words replaced (Table 14.8). -/
def Rule.setWord (u : Rule) (i v : Nat) : Rule :=
  match i with
  | 0 => { u with base := u.base / 2 ^ 26 * 2 ^ 26 + bitsOf v 6 26 }
  | 1 => { u with base := bitsOf v 0 8 * 2 ^ 26 + u.base % 2 ^ 26 }
  | 2 => { u with limit := u.limit / 2 ^ 26 * 2 ^ 26 + bitsOf v 6 26 }
  | 3 => { u with limit := bitsOf v 0 8 * 2 ^ 26 + u.limit % 2 ^ 26 }
  | 4 => { u with
      idMask := bitsOf v 0 10, id := bitsOf v 16 10, r := bitOf v 26, w := bitOf v 27, x := bitOf v 28, partAny := bitOf v 29,
      host := bitOf v 30, valid := bitOf v 31 }
  | _ => { u with part := bitsOf v 0 8 }

/-- ART: the shadow row and COMMIT (R438). -/
def State.writeArt (s : State) (off v : Nat) : Option Result :=
  let r := s.reg Reg.ART.RULE_SEL
  if off = Reg.ART.COMMIT.off then some (if bitOf v 0 then execArtCommit s else .next s)
  else if 0x11104 ≤ off && off < 0x1111C then
    some (.next (
      if 1016 ≤ r then s.refuse pgArt 0x90
      else if s.art.commit then s.refuse pgArt 0x03
      else
        let u := (SMap.get {} s.art.sh r).setWord ((off - 0x11104) / 4) v
        { s with art := { s.art with sh := SMap.put {} s.art.sh r u } }))
  else none

/-- CVU: HGO, and the configuration of a busy instance (R444). -/
def State.writeCvu (s : State) (off v : Nat) : Option Result :=
  if 0x12200 ≤ off && off < 0x12600 then
    let h := (off - 0x12200) / 64
    let o := off % 64
    if o = 0x20 then some (if bitOf v 0 then execHgo (Fin.ofNat 16 h) s else .next s)
    else if o < 0x20 && (s.cvu h).isSome then some (.next (s.refuse pgCvu 0x92 h))
    else none
  else none

/-- FLASH: FCMD (R470). -/
def State.writeFlash (s : State) (byNaris : Bool) (off v : Nat) : Option Result :=
  if off = Reg.FLASH.OP.off then some (match v % 16 with
    | 1 => execFlashRead byNaris none none s
    | 2 => execProgram byNaris s
    | 3 => execErase byNaris false s
    | 4 => execFlashCheck byNaris s
    | 5 => execRemap byNaris s
    | _ => .next (if s.flash.ready then s.refuse pgFlash 0x01 (s.reg Reg.FLASH.FADDR) else s))
  else none

/-- STAY: LINK_CMD (Table 12.8). -/
def State.writeStay (s : State) (off v : Nat) : Option Result :=
  if off = Reg.STAY.LINK_CMD.off then some (match v % 16 with
    | 1 => execRetrain s
    | 2 => s.answered Config.twinConfig execResyncCfg
    | 3 => execDupClear s
    | _ => .next (s.refuse pgStay 0x01))
  else none

/-- HOSTIF: RING_CMD and INT_CYCLE (Table 10.13). -/
def State.writeHost (s : State) (off v : Nat) : Option Result :=
  if off = Reg.HOSTIF.RING_CMD.off then some (match v % 16 with
    | 1 => execRingCreate s
    | 2 => execRingDelete s
    | 3 => execRingStop s
    | 4 => execRingReset s
    | 5 => execSetint s
    | _ => .next (s.refuse pgHost 0x01))
  else if off = Reg.HOSTIF.INT_CYCLE.off then
    some (.next ({ s with host := { s.host with intCycle := none } }.storeWord off v))
  else none

/-- PART: PART_CMD (Table 11.7). -/
def State.writePart (s : State) (off v : Nat) : Option Result :=
  if off = Reg.PART.OP.off then some (match v % 16 with
    | 1 => execPartCreate (bitOf v 8) s
    | 2 => execQuiesce s
    | 3 => execResume s
    | 4 => execPartReset s
    | 5 => execDestroy s
    | 6 => execDirtyStart s
    | 7 => execDirtySwap s
    | 8 => execDirtySync s
    | 9 => execDirtyStop s
    | 10 => s.answered Config.hostTakes execExportBlob
    | 11 => s.answered Config.hostBlob execImportBlob
    | _ => partCommand s fun _ _ => s.refuse pgPart 0x01)
  else none

/-- TAMPER: APPLY, SET and TEST_CMD (Table 17.7). -/
def State.writeTamper (s : State) (off v : Nat) : Option Result :=
  if off = Reg.TAMPER.APPLY.off then some (if bitOf v 0 then execApplyPolicy s else .next s)
  else if off = Reg.TAMPER.SET.off then some (if bitOf v 0 then execRtcSet s else .next s)
  else if off = Reg.TAMPER.TEST_SRC.off then some (if bitOf v 31 then execTestGo (Fin.ofNat 64 v) s else .next s)
  else none

/-- CARD: QUORUM_CMD, CER_CMD and the ceremony window (Tables 18.7 and 18.9). -/
def State.writeCard (s : State) (off v : Nat) : Option Result :=
  if off = Reg.CARD.QUORUM_CMD.off then some (match v % 4 with
    | 1 => execQOpen s
    | 2 => execQClose s
    | 3 => s.answered Config.fieldTags execScan
    | _ => .next (s.refuse pgCard 0x01))
  else if off = Reg.CARD.CER_CMD.off then some (match v % 16 with
    | 1 => execCustodians s
    | 2 => execRigKey s
    | 3 => execMembers s
    | 4 => execDomainGen s
    | 5 => execDomainImport s
    | 6 => execDomainExport s
    | 7 => s.answered Config.writtenCards execCompWrite
    | 8 => s.answered Config.cardBlocks execCompLoad
    | 14 => execCerCommit s
    | 15 => execAbandon s
    | _ => ceremonyCmd s fun s => s.refuse pgCard 0x01)
  else if 0x19800 ≤ off then
    let a := s.reg Reg.CARD.CER_WSEL * 2048 + (off - 0x19800)
    some (.next { s with cust := { s.cust with win := SMap.putBytes s.cust.win a (leBytes 4 v) } })
  else none

/-- NARIS: FW_CMD and ATT_CMD (Table 16.12). -/
def State.writeNaris (s : State) (off v : Nat) : Option Result :=
  if off = Reg.NARIS.FW_OP.off then some (match v % 16 with
    | 1 => execFwStage (Fin.ofNat 2 (v / 256)) s
    | 2 => execFwActivate (Fin.ofNat 2 (v / 256)) s
    | 3 => execConfirm s
    | _ => .next (s.refuse pgNaris 0x01))
  else if off = Reg.NARIS.GO.off then some (if bitOf v 0 then execAttest (bitOf v 1) (bitOf v 2) s else .next s)
  else none

/-- A write that does more than store its fields; none where it stores them. -/
def State.writeCommand (s : State) (byNaris : Bool) (off v : Nat) : Option Result :=
  let p := off / 4096
  if p = 0x00 then s.writeGlobal off v
  else if p = 0x01 then s.writeFrame off v
  else if p = 0x02 then s.writeAdmit off v
  else if yardPage p then s.writeYard off v
  else if p = 0x0A then (if off = Reg.BNE.OPM_READ.off then some (if bitOf v 0 then execOpmRead s else .next s) else none)
  else if p = 0x0D then s.writeCleat1 off v
  else if p = 0x0E then s.writeSpring off v
  else if p = 0x11 then s.writeArt off v
  else if p = 0x12 then s.writeCvu off v
  else if p = 0x13 then s.writeFlash byNaris off v
  else if p = 0x14 then s.writeStay off v
  else if p = 0x15 then s.writeHost off v
  else if p = 0x16 then s.writePart off v
  else if p = 0x17 then s.writeTamper off v
  else if p = 0x19 then s.writeCard off v
  else if p = 0x1A then s.writeSpares off v
  else if p = 0x1C then s.writeNaris off v
  else none

/-- A write of the register at a BAR0 offset: a refused one sets ERR_CODE and ERR_INFO and changes nothing else (R577). -/
def State.writeReg (s : State) (byNaris : Bool) (off v : Nat) : Result :=
  if !s.pageAnswers (off / 4096) then .next s
  else if blockOff off < 0x24 then s.writeHeader byNaris off v
  else
    match s.badWrite byNaris off v with
    | some c => .next (s.refuse (blockKey off) c)
    | none => (s.writeCommand byNaris off v).getD (.next (s.storeWord off v))

/-! ### BAR2 and BAR4 -/

/-- A write to a doorbell page (R582). -/
def State.writeDoorbell (s : State) (off v : Nat) : Result :=
  let p : Fin 256 := Fin.ofNat 256 (off / 4096)
  let j : Fin 64 := Fin.ofNat 64 (off % 4096 / 16)
  let w : Word := BitVec.ofNat 32 v
  if 0x400 ≤ off % 4096 then execDbUnassigned p (Fin.ofNat 4096 off) s
  else
    match off % 16 with
    | 0x0 => execSqTail p j w s
    | 0x4 => execCqHead p j w s
    | 0x8 => execRevoke p j w s
    | _ => execDbUnassigned p (Fin.ofNat 4096 off) s

/-- A write to the MSI-X table; the pending bits are read-only (R322, R351). -/
def State.writeMsix (s : State) (off v : Nat) : Result :=
  let n := off / 16
  let m := SMap.get {} s.host.msix n
  let put (m : Msix) : State := { s with host := { s.host with msix := SMap.put {} s.host.msix n m } }
  if 0x8000 ≤ off then .next s
  else
    match off % 16 with
    | 0x0 => .next (put { m with addr := m.addr / 2 ^ 32 * 2 ^ 32 + v })
    | 0x4 => .next (put { m with addr := v * 2 ^ 32 + m.addr % 2 ^ 32 })
    | 0x8 => .next (put { m with data := v })
    | _ => if bitOf v 0 then .next (put { m with masked := true }) else execMsixUnmask (Fin.ofNat 2048 n) s

/-- An aligned 4 B write; any other is discarded and logged under AER (R324). -/
def State.write4 (s : State) (byNaris : Bool) (bar : Fin 6) (off : Nat) (v : Word) : Result :=
  let n := v.toNat
  if bar.val = 0 && off % 4 = 0 && off < 0x100000 then
    let (ok, s) := s.pageAccess byNaris .write off
    if ok then s.writeReg byNaris off n else .next s
  else if byNaris then .next s
  else if bar.val = 2 && off % 4 = 0 && off < 0x100000 then s.writeDoorbell off n
  else if bar.val = 4 && off % 4 = 0 && off < 0x10000 then s.writeMsix off n
  else execBarUnsupportedAccess bar off 4 true s

/-- `REGISTER_WRITE` : an aligned 4 B write, or an aligned 8 B write of BAR0 as two 4 B writes, low address first (R324). Naris
writes pages only. Before boot's step 11 the endpoint answers with retry status, and no access of the manager arrives (Table
1.3). -/
def execRegisterWrite (byNaris : Bool) (bar : Fin 6) (off : Nat) (v : RegData) (s : State) : Result :=
  if !byNaris && !s.glob.booted then .next s
  else
    match v.hi with
    | none => s.write4 byNaris bar off v.lo
    | some h =>
      if bar.val = 0 && off % 8 = 0 then
        match s.write4 byNaris bar off v.lo with
        | .next s => s.write4 byNaris bar (off + 4) h
        | o => o
      else execBarUnsupportedAccess bar off 8 true s

end Sys2Proof.Machine
end

