-- ==== Sys2Proof/Machine/NarisMem.lean ====
section
/-!
DEFINITION. The memory that Naris reaches (R124, R126, Table 3.15, Table 4.2, Table 14.1): boot ROM, flash, Naris RAM,
register pages, and the window into the internal address space under the access rules.
-/
set_option autoImplicit false

namespace Sys2Proof.Machine

/-- Time passes that SR_CYCLE counts and no instruction does. -/
def State.lags (s : State) : State := { s with naris := { s.naris with lag := true } }

/-- The internal address of a Naris address (Table 3.15); none where Naris maps nothing. -/
def narisAddr (nwin a : Nat) : Option Nat :=
  if a ≤ 0xFFFF then some a
  else if 0x01000000 ≤ a && a ≤ 0x01FFFFFF then some (0x80000000 + (a - 0x01000000))
  else if 0x10000000 ≤ a && a ≤ 0x1003FFFF then some a
  else if 0x40000000 ≤ a && a ≤ 0x400FFFFF then some a
  else if 0x80000000 ≤ a then some (nwin * 2 ^ 31 + (a - 0x80000000))
  else none

/-- What stands at an internal address (Table 14.1). -/
inductive NetUnit where
  | rom | ram | page | flash | witness | ymem | iram | dram
  deriving DecidableEq, Repr

/-- The unit at a mapped internal address, and the offset or key in it. -/
def netUnit (a : Nat) : NetUnit × Nat :=
  if a ≤ 0xFFFF then (.rom, a)
  else if a < 0x40000000 then (.ram, a - 0x10000000)
  else if a < 0x80000000 then (.page, a - 0x40000000)
  else if a < 0x90000000 then (.flash, a - 0x80000000)
  else if a < 0x100000000 then (.witness, a - 0x90000000)
  else if a < 0x110000000 then (.ymem, a - 0x100000000)
  else
    let o := a - 0x110000000
    let base := ramBase (o / 0x200000) (o % 0x200000 / 0x10000)
    if o % 0x10000 < 0x4000 then (.iram, base + o % 0x10000) else (.dram, base + (o % 0x10000 - 0x8000))

/-- How a load of Naris goes: its bytes, a wait until the bytes come, or a trap. -/
inductive NarisLoad where
  | bytes (bs : List Byte) (s : State)
  | wait (s : State)
  | trap (s : State)

/-- Register words from a page offset on, each read as Naris reads it. -/
def State.pageLoad (s : State) (off n : Nat) : List Byte × State :=
  let w := off / 4 * 4
  let (bs, s) := (List.range (ceilDiv n 4)).foldl (fun (t : List Byte × State) i =>
    let (v, s) := t.2.readReg true (w + 4 * i)
    (t.1 ++ leBytes 4 v, s)) (([] : List Byte), s)
  (cut bs (off - w) n, s)

/-- A load at a permitted internal address. -/
def State.unitLoad (s : State) (a n : Nat) (dst : LoadTo) : NarisLoad :=
  let (u, o) := netUnit a
  match u with
  | .rom => .bytes ((List.range n).map fun i => Config.romByte (o + i)) s
  | .ram => .bytes (SMap.bytes s.narisRam o n) s
  | .page =>
    let (bs, s) := s.pageLoad o n
    .bytes bs s
  | .flash =>
    if s.inXo o n then .trap s
    else if s.bankTaken o then .wait { s with naris := { s.naris with load := some (o, n, dst), lag := true } }
    else
      let (bs, s) := s.flashLoad o n
      .bytes bs s
  | .witness => if s.witness.arb then .wait (s.lags.wiredBusy (.load o n dst)) else .bytes (s.witBytes o n) s
  | .ymem => .bytes (SMap.bytes s.ymem o n) s
  | .iram => .bytes (SMap.bytes s.iram o n) s
  | .dram => .bytes (SMap.bytes s.dram o n) s

/-- A load of Naris: unmapped, or refused by the access rules, it traps (R124, R435). -/
def State.narisLoad (s : State) (a n : Nat) (dst : LoadTo) : NarisLoad :=
  match narisAddr s.naris.nwin a with
  | none => .trap s
  | some x =>
    let (ok, s) := s.netAccess 0 none false .read x n
    if ok then s.unitLoad x n dst else .trap s

/-- The state that a register write leaves. -/
def Result.state (r : Result) (s : State) : State :=
  match r with
  | .next t => t
  | _ => s

/-- Register words written from a page offset on; a narrower store writes its word with the other bytes as they read. -/
def State.pageStore (s : State) (off : Nat) (bs : List Byte) : State :=
  if bs.length < 4 then
    let w := off / 4 * 4
    let word := (List.range 4).foldl (fun v i =>
      let old := bitsOf (s.view w) (8 * i) 8
      v + (if off ≤ w + i && w + i < off + bs.length then (bs.getD (w + i - off) 0).toNat else old) * 2 ^ (8 * i)) 0
    (s.writeReg true w word).state s
  else (List.range (bs.length / 4)).foldl (fun s i => (s.writeReg true (off + 4 * i) (leNat (cut bs (4 * i) 4))).state s) s

/-- A store at a permitted internal address; ROM and flash take none (R124). -/
def State.unitStore (s : State) (a : Nat) (bs : List Byte) : Option State :=
  let (u, o) := netUnit a
  match u with
  | .rom => none
  | .flash => none
  | .ram => some { s with narisRam := SMap.putBytes s.narisRam o bs }
  | .page => some (s.pageStore o bs)
  | .witness => some (if s.witness.arb then s.wiredBusy (.store o bs) else s.witWrite o bs)
  | .ymem => some { s with ymem := SMap.putBytes s.ymem o bs }
  | .iram => some { s with iram := SMap.putBytes s.iram o bs }
  | .dram => some { s with dram := SMap.putBytes s.dram o bs }

/-- A store of Naris: none where it traps; one that the access rules refuse is discarded (R435). -/
def State.narisStore (s : State) (a : Nat) (bs : List Byte) : Option State :=
  match narisAddr s.naris.nwin a with
  | none => none
  | some x =>
    let (ok, s) := s.netAccess 0 none true .write x bs.length
    if ok then s.unitStore x bs else some s

end Sys2Proof.Machine
end

