-- ==== Sys2Proof/Machine/SheaveMem.lean ====
section
/-!
DEFINITION. Loads and stores of Table 3.7 and TLI (R90, R91, R97 to R100, R108, R110), on a Sheave and on Naris (R124).
-/
set_option autoImplicit false

namespace Sys2Proof.Machine

/-- Issue a memory instruction of `k` cycles; on Naris its time is not fixed (R124). -/
def issueMem (h : CHdr) (legal : State → Bool) (k : Nat) (eff : State → Cpu → Eff) (s : State) : Result :=
  if isNaris h.ex && s.canIssue h.ex then
    let (j, s) := s.draw
    issueC h legal (k + Config.freeNat j) eff s
  else issueC h legal k eff s

/-- Bytes of an access by SZ; 11 is not assigned (R105). -/
def sizeOf' (sz : BitVec 2) : Nat := if sz = 0 then 4 else if sz = 1 then 2 else 1

/-- The address that a load or store forms. -/
def memAddr (u : Cpu) (ab : Fin 8) (off : BitVec 12) : Nat := (u.ar ab + off.signExtend 32).toNat

/-- A load of `n` bytes aligned on `n`: on a Sheave after the delay of its region, with the errors that its memory shows
(Table 4.3, R135). -/
def loadAt (h : CHdr) (a n : Nat) (dst : LoadTo) (s : State) : Eff :=
  match h.ex with
  | .sheave y l =>
    match s.memCheck y l a n n .read with
    | .error c => .fault c
    | .ok r =>
      if r = .dram && h.chk == .dramParity then .stop (s.checkFault y l .dramParity)
      else if r = .ymem && h.chk == .ymemUe then .stop (s.checkFault y l .ymemUe)
      else
        let s := if r = .ymem && h.chk == .ymemCe then s.yardCe y else s
        .ok s [(r.delay, dst.write (s.memBytes y l r a n))] none
  | .naris =>
    if a % n ≠ 0 then .fault 0x05
    else
      match s.narisLoad a n dst with
      | .bytes bs s => .ok s [(1, dst.write bs)] none
      | .wait s => .ok s [] none
      | .trap s => .stop (s.instrFault .naris 0x03)

/-- A store, aligned on its length. -/
def storeAt (h : CHdr) (a : Nat) (bs : List Byte) (s : State) : Eff :=
  let n := bs.length
  match h.ex with
  | .sheave y l =>
    match s.memCheck y l a n n .write with
    | .error c => .fault c
    | .ok r => .ok ((s.memPut y l r a bs).spoilHash y l a n) [] none
  | .naris =>
    if a % n ≠ 0 then .fault 0x05
    else
      match s.narisStore a bs with
      | some s => .ok s [] none
      | none => .fault 0x03

/-- `LD`, `LDH`, `LDB`, with sign extension where SX is 1. -/
def execLd (h : CHdr) (sz : BitVec 2) (sx : Bool) (dt : Fin 16) (ab : Fin 8) (off : BitVec 12) (s : State) : Result :=
  issueMem h (fun _ => sz != 3) 1 (fun s u => loadAt h (memAddr u ab off) (sizeOf' sz) (.d dt sx) s) s

/-- `ST`, `STH`, `STB`. -/
def execSt (h : CHdr) (sz : BitVec 2) (dt : Fin 16) (ab : Fin 8) (off : BitVec 12) (s : State) : Result :=
  issueMem h (fun _ => sz != 3) 1 (fun s u => storeAt h (memAddr u ab off) (leBytes (sizeOf' sz) (u.dr dt).toNat) s) s

/-- `LDA`. -/
def execLda (h : CHdr) (at' ab : Fin 8) (off : BitVec 12) (s : State) : Result :=
  issueMem h always 1 (fun s u => loadAt h (memAddr u ab off) 4 (.a at') s) s

/-- `STA`. -/
def execSta (h : CHdr) (at' ab : Fin 8) (off : BitVec 12) (s : State) : Result :=
  issueMem h always 1 (fun s u => storeAt h (memAddr u ab off) (leBytes 4 (u.ar at').toNat) s) s

/-- `QLD` : 16 B, 16 B aligned; the value is unsealed (Table 3.4). -/
def execQld (h : CHdr) (qt : Fin 4) (ab : Fin 8) (off : BitVec 12) (s : State) : Result :=
  issueMem h always 1 (fun s u => loadAt h (memAddr u ab off) 16 (.q qt) s) s

/-- `QST` : a sealed accumulator is fault SEALED and nothing is stored (R100). -/
def execQst (h : CHdr) (qt : Fin 4) (ab : Fin 8) (off : BitVec 12) (s : State) : Result :=
  issueMem h always 1 (fun s u =>
    if (u.qr qt).sealed then .fault 0x02 else storeAt h (memAddr u ab off) (quadBytes (u.qr qt).val) s) s

/-! ### TLI (R110) -/

/-- A word of the memory that TLI reads: data RAM of the Sheave, RAM of Naris. -/
def State.tliWord (s : State) (ex : Exec) (a : Nat) : Nat :=
  match ex with
  | .sheave y l => leNat (s.memBytes y l .dram a 4)
  | .naris => leNat (SMap.bytes s.narisRam (a - 0x10000000) 4)

/-- The check of an address that TLI reads. -/
def State.tliCheck (s : State) (ex : Exec) (a : Nat) : Option Nat :=
  match ex with
  | .sheave y l =>
    match s.memCheck y l a 4 4 .read true with
    | .ok _ => none
    | .error c => some c
  | .naris => if a % 4 ≠ 0 then some 0x05 else if 0x10000000 ≤ a && a ≤ 0x1003FFFF then none else some 0x03

/-- What TLI does: the addresses Ab − 4, Ab + 4k and, when used, Ab + 4k + 4 are checked; a clamped look-up reads T[N − 1]. -/
def tliEff (h : CHdr) (dd : Fin 16) (base index : Word) (s : State) : Eff :=
  let k := index.toNat / 65536
  let word (w : Word) : Nat := w.toNat
  let at' (i : Nat) : Nat := word (base + BitVec.ofNat 32 (4 * i))
  match s.tliCheck h.ex (word (base - 4)), s.tliCheck h.ex (at' k) with
  | some c, _ => .fault c
  | none, some c => .fault c
  | none, none =>
    let n := s.tliWord h.ex (word (base - 4))
    match if k + 1 < n then s.tliCheck h.ex (at' (k + 1)) else none with
    | some c => .fault c
    | none =>
      let entry (i : Nat) : Int := (BitVec.ofNat 32 (s.tliWord h.ex (at' i))).toInt
      let (r, v) := tliOf n k (index.toNat % 65536) (entry k) (entry (k + 1)) (entry (n - 1))
      let w : Word := BitVec.ofInt 32 r
      match h.ex, h.chk with
      | .sheave y l, .dramParity => .stop (s.checkFault y l .dramParity)
      | _, _ => .ok s [(2, .d dd w), (2, .fl (some w.msb) (some (w == 0)) none (some v) none)] none

/-- `TLI`. -/
def execTli (h : CHdr) (dd : Fin 16) (ab : Fin 8) (ds : Fin 16) (s : State) : Result :=
  issueMem h always 4 (fun s u => tliEff h dd (u.ar ab) (u.dr ds) s) s

end Sys2Proof.Machine
end

