-- ==== Sys2Proof/Machine/Naris.lean ====
section
/-!
DEFINITION. The SYS group, the system registers and the interrupts of Naris (R124, Table 3.16).
-/
set_option autoImplicit false

namespace Sys2Proof.Machine

/-- Naris takes a pending interrupt while IE is 1: it traps to SR_VBASE + 0x100 with SR_CAUSE[31] set; IE goes to PIE. -/
def State.takeIrq (s : State) : State :=
  let v := s.naris
  if v.irq && bitOf v.status 0 then
    { s with naris := { v with
      irq := false, epc := v.cpu.pc, cause := 0x80000000, status := 2, cpu := { v.cpu with pc := v.vbase + 0x100 } } }
  else s

/-- `NARIS_INTERRUPT` : an interrupt arrives; it ends a wait, and stays pending while IE is 0. -/
def execNarisInterrupt (s : State) : Result :=
  let s := if s.naris.waiting then s.lags else s
  .next { s with naris := { s.naris with irq := true, waiting := false } }.takeIrq

/-- Issue an instruction of the SYS group: PRIV on a Sheave (Table 3.14). -/
def issueSys (x : XHdr) (legal : State → Bool) (k : Nat) (eff : State → Cpu → Eff) (s : State) : Result :=
  issueX x (fun s => !isNaris x.ex || legal s) k (fun s u => if isNaris x.ex then eff s u else .fault 0x07) s

/-- The count of 400 MHz cycles: the cycles of instructions, and a free number of cycles for the waits and memory accesses since the
last read, whose times are not fixed (R124, notes/assumptions/73.md). -/
def State.cycles (s : State) : Nat × State :=
  let v := s.naris
  if v.lag then
    let (j, s) := s.draw
    let n := v.spent + Config.freeNat j
    (v.cpu.cyc + n, { s with naris := { v with spent := n, lag := false } })
  else (v.cpu.cyc + v.spent, s)

/-- The value of a system register as SRR reads it. SR_FETCHBANK without a fetch from flash, and a register that Table 3.16
does not assign, read a free value. -/
def State.sysReg (s : State) (sr : Nat) : Word × State :=
  let v := s.naris
  let free (w : Word → Word) : Word × State :=
    let (j, s) := s.draw
    (w (Config.freeWord j), s)
  match sr with
  | 0x00 => (BitVec.ofNat 32 v.status, s)
  | 0x01 => (v.epc, s)
  | 0x02 => (v.cause, s)
  | 0x03 => (v.vbase, s)
  | 0x04 => (BitVec.ofNat 32 s.cycles.1, s.cycles.2)
  | 0x05 => (BitVec.ofNat 32 (s.cycles.1 / 2 ^ 32), s.cycles.2)
  | 0x06 => (BitVec.ofNat 32 v.nwin, s)
  | 0x07 =>
    match s.fetchBank with
    | some b => (BitVec.ofNat 32 b, s)
    | none => free fun w => w &&& 1
  | 0x08 => (BitVec.ofNat 32 (s.reg Reg.NARIS.LOCKSTEP_CNT), s)
  | _ => free id

/-- A write of a system register. -/
def State.setSysReg (s : State) (sr : Nat) (w : Word) : State :=
  let v := s.naris
  match sr with
  | 0x00 => { s with naris := { v with status := w.toNat % 4 } }
  | 0x01 => { s with naris := { v with epc := w } }
  | 0x03 => { s with naris := { v with vbase := w &&& 0xFFFFFF00 } }
  | 0x06 => { s with naris := { v with nwin := w.toNat % 512 } }
  | _ => s

/-- The system registers that SRW writes. -/
def sysWritable (sr : Nat) : Bool := sr == 0x00 || sr == 0x01 || sr == 0x03 || sr == 0x06

/-- A result of Naris after which an interrupt may be taken. -/
def thenIrq (ex : Exec) (r : Result) : Result :=
  match ex, r with
  | .naris, .next s => .next s.takeIrq
  | _, r => r

/-- `SRR`. -/
def execSrr (x : XHdr) (dd : Fin 16) (sr : BitVec 8) (s : State) : Result :=
  issueSys x always 1 (fun s _ =>
    let (w, s) := s.sysReg sr.toNat
    .ok s [(0, .d dd w)] none) s

/-- `SRW` : a read-only or unassigned register is ILLEGAL. -/
def execSrw (x : XHdr) (sr : BitVec 8) (ds : Fin 16) (s : State) : Result :=
  thenIrq x.ex (issueSys x (fun _ => sysWritable sr.toNat) 1 (fun s u => .ok (s.setSysReg sr.toNat (u.dr ds)) [] none) s)

/-- `ERET` : PC ← SR_EPC; IE ← PIE. -/
def execEret (x : XHdr) (s : State) : Result :=
  thenIrq x.ex (issueSys x always 3 (fun s _ =>
    let v := s.naris
    .ok { s with naris := { v with status := v.status / 2 * 2 + v.status / 2 % 2 } } [] (some v.epc)) s)

/-- `WFI` : Naris waits until an interrupt; one that is pending ends the wait at once. -/
def execWfi (x : XHdr) (s : State) : Result :=
  issueSys x always 1 (fun s _ => .ok { s with naris := { s.naris with waiting := !s.naris.irq } } [] none) s

/-- A store of Naris has not yet reached witness memory. -/
def State.storeWaits (s : State) : Bool :=
  s.witness.wired.any fun (e : Wired × Nat) => match e.1 with
    | .store _ _ => true
    | _ => false

/-- `SYNC` : it ends once every earlier control-plane write has completed; until then it waits, its word and MC judged first
(R104, R105). -/
def execSync (x : XHdr) (s : State) : Result :=
  issueSys x always 1 (fun s _ => if s.storeWaits then .stop s.lags else .ok s [] none) s

end Sys2Proof.Machine
end

