-- ==== Sys2Proof/Machine/SheaveFlow.lean ====
section
/-!
DEFINITION. Branches (Table 3.7, Table 3.8), POST, CARRY and HALT (R119 to R122).
-/
set_option autoImplicit false

namespace Sys2Proof.Machine

/-- A branch of two cycles to a word offset from itself. -/
def branchTo (u : Cpu) (off : Word) : Word := u.pc + (off <<< 2)

/-- `B`. -/
def execB (h : CHdr) (off : BitVec 24) (s : State) : Result :=
  issueC h always 2 (fun s u => .ok s [] (some (branchTo u (off.signExtend 32)))) s

/-- `BL` : D15 ← address + 4; branch. -/
def execBl (x : XHdr) (off : BitVec 22) (s : State) : Result :=
  issueX x always 2 (fun s u => .ok s [(0, .d 15 (u.pc + 4))] (some (branchTo u (off.signExtend 32)))) s

/-- `B_QM` : branch by the MC field. -/
def execBqm (x : XHdr) (off : BitVec 22) (s : State) : Result :=
  issueX x always 2 (fun s u => .ok s [] (some (branchTo u (off.signExtend 32)))) s

/-- `BR` : branch to Dm; MISALIGNED where it is not word aligned. -/
def execBr (x : XHdr) (dm : Fin 16) (s : State) : Result :=
  issueX x always 3 (fun s u => if (u.dr dm).toNat % 4 ≠ 0 then .fault 0x05 else .ok s [] (some (u.dr dm))) s

/-- `BLR` : as BR; D15 ← address + 4 after Dm is read. -/
def execBlr (x : XHdr) (dm : Fin 16) (s : State) : Result :=
  issueX x always 3 (fun s u => if (u.dr dm).toNat % 4 ≠ 0 then .fault 0x05
    else .ok s [(0, .d 15 (u.pc + 4))] (some (u.dr dm))) s

/-- The instructions that are ILLEGAL on Naris (R124). -/
def notNaris (ex : Exec) (_ : State) : Bool := !isNaris ex

/-- The statuses that a class may post (R119). -/
def postable (st : Nat) : Bool := st == 0x00 || st == 0x01 || st == 0x05 || (0x08 ≤ st && st ≤ 0x0E) || st == 0x13

/-- `POST` : the item's status, output length and 8 B result; a breach of R119 is fault BAD_POST. -/
def execPost (x : XHdr) (ds dl dr : Fin 16) (s : State) : Result :=
  issueX x (notNaris x.ex) 1 (fun s u =>
    match s.itemOf x.ex, s.classOf x.ex with
    | some i, some c =>
      let st := (u.dr ds).toNat % 256
      let len := (u.dr dl).toNat
      let res := leBytes 4 (u.dr dr).toNat ++ leBytes 4 (u.dr (nextReg dr)).toNat
      if !postable st || c.maxOut < len || dr.val % 2 ≠ 0 || i.posted.isSome || i.carriedNow
          || (st == 0x05 && cut res 6 2 == [0xFF, 0xFF]) then .fault 0x09
      else .ok (s.updItem i.id fun i => { i with posted := some { status := st, len := len, result := res } }) [] none
    | _, _ => .ok s [] none) s

/-- Stop a Sheave until its EGRESS window or its next slot. -/
def State.halt (s : State) (ex : Exec) (r : RunState) : State :=
  match ex with
  | .sheave y l => s.setSheave y l { s.sheave y l with run := r }
  | .naris => s

/-- A write of M is pending: that of a CMP of the check-value unit, the only one with a delay. -/
def RegWrite.writesM : RegWrite → Bool
  | .fl _ _ _ _ (some _) => true
  | _ => false

/-- A unit operation of the item has started and its result is not yet readable, in its register or in M (R75, R114). -/
def State.portBusy (s : State) (ex : Exec) : Bool :=
  match ex with
  | .sheave y l =>
    let sh := s.sheave y l
    let late (r : Nat) : Bool := decide (5 * sh.cpu.cyc < 4 * r)
    s.flights.any (fun f => f.tag.y == y.val && f.tag.l == l.val && f.tag.item == sh.item && late f.r)
      || sh.port.due.any (fun e => decide (sh.cpu.cyc < e.cyc)) || sh.cpu.pend.any (fun p => p.w.writesM)
      || sh.port.cvu.any (fun e => late e.r) || sh.port.gh.any (fun (e : Nat × Quad) => late e.1)
  | .naris => false

/-- `CARRY` : stop until the EGRESS window, and park there; ILLEGAL in a class without the CARRY flag (R121). A port
operation still outstanding ends the item with INTERNAL_FAULT in its EGRESS window (R75). -/
def execCarry (x : XHdr) (s : State) : Result :=
  issueX x (fun s => notNaris x.ex s && ((s.classOf x.ex).map ClassEnt.carry).getD false) 1 (fun s _ =>
    match s.itemOf x.ex with
    | some i =>
      let out := s.portBusy x.ex
      .ok ((s.updItem i.id fun i => { i with carriedNow := true, outstanding := i.outstanding || out }).halt x.ex .carried) [] none
    | none => .ok (s.halt x.ex .carried) [] none) s

/-- `HALT` : stop until the START of the Sheave's next slot (R122). -/
def execHalt (x : XHdr) (s : State) : Result :=
  issueX x (notNaris x.ex) 1 (fun s _ => .ok (s.halt x.ex .halted) [] none) s

end Sys2Proof.Machine
end

