-- ==== Sys2Proof/Machine/Ports.lean ====
section
/-!
DEFINITION. The port instructions (R111 to R118): PUTD, PUTQ, GETD and GETQ over the port window of Table 3.10, and the
starting operations that have a row of their own.
-/
set_option autoImplicit false

namespace Sys2Proof.Machine

/-! ### The port window (Table 3.10, Table 3.11) -/

/-- A starting register. -/
inductive PStart where
  | block (op : CipherOp) (u : Nat)
  | mac (op : CipherOp) (u : Nat)
  | pin (u : Nat)
  | final (sha2 : Bool) (u : Nat)
  | ghInit | ghX | go | fold | cmp

/-- A port register: staged by PUTD, staged by PUTQ with what it accepts, DATAQ, starting by PUTD or PUTQ, a result word
or accumulator with its delay. -/
inductive PReg where
  | stD (off : Nat)
  | stQ (off : Nat) (sealOk key : Bool)
  | dataq
  | goD (p : PStart)
  | goQ (p : PStart) (sealOk : Bool)
  | resD (off : Nat)
  | resQ (off : Nat)
  | resX (u : Nat)
  | ghY
  | cvuRes (hi : Bool)
  | rand | randq | krandq | rstat
  | seq (off : Nat)

/-- The cipher port's registers of pair `u`. -/
def cipherReg (u r : Nat) : Option PReg :=
  match r with
  | 0x00 => some (.stQ (u * 0x100) true true)
  | 0x10 => some (.stD (u * 0x100 + 0x10))
  | 0x20 => some (.goQ (.block .enc u) true)
  | 0x30 => some (.goQ (.block .dec u) true)
  | 0x40 => some (.goD (.mac .macStart u))
  | 0x50 => some (.goQ (.mac .macBlk u) true)
  | 0x60 => some (.goQ (.mac .macLast u) true)
  | 0x70 => some (.goQ (.mac .macLastp u) true)
  | 0x80 => some (.resQ (cipherRes u))
  | 0x90 => some (.resX u)
  | _ => none

/-- The PIN format unit's registers of pair `u`. -/
def pinReg (u r : Nat) : Option PReg :=
  let b := 0x10000 + u * 0x100
  match r with
  | 0x00 => some (.stD b)
  | 0x10 => some (.stQ (b + 0x10) false false)
  | 0x20 => some (.stQ (b + 0x20) false false)
  | 0x30 => some (.stQ (b + 0x30) true false)
  | 0x40 => some (.stQ (b + 0x40) true true)
  | 0x50 => some (.goD (.pin u))
  | 0x60 => some (.resQ (b + 0x60))
  | 0x70 => some (.resD (b + 0x70))
  | _ => none

/-- The hash port's registers of core `u`. -/
def hashReg (sha2 : Bool) (u r : Nat) : Option PReg :=
  let b := hashBase sha2 u
  match r with
  | 0x00 | 0x10 | 0x20 => some (.stD (b + r))
  | 0x30 => some (.stQ (b + 0x30) true true)
  | 0x40 => some (.goD (.final sha2 u))
  | 0x50 | 0x60 | 0x70 | 0x80 => some (.resQ (b + r))
  | _ => none

/-- The registers of a port that has one instance for a Sheave. -/
def soleReg (area r : Nat) : Option PReg :=
  match area with
  | 3 => match r with
    | 0x00 => some (.stQ 0x30000 false false)
    | 0x10 => some (.goD .ghInit)
    | 0x20 => some (.goQ .ghX false)
    | 0x30 => some .ghY
    | _ => none
  | 4 =>
    if r < 0x40 ∧ r % 4 = 0 then some (.stD (0x40000 + r))
    else if r = 0x40 then some (.goD .go)
    else if r = 0x50 then some (.resD bneStatus)
    else none
  | 5 => if r = 0 then some (.resD 0x50000) else none
  | 6 => match r with
    | 0x00 | 0x10 | 0x20 | 0x50 | 0x54 => some (.stD (0x60000 + r))
    | 0x30 => some .dataq
    | 0x40 => some (.goD .fold)
    | 0x60 => some (.goD .cmp)
    | 0x70 => some (.cvuRes false)
    | 0x74 => some (.cvuRes true)
    | _ => none
  | 7 => match r with
    | 0x00 => some .rand
    | 0x10 => some .randq
    | 0x20 => some .krandq
    | 0x30 => some .rstat
    | _ => none
  | 8 => if (r % 4 = 0 ∧ r ≤ 0x1C) ∨ (r % 4 = 0 ∧ 0x40 ≤ r ∧ r ≤ 0x7C) then some (.seq r) else none
  | _ => none

/-- The port register at an address; none where Table 3.11 lists none or the unit lies beyond the active ones. -/
def portReg (addr : Nat) : Option PReg :=
  if addr < 0xF00000 ∨ 0x1000000 ≤ addr then none
  else
    let o := addr - 0xF00000
    let area := o / 0x10000
    let r := o % 0x10000
    let u := r / 0x100
    if area = 0 then (if u < 32 then cipherReg u (r % 0x100) else none)
    else if area = 1 then (if u < 32 then pinReg u (r % 0x100) else none)
    else if area = 2 then
      if u < 64 then hashReg false u (r % 0x100)
      else if u < 96 then hashReg true (u - 64) (r % 0x100)
      else none
    else soleReg area r

/-- The unit without a spare that serves a port register (Table 4.4). -/
def PReg.unit : PReg → Option Nat
  | .goD .ghInit | .goQ .ghX _ | .ghY => some kindGhash
  | .rand | .randq => some kindYardRill
  | _ => none

/-! ### Starting operations -/

/-- Start an operation with the word or the accumulator that the PUT writes. -/
def State.portStart (s : State) (y l : Nat) (p : PStart) (w : Word) (q : Acc) : Eff :=
  match p with
  | .block op u => startBlock op y l u q s
  | .mac op u => startMac op y l u w.toNat q s
  | .pin u => startPin y l u s
  | .final sha2 u => startHash sha2 y l u w.toNat s
  | .ghInit => startGhInit y l s
  | .ghX => startGhX y l q s
  | .go => startGo none none y l s
  | .fold => startFold y l w s
  | .cmp => startCvuCmp y l s

/-- Stage a word. -/
def PortIf.putWord (p : PortIf) (off : Nat) (v : Word) : PortIf := { p with w := SMap.put 0 p.w off v }

/-- Stage an accumulator. -/
def PortIf.putAcc (p : PortIf) (off : Nat) (v : Acc) : PortIf := { p with q := SMap.put {} p.q off v }

/-- A PUT or GET on a Sheave: it is ILLEGAL on Naris (R124); Ab must be word aligned, and then the address must name a
register (R111). -/
def portOp (x : XHdr) (ab : Fin 8) (off : BitVec 12) (f : Nat → Nat → PReg → State → Cpu → Eff) (s : State) : Result :=
  issueX x (notNaris x.ex) 1 (fun s u =>
    match x.ex with
    | .naris => .ok s [] none
    | .sheave y l =>
      if (u.ar ab).toNat % 4 ≠ 0 then .fault 0x05
      else
        match portReg ((u.ar ab).toNat + 4 * off.toNat) with
        | none => .fault 0x03
        | some r =>
          match x.chk, r.unit with
          | .unit, some k => .stop (s.unitFault y l k)
          | _, _ => f y l r s u) s

/-- `PUTD` : write a data register to a staged or starting register. -/
def execPutd (x : XHdr) (dn : Fin 16) (ab : Fin 8) (off : BitVec 12) (s : State) : Result :=
  portOp x ab off (fun y l r s u =>
    match r with
    | .stD o => .ok (s.updPort y l fun p => p.putWord o (u.dr dn)) [] none
    | .goD p => s.portStart y l p (u.dr dn) {}
    | _ => .fault 0x03) s

/-- `PUTQ` : write an accumulator to a staged or starting register: SEALED where it takes no sealed input, then KEY_ATTR
where it takes a key (R100, R101). -/
def execPutq (x : XHdr) (qn : Fin 4) (ab : Fin 8) (off : BitVec 12) (s : State) : Result :=
  portOp x ab off (fun y l r s u =>
    let q := u.qr qn
    match r with
    | .stQ o sealOk key =>
      if q.sealed && !sealOk then .fault 0x02
      else if key && !q.key then .fault 0x0A
      else .ok (s.updPort y l fun p => p.putAcc o q) [] none
    | .dataq => .ok (s.updPort y l fun p => { p with dataq := some q }) [] none
    | .goQ p sealOk => if q.sealed && !sealOk then .fault 0x02 else s.portStart y l p 0 q
    | _ => .fault 0x03) s

/-! ### Results -/

/-- A sequencer port word (Table 3.13). -/
def State.seqWord (s : State) (y l off : Nat) : Nat :=
  let sh := s.sheave y l
  let slot := (s.slotEnt sh.slot)
  match s.item sh.item with
  | none => 0
  | some i =>
    match off with
    | 0x00 => i.frameNo % 2 ^ 32
    | 0x04 => i.frames
    | 0x08 => i.inLen
    | 0x0C => (s.yard y).gen % 256 * 2 ^ 16 + i.part * 2 ^ 8 + i.cls
    | 0x10 => (slot.map SlotEnt.stop).getD 0
    | 0x14 => 5 * sh.cpu.cyc / 4
    | 0x18 => match i.latch with
      | some (t, code) => if t ≤ s.quarter (5 * sh.cpu.cyc) then code else 0
      | none => 0
    | 0x1C => ((s.classEnt i.cls).map ClassEnt.maxIn).getD 0
    | o => (i.desc.getD ((o - 0x40) / 4) 0).toNat

/-- `GETD` : read a result word as it stands in the issue cycle (R114); the value reaches Dn after the delay of Table 3.11. -/
def execGetd (x : XHdr) (dn : Fin 16) (ab : Fin 8) (off : BitVec 12) (s : State) : Result :=
  portOp x ab off (fun y l r s u =>
    let p := (s.sheave y l).port.seen u.cyc
    match r with
    | .resD o => .ok s [(2, .d dn (BitVec.ofNat 32 (p.word o)))] none
    | .cvuRes hi => .ok s [(2, .d dn (BitVec.ofNat 32 (p.cvuRead u.cyc / (if hi then 2 ^ 32 else 1))))] none
    | .rand =>
      let (b, s) := s.rillRead y l 4 4
      .ok s [(4, .d dn (BitVec.ofNat 32 (leNat b)))] none
    | .rstat => .ok s [(1, .d dn (BitVec.ofNat 32 ((if s.spring.seedReady then 2 else 0) + p.word 0x70030)))] none
    | .seq o => .ok s [(1, .d dn (BitVec.ofNat 32 (s.seqWord y l o)))] none
    | _ => .fault 0x03) s

/-- What GETQ of RESULT_X gives: the block appended to the key that RESULT of the same pair delivered, or a sealed zero
key (R158). -/
def appendKey (u : Nat) (dest res : Acc) : Option Acc :=
  match dest.org, res.org with
  | some a, some b =>
    if dest.key && res.key && dest.len = 16 && a.pair = u && b.pair = u && a.serial < b.serial && a.tdes = b.tdes then
      some (if a.tdes then { dest with ext := bytesQuad ((quadBytes res.val).take 8), len := 24 } else { dest with ext := res.val, len := 32 })
    else none
  | _, _ => none

/-- `GETQ` : read a result accumulator as it stands in the issue cycle (R114). -/
def execGetq (x : XHdr) (qn : Fin 4) (ab : Fin 8) (off : BitVec 12) (s : State) : Result :=
  portOp x ab off (fun y l r s u =>
    let p := (s.sheave y l).port.seen u.cyc
    match r with
    | .resQ o => .ok s [(2, .q qn (p.acc o))] none
    | .resX k =>
      match appendKey k (u.qr qn) (p.acc (cipherResX k)) with
      | some v => .ok s [(2, .q qn v)] none
      | none => .ok (s.reportAt y l (u.cyc + 3) stKeyUsage) [(2, .q qn { sealed := true, key := true })] none
    | .ghY => .ok s [(2, .q qn { val := p.ghRead u.cyc })] none
    | .randq =>
      let (b, s) := s.rillRead y l 16 8
      .ok s [(8, .q qn { val := bytesQuad b })] none
    | .krandq =>
      let (q, s) := s.krandRead y l
      .ok s [(8, .q qn q)] none
    | _ => .fault 0x03) s

/-! ### Starting operations with a row of their own -/

/-- A starting operation of a Sheave. -/
def startOp (x : XHdr) (f : Nat → Nat → State → Cpu → Eff) (s : State) : Result :=
  issueX x (notNaris x.ex) 1 (fun s u =>
    match x.ex with
    | .naris => .ok s [] none
    | .sheave y l => f y l s u) s

/-- `ENC` : encipher one block (R115, R116, R156, R157). -/
def execEnc (x : XHdr) (u : Fin 32) (qn : Fin 4) (s : State) : Result :=
  startOp x (fun y l s c => startBlock .enc y l u (c.qr qn) s) s

/-- `DEC` : decipher one block. -/
def execDec (x : XHdr) (u : Fin 32) (qn : Fin 4) (s : State) : Result :=
  startOp x (fun y l s c => startBlock .dec y l u (c.qr qn) s) s

/-- `MAC_START` : open a chain in the mode of Dn [1:0] (R164). -/
def execMacStart (x : XHdr) (u : Fin 32) (dn : Fin 16) (s : State) : Result :=
  startOp x (fun y l s c => startMac .macStart y l u (c.dr dn).toNat {} s) s

/-- `MAC_BLK` : chain one block. -/
def execMacBlk (x : XHdr) (u : Fin 32) (qn : Fin 4) (s : State) : Result :=
  startOp x (fun y l s c => startMac .macBlk y l u 0 (c.qr qn) s) s

/-- `MAC_LAST` : the final complete block. -/
def execMacLast (x : XHdr) (u : Fin 32) (qn : Fin 4) (s : State) : Result :=
  startOp x (fun y l s c => startMac .macLast y l u 0 (c.qr qn) s) s

/-- `MAC_LASTP` : the final block, padded by the code. -/
def execMacLastp (x : XHdr) (u : Fin 32) (qn : Fin 4) (s : State) : Result :=
  startOp x (fun y l s c => startMac .macLastp y l u 0 (c.qr qn) s) s

/-- `PIN_FORMAT_GO` : the PIN format unit of a pair (R294); the value is ignored. -/
def execPinFormatGo (x : XHdr) (u : Fin 32) (_ : Fin 16) (s : State) : Result :=
  startOp x (fun y l s _ => startPin y l u s) s

/-- `FINAL` : the hash of the staged message (R171 to R175); a core index beyond the active units is fault
ADDR_CLASS. -/
def execHashFinal (x : XHdr) (sha2 : Bool) (u : Fin 64) (dn : Fin 16) (s : State) : Result :=
  startOp x (fun y l s c => if sha2 && 32 ≤ u.val then .fault 0x03 else startHash sha2 y l u (c.dr dn).toNat s) s

/-- `INIT` : Y ← 0. -/
def execGhInit (x : XHdr) (_ : Fin 16) (s : State) : Result :=
  startOp x (fun y l s _ => if x.chk = .unit then .stop (s.unitFault y l kindGhash) else startGhInit y l s) s

/-- `X` : Y ← (Y XOR X) · H; a sealed operand is fault SEALED. -/
def execGhX (x : XHdr) (qn : Fin 4) (s : State) : Result :=
  startOp x (fun y l s c =>
    if x.chk = .unit then .stop (s.unitFault y l kindGhash)
    else if (c.qr qn).sealed then .fault 0x02 else startGhX y l (c.qr qn) s) s

/-- `FOLD` : a check value over the payload and the word in Dn (R585). -/
def execGhFold (x : XHdr) (dn : Fin 16) (s : State) : Result := startOp x (fun y l s c => startFold y l (c.dr dn) s) s

/-- `CVU_CMP` : M ← the check value equals the expected one. -/
def execCvuCmp (x : XHdr) (_ : Fin 16) (s : State) : Result := startOp x (fun y l s _ => startCvuCmp y l s) s

/-! ### Commands of the mailbox: GO with the row's OP -/

/-- GO with the operation of the row (Table 6.4, Table 7.2); KMODE stands in the mailbox, or is the row's own. -/
def mailOp (x : XHdr) (op : Nat) (bad : Option (Fin 32)) (s : State) : Result :=
  startOp x (fun y l s _ => startGo (some op) bad y l s) s

/-- GO of KSTORE in the mode of the row (Table 8.6): CMD9 [3:0] is staged as KMODE first. -/
def kstoreOp (x : XHdr) (mode : Nat) (s : State) : Result :=
  startOp x (fun y l s _ =>
    let w := (s.sheave y l).port.word (0x40000 + 4 * 9)
    startGo (some 0x05) none y l (s.updPort y l fun p => p.putWord (0x40000 + 4 * 9) (BitVec.ofNat 32 (setBits w 0 4 mode)))) s

/-- `BNE_LOAD` -/
def execBneLoad (x : XHdr) (_ : Fin 16) (s : State) : Result := mailOp x 0x01 none s
/-- `BNE_STORE` -/
def execBneStore (x : XHdr) (_ : Fin 16) (s : State) : Result := mailOp x 0x02 none s
/-- `BNE_CLEAR` -/
def execBneClear (x : XHdr) (_ : Fin 16) (s : State) : Result := mailOp x 0x03 none s
/-- `KLOAD` -/
def execKload (x : XHdr) (_ : Fin 16) (bad : Option (Fin 32)) (s : State) : Result := mailOp x 0x04 bad s
/-- `KSTORE_SLOTS` -/
def execKstoreSlots (x : XHdr) (_ : Fin 16) (s : State) : Result := kstoreOp x 1 s
/-- `KSTORE_IMPORT` -/
def execKstoreImport (x : XHdr) (_ : Fin 16) (s : State) : Result := kstoreOp x 2 s
/-- `KSTORE_GENERATE` -/
def execKstoreGenerate (x : XHdr) (_ : Fin 16) (s : State) : Result := kstoreOp x 3 s
/-- `KSTORE_PUBLIC` -/
def execKstorePublic (x : XHdr) (_ : Fin 16) (s : State) : Result := kstoreOp x 4 s
/-- `KSTORE_DELETE` -/
def execKstoreDelete (x : XHdr) (_ : Fin 16) (s : State) : Result := kstoreOp x 5 s
/-- `KSTORE_RESTRICT` -/
def execKstoreRestrict (x : XHdr) (_ : Fin 16) (s : State) : Result := kstoreOp x 6 s
/-- `MODADD` -/
def execModadd (x : XHdr) (_ : Fin 16) (s : State) : Result := mailOp x 0x10 none s
/-- `MODSUB` -/
def execModsub (x : XHdr) (_ : Fin 16) (s : State) : Result := mailOp x 0x11 none s
/-- `MODMUL` -/
def execModmul (x : XHdr) (_ : Fin 16) (s : State) : Result := mailOp x 0x12 none s
/-- `MODINV` -/
def execModinv (x : XHdr) (_ : Fin 16) (s : State) : Result := mailOp x 0x13 none s
/-- `MODEXP` -/
def execModexp (x : XHdr) (_ : Fin 16) (s : State) : Result := mailOp x 0x14 none s
/-- `RSA_PUB` -/
def execRsaPub (x : XHdr) (_ : Fin 16) (s : State) : Result := mailOp x 0x20 none s
/-- `RSA_HALF` -/
def execRsaHalf (x : XHdr) (_ : Fin 16) (s : State) : Result := mailOp x 0x21 none s
/-- `RSA_FINISH` -/
def execRsaFinish (x : XHdr) (_ : Fin 16) (s : State) : Result := mailOp x 0x22 none s
/-- `EC_KEYGEN` -/
def execEcKeygen (x : XHdr) (_ : Fin 16) (s : State) : Result := mailOp x 0x30 none s
/-- `ECDSA_SIGN` -/
def execEcdsaSign (x : XHdr) (_ : Fin 16) (s : State) : Result := mailOp x 0x31 none s
/-- `ECDSA_VERIFY` -/
def execEcdsaVerify (x : XHdr) (_ : Fin 16) (s : State) : Result := mailOp x 0x32 none s
/-- `ECDH` -/
def execEcdh (x : XHdr) (_ : Fin 16) (s : State) : Result := mailOp x 0x33 none s
/-- `EC_PUBCHK` -/
def execEcPubchk (x : XHdr) (_ : Fin 16) (s : State) : Result := mailOp x 0x34 none s
/-- `ED_KEYGEN` -/
def execEdKeygen (x : XHdr) (_ : Fin 16) (s : State) : Result := mailOp x 0x38 none s
/-- `ED_SIGN` -/
def execEdSign (x : XHdr) (_ : Fin 16) (s : State) : Result := mailOp x 0x39 none s
/-- `ED_VERIFY` -/
def execEdVerify (x : XHdr) (_ : Fin 16) (s : State) : Result := mailOp x 0x3A none s
/-- `X_KEYGEN` -/
def execXKeygen (x : XHdr) (_ : Fin 16) (s : State) : Result := mailOp x 0x3B none s
/-- `X25519` -/
def execX25519 (x : XHdr) (_ : Fin 16) (s : State) : Result := mailOp x 0x3C none s
/-- `PKLOAD` -/
def execPkload (x : XHdr) (_ : Fin 16) (bad : Option (Fin 32)) (s : State) : Result := mailOp x 0x60 bad s
/-- `PKSTORE` -/
def execPkstore (x : XHdr) (_ : Fin 16) (s : State) : Result := mailOp x 0x61 none s
/-- `PCLEAR` -/
def execPclear (x : XHdr) (_ : Fin 16) (s : State) : Result := mailOp x 0x62 none s
/-- `MLDSA_KEYGEN` -/
def execMldsaKeygen (x : XHdr) (_ : Fin 16) (s : State) : Result := mailOp x 0x68 none s
/-- `MLDSA_SIGN` -/
def execMldsaSign (x : XHdr) (_ : Fin 16) (s : State) : Result := mailOp x 0x69 none s
/-- `MLDSA_SIGN_CONT` -/
def execMldsaSignCont (x : XHdr) (_ : Fin 16) (s : State) : Result := mailOp x 0x6A none s
/-- `MLDSA_VERIFY` -/
def execMldsaVerify (x : XHdr) (_ : Fin 16) (s : State) : Result := mailOp x 0x6B none s
/-- `MLKEM_KEYGEN` -/
def execMlkemKeygen (x : XHdr) (_ : Fin 16) (s : State) : Result := mailOp x 0x70 none s
/-- `MLKEM_ENCAPS` -/
def execMlkemEncaps (x : XHdr) (_ : Fin 16) (s : State) : Result := mailOp x 0x71 none s
/-- `MLKEM_DECAPS` -/
def execMlkemDecaps (x : XHdr) (_ : Fin 16) (s : State) : Result := mailOp x 0x72 none s

end Sys2Proof.Machine
end

