-- ==== Sys2Proof/Machine/SheaveAcc.lean ====
section
/-!
DEFINITION. The accumulator operations of Table 3.7 and their seals (R97 to R101, Table 3.4).
-/
set_option autoImplicit false

namespace Sys2Proof.Machine

/-- `QCLR` : value, extension and attributes to zero (R98). -/
def execQclr (h : CHdr) (qd : Fin 4) (s : State) : Result :=
  issueC h always 1 (fun s _ => .regs s [(0, .qclr qd)]) s

/-- `QMOV` : Qd ← Qa, with Qa's KEY state (Table 3.7; notes/assumptions/10.md). -/
def execQmov (h : CHdr) (qd qa : Fin 4) (s : State) : Result :=
  issueC h always 1 (fun s u => .regs s [(0, .q qd (u.qr qa))]) s

/-- `QXOR` : Qd ← Qa XOR Qb; KEY and the extension clear (R99, R101). -/
def execQxor (h : CHdr) (qd qa qb : Fin 4) (s : State) : Result :=
  issueC h always 1 (fun s u => .regs s [(0, .q qd
    { val := (u.qr qa).val ^^^ (u.qr qb).val, sealed := (u.qr qa).sealed || (u.qr qb).sealed })]) s

/-- `QEQ` : M ← bytes 0 to LEN − 1 are equal. -/
def execQeq (h : CHdr) (qa qb : Fin 4) (lenM1 : Fin 16) (s : State) : Result :=
  issueC h always 1 (fun s u =>
    let n := lenM1.val + 1
    .regs s [(0, .fl none none none none (some ((quadBytes (u.qr qa).val).take n == (quadBytes (u.qr qb).val).take n)))]) s

/-- `QCMP` : unsigned comparison of two accumulators; a sealed operand is fault SEALED (R100). -/
def execQcmp (h : CHdr) (qa qb : Fin 4) (s : State) : Result :=
  issueC h always 2 (fun s u =>
    let a := u.qr qa
    let b := u.qr qb
    if a.sealed || b.sealed then .fault 0x02
    else .regs s [(0, .fl (some (a.val - b.val).msb) (some (a.val == b.val)) (some (decide (b.val ≤ a.val))) (some false) none)]) s

/-- `QINS` : lane LANE of Qd ← Dm (R97). -/
def execQins (h : CHdr) (qd : Fin 4) (dm : Fin 16) (lane : Fin 4) (s : State) : Result :=
  issueC h always 1 (fun s u =>
    let old := (u.qr qd).val
    let sh := 32 * lane.val
    let v := (old &&& ~~~((0xFFFFFFFF : Quad) <<< sh)) ||| ((u.dr dm).setWidth 128 <<< sh)
    .regs s [(0, .q qd { val := v, sealed := (u.qr qd).sealed })]) s

/-- `QEXT` : Dd ← lane LANE of Qa; a sealed operand is fault SEALED (R100). -/
def execQext (h : CHdr) (dd : Fin 16) (qa lane : Fin 4) (s : State) : Result :=
  issueC h always 1 (fun s u =>
    if (u.qr qa).sealed then .fault 0x02
    else .regs s [(0, .d dd (((u.qr qa).val >>> (32 * lane.val)).setWidth 32))]) s

end Sys2Proof.Machine
end

