-- ==== Sys2Proof/Machine/SheaveAlu.lean ====
section
/-!
DEFINITION. The register instructions of Table 3.7: ALU, shifts, immediates, load immediate, address arithmetic,
multiplication.
-/
set_option autoImplicit false

namespace Sys2Proof.Machine

/-- An ALU instruction of one cycle: its result from the registers, destination and flag writes. -/
def alu (h : CHdr) (dd : Option (Fin 16)) (f : Bool) (o : Cpu → AluOut) (s : State) : Result :=
  issueC h always 1 (fun s u => .regs s ((o u).writes dd f)) s

/-- `ADD` : Dd ← Dn + Dm. -/
def execAdd (h : CHdr) (f : Bool) (dd dn dm : Fin 16) (s : State) : Result :=
  alu h (some dd) f (fun u => aluAdd (u.dr dn) (u.dr dm) false) s

/-- `ADDC` : Dd ← Dn + Dm + C. -/
def execAddc (h : CHdr) (f : Bool) (dd dn dm : Fin 16) (s : State) : Result :=
  alu h (some dd) f (fun u => aluAdd (u.dr dn) (u.dr dm) u.fl.c) s

/-- `SUB` : Dd ← Dn − Dm. -/
def execSub (h : CHdr) (f : Bool) (dd dn dm : Fin 16) (s : State) : Result :=
  alu h (some dd) f (fun u => aluSub (u.dr dn) (u.dr dm) true) s

/-- `SUBC` : Dd ← Dn − Dm − (1 − C). -/
def execSubc (h : CHdr) (f : Bool) (dd dn dm : Fin 16) (s : State) : Result :=
  alu h (some dd) f (fun u => aluSub (u.dr dn) (u.dr dm) u.fl.c) s

/-- `AND`. -/
def execAnd (h : CHdr) (f : Bool) (dd dn dm : Fin 16) (s : State) : Result :=
  alu h (some dd) f (fun u => aluLogic (u.dr dn &&& u.dr dm)) s

/-- `OR`. -/
def execOr (h : CHdr) (f : Bool) (dd dn dm : Fin 16) (s : State) : Result :=
  alu h (some dd) f (fun u => aluLogic (u.dr dn ||| u.dr dm)) s

/-- `XOR`. -/
def execXor (h : CHdr) (f : Bool) (dd dn dm : Fin 16) (s : State) : Result :=
  alu h (some dd) f (fun u => aluLogic (u.dr dn ^^^ u.dr dm)) s

/-- `ANDN` : Dd ← Dn AND NOT Dm. -/
def execAndn (h : CHdr) (f : Bool) (dd dn dm : Fin 16) (s : State) : Result :=
  alu h (some dd) f (fun u => aluLogic (u.dr dn &&& ~~~(u.dr dm))) s

/-- `NOT` : Dd ← NOT Dm. -/
def execNot (h : CHdr) (f : Bool) (dd dm : Fin 16) (s : State) : Result :=
  alu h (some dd) f (fun u => aluLogic (~~~(u.dr dm))) s

/-- `MOV` : Dd ← Dm. -/
def execMov (h : CHdr) (f : Bool) (dd dm : Fin 16) (s : State) : Result :=
  alu h (some dd) f (fun u => aluLogic (u.dr dm)) s

/-- `CMP` : flags of Dn − Dm. -/
def execCmp (h : CHdr) (dn dm : Fin 16) (s : State) : Result :=
  alu h none true (fun u => aluSub (u.dr dn) (u.dr dm) true) s

/-- `TST` : flags of Dn AND Dm. -/
def execTst (h : CHdr) (dn dm : Fin 16) (s : State) : Result :=
  alu h none true (fun u => aluLogic (u.dr dn &&& u.dr dm)) s

/-- `SHL` by SH. -/
def execShl (h : CHdr) (f : Bool) (dd dn : Fin 16) (sh : Fin 32) (s : State) : Result :=
  alu h (some dd) f (fun u => aluShift .shl (u.dr dn) sh) s

/-- `SHR` by SH. -/
def execShr (h : CHdr) (f : Bool) (dd dn : Fin 16) (sh : Fin 32) (s : State) : Result :=
  alu h (some dd) f (fun u => aluShift .shr (u.dr dn) sh) s

/-- `SAR` by SH. -/
def execSar (h : CHdr) (f : Bool) (dd dn : Fin 16) (sh : Fin 32) (s : State) : Result :=
  alu h (some dd) f (fun u => aluShift .sar (u.dr dn) sh) s

/-- `ROR` by SH. -/
def execRor (h : CHdr) (f : Bool) (dd dn : Fin 16) (sh : Fin 32) (s : State) : Result :=
  alu h (some dd) f (fun u => aluShift .ror (u.dr dn) sh) s

/-- `SHLV` by Dm[4:0]. -/
def execShlv (h : CHdr) (f : Bool) (dd dn dm : Fin 16) (s : State) : Result :=
  alu h (some dd) f (fun u => aluShift .shl (u.dr dn) ((u.dr dm).toNat % 32)) s

/-- `SHRV` by Dm[4:0]. -/
def execShrv (h : CHdr) (f : Bool) (dd dn dm : Fin 16) (s : State) : Result :=
  alu h (some dd) f (fun u => aluShift .shr (u.dr dn) ((u.dr dm).toNat % 32)) s

/-- `SARV` by Dm[4:0]. -/
def execSarv (h : CHdr) (f : Bool) (dd dn dm : Fin 16) (s : State) : Result :=
  alu h (some dd) f (fun u => aluShift .sar (u.dr dn) ((u.dr dm).toNat % 32)) s

/-- `RORV` by Dm[4:0]. -/
def execRorv (h : CHdr) (f : Bool) (dd dn dm : Fin 16) (s : State) : Result :=
  alu h (some dd) f (fun u => aluShift .ror (u.dr dn) ((u.dr dm).toNat % 32)) s

/-- `CLZ` : leading zeros of Dm. -/
def execClz (h : CHdr) (f : Bool) (dd dm : Fin 16) (s : State) : Result :=
  alu h (some dd) f (fun u => aluLogic (clzOf (u.dr dm))) s

/-- `BSWAP` : byte order of Dm reversed. -/
def execBswap (h : CHdr) (f : Bool) (dd dm : Fin 16) (s : State) : Result :=
  alu h (some dd) f (fun u => aluLogic (bswapOf (u.dr dm))) s

/-- IMM12, zero-extended. -/
def imm12 (i : BitVec 12) : Word := i.setWidth 32

/-- `ADDI`. -/
def execAddi (h : CHdr) (f : Bool) (dd dn : Fin 16) (imm : BitVec 12) (s : State) : Result :=
  alu h (some dd) f (fun u => aluAdd (u.dr dn) (imm12 imm) false) s

/-- `SUBI`. -/
def execSubi (h : CHdr) (f : Bool) (dd dn : Fin 16) (imm : BitVec 12) (s : State) : Result :=
  alu h (some dd) f (fun u => aluSub (u.dr dn) (imm12 imm) true) s

/-- `ANDI`. -/
def execAndi (h : CHdr) (f : Bool) (dd dn : Fin 16) (imm : BitVec 12) (s : State) : Result :=
  alu h (some dd) f (fun u => aluLogic (u.dr dn &&& imm12 imm)) s

/-- `ORI`. -/
def execOri (h : CHdr) (f : Bool) (dd dn : Fin 16) (imm : BitVec 12) (s : State) : Result :=
  alu h (some dd) f (fun u => aluLogic (u.dr dn ||| imm12 imm)) s

/-- `XORI`. -/
def execXori (h : CHdr) (f : Bool) (dd dn : Fin 16) (imm : BitVec 12) (s : State) : Result :=
  alu h (some dd) f (fun u => aluLogic (u.dr dn ^^^ imm12 imm)) s

/-- `CMPI` : flags of Dn − IMM12. -/
def execCmpi (h : CHdr) (dn : Fin 16) (imm : BitVec 12) (s : State) : Result :=
  alu h none true (fun u => aluSub (u.dr dn) (imm12 imm) true) s

/-- `TSTI` : flags of Dn AND IMM12. -/
def execTsti (h : CHdr) (dn : Fin 16) (imm : BitVec 12) (s : State) : Result :=
  alu h none true (fun u => aluLogic (u.dr dn &&& imm12 imm)) s

/-- `LDI` : Dd ← IMM16, zero-extended. -/
def execLdi (h : CHdr) (dd : Fin 16) (imm : BitVec 16) (s : State) : Result :=
  alu h (some dd) false (fun _ => aluLogic (imm.setWidth 32)) s

/-- `LDIH` : Dd[31:16] ← IMM16, Dd[15:0] kept. -/
def execLdih (h : CHdr) (dd : Fin 16) (imm : BitVec 16) (s : State) : Result :=
  alu h (some dd) false (fun u => aluLogic ((imm.setWidth 32 <<< 16) ||| (u.dr dd &&& 0xFFFF))) s

/-! ### Address registers -/

/-- An instruction of one cycle that writes an address register. -/
def addrOp (h : CHdr) (legal : State → Bool) (ad : Fin 8) (v : Cpu → Word) (s : State) : Result :=
  issueC h legal 1 (fun s u => .regs s [(0, .a ad (v u))]) s

/-- `LEA` : MODE 0 Ab + signed IMM16, 1 PC + 4 × signed IMM16, 2 IMM16 × 256; MODE 3 and a nonzero Ab in MODE 1 and 2 are
ILLEGAL. -/
def execLea (h : CHdr) (ad ab : Fin 8) (mode : BitVec 2) (imm : BitVec 16) (s : State) : Result :=
  addrOp h (fun _ => decide (mode ≠ 3) && (decide (mode = 0) || decide (ab = 0))) ad
    (fun u => if mode = 0 then u.ar ab + imm.signExtend 32
      else if mode = 1 then u.pc + (imm.signExtend 32 <<< 2)
      else imm.setWidth 32 <<< 8) s

/-- The second operand of ADDA and SUBA. -/
def aopVal (o : AOp) (u : Cpu) : Word :=
  match o with
  | .imm v => imm12 v
  | .reg r => u.dr r

/-- `ADDA` : Ad ← As + operand, modulo 2³². -/
def execAdda (h : CHdr) (ad src : Fin 8) (op : AOp) (s : State) : Result :=
  addrOp h always ad (fun u => u.ar src + aopVal op u) s

/-- `SUBA` : Ad ← As − operand, modulo 2³². -/
def execSuba (h : CHdr) (ad src : Fin 8) (op : AOp) (s : State) : Result :=
  addrOp h always ad (fun u => u.ar src - aopVal op u) s

/-- `MOVA` : Ad ← Dm. -/
def execMova (h : CHdr) (ad : Fin 8) (dm : Fin 16) (s : State) : Result :=
  addrOp h always ad (fun u => u.dr dm) s

/-- `MOVD` : Dd ← As. -/
def execMovd (h : CHdr) (dd : Fin 16) (src : Fin 8) (s : State) : Result :=
  alu h (some dd) false (fun u => aluLogic (u.ar src)) s

/-! ### Multiplication -/

/-- An instruction that writes a 64-bit value to a register pair after two delay slots; an odd Dd is ILLEGAL (R105). -/
def pairOp (h : CHdr) (dd : Fin 16) (v : Cpu → BitVec 64) (s : State) : Result :=
  issueC h (fun _ => dd.val % 2 == 0) 1
    (fun s u => .regs s [(2, .d dd ((v u).setWidth 32)), (2, .d (nextReg dd) ((v u >>> 32).setWidth 32))]) s

/-- `MUL` : low 32 bits of the product, one delay slot. -/
def execMul (h : CHdr) (dd dn dm : Fin 16) (s : State) : Result :=
  issueC h always 1 (fun s u => .regs s [(1, .d dd (u.dr dn * u.dr dm))]) s

/-- `MULU` : unsigned 64-bit product into Dd+1:Dd. -/
def execMulu (h : CHdr) (dd dn dm : Fin 16) (s : State) : Result :=
  pairOp h dd (fun u => (u.dr dn).setWidth 64 * (u.dr dm).setWidth 64) s

/-- `MULS` : signed 64-bit product into Dd+1:Dd. -/
def execMuls (h : CHdr) (dd dn dm : Fin 16) (s : State) : Result :=
  pairOp h dd (fun u => (u.dr dn).signExtend 64 * (u.dr dm).signExtend 64) s

/-- `MACU` : Dd+1:Dd ← Dd+1:Dd + Dn × Dm, modulo 2⁶⁴. -/
def execMacu (h : CHdr) (dd dn dm : Fin 16) (s : State) : Result :=
  pairOp h dd (fun u => ((u.dr (nextReg dd)).setWidth 64 <<< 32) + (u.dr dd).setWidth 64
    + (u.dr dn).setWidth 64 * (u.dr dm).setWidth 64) s

end Sys2Proof.Machine
end

