-- ==== Sys2Proof/Machine/Dispatch.lean ====
section
/-! DEFINITION. The meaning of each command: one arm per row of spec/opcode_table.json. -/

namespace Sys2Proof.Machine

def exec (i : Instr) (s : State) : Host.Outcome State Fault Refusal :=
  match i with
  | .powerOn => Sys2Proof.Machine.execPowerOn s
  | .domainColdStart => Sys2Proof.Machine.execDomainColdStart s
  | .perstNAssert ns => Sys2Proof.Machine.execPerstNAssert ns s
  | .perstNRelease => Sys2Proof.Machine.execPerstNRelease s
  | .powerDown => Sys2Proof.Machine.execPowerDown s
  | .mainPowerLoss => Sys2Proof.Machine.execMainPowerLoss s
  | .mainPowerReturn => Sys2Proof.Machine.execMainPowerReturn s
  | .flashControllerReady => Sys2Proof.Machine.execFlashControllerReady s
  | .seedReady => Sys2Proof.Machine.execSeedReady s
  | .dieLinkRekey => Sys2Proof.Machine.execDieLinkRekey s
  | .bootKnownAnswerTests failed => Sys2Proof.Machine.execBootKnownAnswerTests failed s
  | .yardRillInstantiate y => Sys2Proof.Machine.execYardRillInstantiate y s
  | .springStartRetry pass => Sys2Proof.Machine.execSpringStartRetry pass s
  | .bootComplete us => Sys2Proof.Machine.execBootComplete us s
  | .dieLinkTransfer x err => Sys2Proof.Machine.execDieLinkTransfer x err s
  | .frameTick => Sys2Proof.Machine.execFrameTick s
  | .slotStart y slot => Sys2Proof.Machine.execSlotStart y slot s
  | .egressStart y slot err => Sys2Proof.Machine.execEgressStart y slot err s
  | .heldCompletionRelease item => Sys2Proof.Machine.execHeldCompletionRelease item s
  | .auditFold => Sys2Proof.Machine.execAuditFold s
  | .intCycleMessage => Sys2Proof.Machine.execIntCycleMessage s
  | .msixUnmask v => Sys2Proof.Machine.execMsixUnmask v s
  | .sqTail p j v => Sys2Proof.Machine.execSqTail p j v s
  | .cqHead p j v => Sys2Proof.Machine.execCqHead p j v s
  | .revoke p j v => Sys2Proof.Machine.execRevoke p j v s
  | .dbUnassigned p off => Sys2Proof.Machine.execDbUnassigned p off s
  | .entryFetch ring => Sys2Proof.Machine.execEntryFetch ring s
  | .entryArrival ring dw => Sys2Proof.Machine.execEntryArrival ring dw s
  | .inputReadComplete item data => Sys2Proof.Machine.execInputReadComplete item data s
  | .hostReadError tgt => Sys2Proof.Machine.execHostReadError tgt s
  | .linkLost cause => Sys2Proof.Machine.execLinkLost cause s
  | .linkUp width speed cfg bars => Sys2Proof.Machine.execLinkUp width speed cfg bars s
  | .barUnsupportedAccess bar off size write => Sys2Proof.Machine.execBarUnsupportedAccess bar off size write s
  | .ringCreate => Sys2Proof.Machine.execRingCreate s
  | .ringDelete => Sys2Proof.Machine.execRingDelete s
  | .ringStop => Sys2Proof.Machine.execRingStop s
  | .ringReset => Sys2Proof.Machine.execRingReset s
  | .setint => Sys2Proof.Machine.execSetint s
  | .herrFrameRead byNaris => Sys2Proof.Machine.execHerrFrameRead byNaris s
  | .stage src => Sys2Proof.Machine.execStage src s
  | .rigStageDone => Sys2Proof.Machine.execRigStageDone s
  | .activate src => Sys2Proof.Machine.execActivate src s
  | .rigLoad => Sys2Proof.Machine.execRigLoad s
  | .rigLoadDone => Sys2Proof.Machine.execRigLoadDone s
  | .commit => Sys2Proof.Machine.execCommit s
  | .admitEnable en => Sys2Proof.Machine.execAdmitEnable en s
  | .load => Sys2Proof.Machine.execLoad s
  | .fsyncInEdge phase => Sys2Proof.Machine.execFsyncInEdge phase s
  | .alignLost twin => Sys2Proof.Machine.execAlignLost twin s
  | .tickStep => Sys2Proof.Machine.execTickStep s
  | .add h f dd dn dm => Sys2Proof.Machine.execAdd h f dd dn dm s
  | .addc h f dd dn dm => Sys2Proof.Machine.execAddc h f dd dn dm s
  | .sub h f dd dn dm => Sys2Proof.Machine.execSub h f dd dn dm s
  | .subc h f dd dn dm => Sys2Proof.Machine.execSubc h f dd dn dm s
  | .and h f dd dn dm => Sys2Proof.Machine.execAnd h f dd dn dm s
  | .or h f dd dn dm => Sys2Proof.Machine.execOr h f dd dn dm s
  | .xor h f dd dn dm => Sys2Proof.Machine.execXor h f dd dn dm s
  | .andn h f dd dn dm => Sys2Proof.Machine.execAndn h f dd dn dm s
  | .not h f dd dm => Sys2Proof.Machine.execNot h f dd dm s
  | .mov h f dd dm => Sys2Proof.Machine.execMov h f dd dm s
  | .cmp h dn dm => Sys2Proof.Machine.execCmp h dn dm s
  | .tst h dn dm => Sys2Proof.Machine.execTst h dn dm s
  | .shl h f dd dn sh => Sys2Proof.Machine.execShl h f dd dn sh s
  | .shr h f dd dn sh => Sys2Proof.Machine.execShr h f dd dn sh s
  | .sar h f dd dn sh => Sys2Proof.Machine.execSar h f dd dn sh s
  | .ror h f dd dn sh => Sys2Proof.Machine.execRor h f dd dn sh s
  | .shlv h f dd dn dm => Sys2Proof.Machine.execShlv h f dd dn dm s
  | .shrv h f dd dn dm => Sys2Proof.Machine.execShrv h f dd dn dm s
  | .sarv h f dd dn dm => Sys2Proof.Machine.execSarv h f dd dn dm s
  | .rorv h f dd dn dm => Sys2Proof.Machine.execRorv h f dd dn dm s
  | .clz h f dd dm => Sys2Proof.Machine.execClz h f dd dm s
  | .bswap h f dd dm => Sys2Proof.Machine.execBswap h f dd dm s
  | .addi h f dd dn imm => Sys2Proof.Machine.execAddi h f dd dn imm s
  | .subi h f dd dn imm => Sys2Proof.Machine.execSubi h f dd dn imm s
  | .andi h f dd dn imm => Sys2Proof.Machine.execAndi h f dd dn imm s
  | .ori h f dd dn imm => Sys2Proof.Machine.execOri h f dd dn imm s
  | .xori h f dd dn imm => Sys2Proof.Machine.execXori h f dd dn imm s
  | .cmpi h dn imm => Sys2Proof.Machine.execCmpi h dn imm s
  | .tsti h dn imm => Sys2Proof.Machine.execTsti h dn imm s
  | .ldi h dd imm => Sys2Proof.Machine.execLdi h dd imm s
  | .ldih h dd imm => Sys2Proof.Machine.execLdih h dd imm s
  | .ld h sz sx dt ab off => Sys2Proof.Machine.execLd h sz sx dt ab off s
  | .st h sz dt ab off => Sys2Proof.Machine.execSt h sz dt ab off s
  | .lda h at' ab off => Sys2Proof.Machine.execLda h at' ab off s
  | .sta h at' ab off => Sys2Proof.Machine.execSta h at' ab off s
  | .lea h ad ab mode imm => Sys2Proof.Machine.execLea h ad ab mode imm s
  | .adda h ad src op => Sys2Proof.Machine.execAdda h ad src op s
  | .suba h ad src op => Sys2Proof.Machine.execSuba h ad src op s
  | .mova h ad dm => Sys2Proof.Machine.execMova h ad dm s
  | .movd h dd src => Sys2Proof.Machine.execMovd h dd src s
  | .mul h dd dn dm => Sys2Proof.Machine.execMul h dd dn dm s
  | .mulu h dd dn dm => Sys2Proof.Machine.execMulu h dd dn dm s
  | .muls h dd dn dm => Sys2Proof.Machine.execMuls h dd dn dm s
  | .macu h dd dn dm => Sys2Proof.Machine.execMacu h dd dn dm s
  | .tli h dd ab ds => Sys2Proof.Machine.execTli h dd ab ds s
  | .qld h qt ab off => Sys2Proof.Machine.execQld h qt ab off s
  | .qst h qt ab off => Sys2Proof.Machine.execQst h qt ab off s
  | .qclr h qd => Sys2Proof.Machine.execQclr h qd s
  | .qmov h qd qa => Sys2Proof.Machine.execQmov h qd qa s
  | .qxor h qd qa qb => Sys2Proof.Machine.execQxor h qd qa qb s
  | .qeq h qa qb lenM1 => Sys2Proof.Machine.execQeq h qa qb lenM1 s
  | .qcmp h qa qb => Sys2Proof.Machine.execQcmp h qa qb s
  | .qins h qd dm lane => Sys2Proof.Machine.execQins h qd dm lane s
  | .qext h dd qa lane => Sys2Proof.Machine.execQext h dd qa lane s
  | .b h off => Sys2Proof.Machine.execB h off s
  | .bl x off => Sys2Proof.Machine.execBl x off s
  | .bqm x off => Sys2Proof.Machine.execBqm x off s
  | .br x dm => Sys2Proof.Machine.execBr x dm s
  | .blr x dm => Sys2Proof.Machine.execBlr x dm s
  | .qkey x qd dh use => Sys2Proof.Machine.execQkey x qd dh use s
  | .putd x dn ab off => Sys2Proof.Machine.execPutd x dn ab off s
  | .putq x qn ab off => Sys2Proof.Machine.execPutq x qn ab off s
  | .getd x dn ab off => Sys2Proof.Machine.execGetd x dn ab off s
  | .getq x qn ab off => Sys2Proof.Machine.execGetq x qn ab off s
  | .post x ds dl dr => Sys2Proof.Machine.execPost x ds dl dr s
  | .carry x => Sys2Proof.Machine.execCarry x s
  | .halt x => Sys2Proof.Machine.execHalt x s
  | .srr x dd sr => Sys2Proof.Machine.execSrr x dd sr s
  | .srw x sr ds => Sys2Proof.Machine.execSrw x sr ds s
  | .eret x => Sys2Proof.Machine.execEret x s
  | .wfi x => Sys2Proof.Machine.execWfi x s
  | .sync x => Sys2Proof.Machine.execSync x s
  | .narisInterrupt => Sys2Proof.Machine.execNarisInterrupt s
  | .lockstepMismatch => Sys2Proof.Machine.execLockstepMismatch s
  | .enc x u qn => Sys2Proof.Machine.execEnc x u qn s
  | .dec x u qn => Sys2Proof.Machine.execDec x u qn s
  | .macStart x u dn => Sys2Proof.Machine.execMacStart x u dn s
  | .macBlk x u qn => Sys2Proof.Machine.execMacBlk x u qn s
  | .macLast x u qn => Sys2Proof.Machine.execMacLast x u qn s
  | .macLastp x u qn => Sys2Proof.Machine.execMacLastp x u qn s
  | .cipherResult u bad => Sys2Proof.Machine.execCipherResult u bad s
  | .pinFormatGo x u dn => Sys2Proof.Machine.execPinFormatGo x u dn s
  | .hashFinal x sha2 u dn => Sys2Proof.Machine.execHashFinal x sha2 u dn s
  | .hashResult sha2 u bad => Sys2Proof.Machine.execHashResult sha2 u bad s
  | .ghInit x dn => Sys2Proof.Machine.execGhInit x dn s
  | .ghX x qn => Sys2Proof.Machine.execGhX x qn s
  | .ghFold x dn => Sys2Proof.Machine.execGhFold x dn s
  | .cvuCmp x dn => Sys2Proof.Machine.execCvuCmp x dn s
  | .rillBufferRefill y l => Sys2Proof.Machine.execRillBufferRefill y l s
  | .qkeyResult bad => Sys2Proof.Machine.execQkeyResult bad s
  | .rowRestore row => Sys2Proof.Machine.execRowRestore row s
  | .scrubRow bad => Sys2Proof.Machine.execScrubRow bad s
  | .bneLoad x dn => Sys2Proof.Machine.execBneLoad x dn s
  | .bneStore x dn => Sys2Proof.Machine.execBneStore x dn s
  | .bneClear x dn => Sys2Proof.Machine.execBneClear x dn s
  | .kload x dn bad => Sys2Proof.Machine.execKload x dn bad s
  | .kstoreSlots x dn => Sys2Proof.Machine.execKstoreSlots x dn s
  | .kstoreImport x dn => Sys2Proof.Machine.execKstoreImport x dn s
  | .kstoreGenerate x dn => Sys2Proof.Machine.execKstoreGenerate x dn s
  | .kstorePublic x dn => Sys2Proof.Machine.execKstorePublic x dn s
  | .kstoreDelete x dn => Sys2Proof.Machine.execKstoreDelete x dn s
  | .kstoreRestrict x dn => Sys2Proof.Machine.execKstoreRestrict x dn s
  | .modadd x dn => Sys2Proof.Machine.execModadd x dn s
  | .modsub x dn => Sys2Proof.Machine.execModsub x dn s
  | .modmul x dn => Sys2Proof.Machine.execModmul x dn s
  | .modinv x dn => Sys2Proof.Machine.execModinv x dn s
  | .modexp x dn => Sys2Proof.Machine.execModexp x dn s
  | .rsaPub x dn => Sys2Proof.Machine.execRsaPub x dn s
  | .rsaHalf x dn => Sys2Proof.Machine.execRsaHalf x dn s
  | .rsaFinish x dn => Sys2Proof.Machine.execRsaFinish x dn s
  | .ecKeygen x dn => Sys2Proof.Machine.execEcKeygen x dn s
  | .ecdsaSign x dn => Sys2Proof.Machine.execEcdsaSign x dn s
  | .ecdsaVerify x dn => Sys2Proof.Machine.execEcdsaVerify x dn s
  | .ecdh x dn => Sys2Proof.Machine.execEcdh x dn s
  | .ecPubchk x dn => Sys2Proof.Machine.execEcPubchk x dn s
  | .edKeygen x dn => Sys2Proof.Machine.execEdKeygen x dn s
  | .edSign x dn => Sys2Proof.Machine.execEdSign x dn s
  | .edVerify x dn => Sys2Proof.Machine.execEdVerify x dn s
  | .xKeygen x dn => Sys2Proof.Machine.execXKeygen x dn s
  | .x25519 x dn => Sys2Proof.Machine.execX25519 x dn s
  | .pkload x dn bad => Sys2Proof.Machine.execPkload x dn bad s
  | .pkstore x dn => Sys2Proof.Machine.execPkstore x dn s
  | .pclear x dn => Sys2Proof.Machine.execPclear x dn s
  | .mldsaKeygen x dn => Sys2Proof.Machine.execMldsaKeygen x dn s
  | .mldsaSign x dn => Sys2Proof.Machine.execMldsaSign x dn s
  | .mldsaSignCont x dn => Sys2Proof.Machine.execMldsaSignCont x dn s
  | .mldsaVerify x dn => Sys2Proof.Machine.execMldsaVerify x dn s
  | .mlkemKeygen x dn => Sys2Proof.Machine.execMlkemKeygen x dn s
  | .mlkemEncaps x dn => Sys2Proof.Machine.execMlkemEncaps x dn s
  | .mlkemDecaps x dn => Sys2Proof.Machine.execMlkemDecaps x dn s
  | .bneResult y l flt => Sys2Proof.Machine.execBneResult y l flt s
  | .staleResultDiscard y => Sys2Proof.Machine.execStaleResultDiscard y s
  | .opmRead => Sys2Proof.Machine.execOpmRead s
  | .opmReadDone => Sys2Proof.Machine.execOpmReadDone s
  | .agingMeasure y p ps => Sys2Proof.Machine.execAgingMeasure y p ps s
  | .swap y l retire => Sys2Proof.Machine.execSwap y l retire s
  | .swapCancel y => Sys2Proof.Machine.execSwapCancel y s
  | .poolRetire kind unit => Sys2Proof.Machine.execPoolRetire kind unit s
  | .poolCancel kind unit => Sys2Proof.Machine.execPoolCancel kind unit s
  | .preloadDone y => Sys2Proof.Machine.execPreloadDone y s
  | .inspect => Sys2Proof.Machine.execInspect s
  | .cleatDelete => Sys2Proof.Machine.execCleatDelete s
  | .cleatRestrict => Sys2Proof.Machine.execCleatRestrict s
  | .flush => Sys2Proof.Machine.execFlush s
  | .vaultSectorProgram => Sys2Proof.Machine.execVaultSectorProgram s
  | .vaultReadback ok => Sys2Proof.Machine.execVaultReadback ok s
  | .vaultReload => Sys2Proof.Machine.execVaultReload s
  | .partCreate q => Sys2Proof.Machine.execPartCreate q s
  | .quiesce => Sys2Proof.Machine.execQuiesce s
  | .resume => Sys2Proof.Machine.execResume s
  | .partReset => Sys2Proof.Machine.execPartReset s
  | .destroy => Sys2Proof.Machine.execDestroy s
  | .dirtyStart => Sys2Proof.Machine.execDirtyStart s
  | .dirtySwap => Sys2Proof.Machine.execDirtySwap s
  | .dirtySync => Sys2Proof.Machine.execDirtySync s
  | .dirtyStop => Sys2Proof.Machine.execDirtyStop s
  | .dirtyMerge old => Sys2Proof.Machine.execDirtyMerge old s
  | .exportBlob hostOk => Sys2Proof.Machine.execExportBlob hostOk s
  | .importBlob blob => Sys2Proof.Machine.execImportBlob blob s
  | .stayEnable en => Sys2Proof.Machine.execStayEnable en s
  | .linkTrain fast slow twinLanes twinRate versions lat => Sys2Proof.Machine.execLinkTrain fast slow twinLanes twinRate versions lat s
  | .linkRetrain fast slow lat expect => Sys2Proof.Machine.execLinkRetrain fast slow lat expect s
  | .hello fp rig frame => Sys2Proof.Machine.execHello fp rig frame s
  | .kem body frame => Sys2Proof.Machine.execKem body frame s
  | .auth cert certSig sig digest mode => Sys2Proof.Machine.execAuth cert certSig sig digest mode s
  | .pairingRetry => Sys2Proof.Machine.execPairingRetry s
  | .linkFrameRx typ seq ackSeq nak rej crcOk tagOk => Sys2Proof.Machine.execLinkFrameRx typ seq ackSeq nak rej crcOk tagOk s
  | .ack => Sys2Proof.Machine.execAck s
  | .heartbeat => Sys2Proof.Machine.execHeartbeat s
  | .heartbeatRx frame digest depart cyc => Sys2Proof.Machine.execHeartbeatRx frame digest depart cyc s
  | .heartbeatMiss => Sys2Proof.Machine.execHeartbeatMiss s
  | .twinLost => Sys2Proof.Machine.execTwinLost s
  | .cleatWr rec seq => Sys2Proof.Machine.execCleatWr rec seq s
  | .config m cmd => Sys2Proof.Machine.execConfig m cmd s
  | .rig hash take => Sys2Proof.Machine.execRig hash take s
  | .cplRec ring part status seq frame flags => Sys2Proof.Machine.execCplRec ring part status seq frame flags s
  | .head part headFrame h => Sys2Proof.Machine.execHead part headFrame h s
  | .resync row gen e => Sys2Proof.Machine.execResync row gen e s
  | .resyncDone => Sys2Proof.Machine.execResyncDone s
  | .retrain => Sys2Proof.Machine.execRetrain s
  | .resyncCfg c => Sys2Proof.Machine.execResyncCfg c s
  | .dupClear => Sys2Proof.Machine.execDupClear s
  | .dupHoldExpiry => Sys2Proof.Machine.execDupHoldExpiry s
  | .cellFail c test => Sys2Proof.Machine.execCellFail c test s
  | .estimatorWindow c n1 n11 => Sys2Proof.Machine.execEstimatorWindow c n1 n11 s
  | .conditioningCall ok spoiled => Sys2Proof.Machine.execConditioningCall ok spoiled s
  | .suspendedCellTest c pass => Sys2Proof.Machine.execSuspendedCellTest c pass s
  | .healthClear => Sys2Proof.Machine.execHealthClear s
  | .healthFailTimeout => Sys2Proof.Machine.execHealthFailTimeout s
  | .rillReseed r => Sys2Proof.Machine.execRillReseed r s
  | .seedArrival r => Sys2Proof.Machine.execSeedArrival r s
  | .rillRefusing r => Sys2Proof.Machine.execRillRefusing r s
  | .testpatEn en pattern => Sys2Proof.Machine.execTestpatEn en pattern s
  | .artCommit => Sys2Proof.Machine.execArtCommit s
  | .errFrameRead byNaris => Sys2Proof.Machine.execErrFrameRead byNaris s
  | .hgo h => Sys2Proof.Machine.execHgo h s
  | .hostCvuDone h data => Sys2Proof.Machine.execHostCvuDone h data s
  | .flashRead byNaris ue ce => Sys2Proof.Machine.execFlashRead byNaris ue ce s
  | .program byNaris => Sys2Proof.Machine.execProgram byNaris s
  | .erase byNaris jfail => Sys2Proof.Machine.execErase byNaris jfail s
  | .flashCheck byNaris => Sys2Proof.Machine.execFlashCheck byNaris s
  | .remap byNaris => Sys2Proof.Machine.execRemap byNaris s
  | .flashOpDone us => Sys2Proof.Machine.execFlashOpDone us s
  | .romFlashService => Sys2Proof.Machine.execRomFlashService s
  | .optionGenerationWrite ok => Sys2Proof.Machine.execOptionGenerationWrite ok s
  | .modeReq m => Sys2Proof.Machine.execModeReq m s
  | .modeChange => Sys2Proof.Machine.execModeChange s
  | .modeChangeWipe => Sys2Proof.Machine.execModeChangeWipe s
  | .reset v => Sys2Proof.Machine.execReset v s
  | .recoveryWindowEnd => Sys2Proof.Machine.execRecoveryWindowEnd s
  | .fwStage src => Sys2Proof.Machine.execFwStage src s
  | .fwActivate src => Sys2Proof.Machine.execFwActivate src s
  | .confirm => Sys2Proof.Machine.execConfirm s
  | .raiseFw => Sys2Proof.Machine.execRaiseFw s
  | .raiseRig => Sys2Proof.Machine.execRaiseRig s
  | .attest kemExt term => Sys2Proof.Machine.execAttest kemExt term s
  | .tamperEval t => Sys2Proof.Machine.execTamperEval t s
  | .loopSample n b => Sys2Proof.Machine.execLoopSample n b s
  | .bankEraseAfterClear => Sys2Proof.Machine.execBankEraseAfterClear s
  | .applyPolicy => Sys2Proof.Machine.execApplyPolicy s
  | .testGo src => Sys2Proof.Machine.execTestGo src s
  | .testEnd pass => Sys2Proof.Machine.execTestEnd pass s
  | .rtcSet => Sys2Proof.Machine.execRtcSet s
  | .xtal32Start => Sys2Proof.Machine.execXtal32Start s
  | .witnessRecordWrite => Sys2Proof.Machine.execWitnessRecordWrite s
  | .cardInsert c => Sys2Proof.Machine.execCardInsert c s
  | .cardRemove => Sys2Proof.Machine.execCardRemove s
  | .sdBlockRead blk crcErrs ms data buf => Sys2Proof.Machine.execSdBlockRead blk crcErrs ms data buf s
  | .sdBlockWrite blk wp crcErrs buf e => Sys2Proof.Machine.execSdBlockWrite blk wp crcErrs buf e s
  | .iccActivation atrB atrA reps => Sys2Proof.Machine.execIccActivation atrB atrA reps s
  | .apduExchange cmd resp reps => Sys2Proof.Machine.execApduExchange cmd resp reps s
  | .qOpen => Sys2Proof.Machine.execQOpen s
  | .qClose => Sys2Proof.Machine.execQClose s
  | .scan tags => Sys2Proof.Machine.execScan tags s
  | .quorumTimeout => Sys2Proof.Machine.execQuorumTimeout s
  | .custodians => Sys2Proof.Machine.execCustodians s
  | .rigKey => Sys2Proof.Machine.execRigKey s
  | .members => Sys2Proof.Machine.execMembers s
  | .domainGen => Sys2Proof.Machine.execDomainGen s
  | .domainImport => Sys2Proof.Machine.execDomainImport s
  | .domainExport => Sys2Proof.Machine.execDomainExport s
  | .compWrite cards => Sys2Proof.Machine.execCompWrite cards s
  | .compLoad blocks => Sys2Proof.Machine.execCompLoad blocks s
  | .cerCommit => Sys2Proof.Machine.execCerCommit s
  | .abandon => Sys2Proof.Machine.execAbandon s
  | .fieldOn ma => Sys2Proof.Machine.execFieldOn ma s
  | .wread blk crcOk => Sys2Proof.Machine.execWread blk crcOk s
  | .wstamp blk data ma vbat crcOk => Sys2Proof.Machine.execWstamp blk data ma vbat crcOk s
  | .hlta => Sys2Proof.Machine.execHlta s
  | .hostBusyRetry won => Sys2Proof.Machine.execHostBusyRetry won s
  | .latchedLoRead byNaris off => Sys2Proof.Machine.execLatchedLoRead byNaris off s
  | .intForce blk v => Sys2Proof.Machine.execIntForce blk v s
  | .lockPage blk v => Sys2Proof.Machine.execLockPage blk v s
  | .registerWrite byNaris bar off v => Sys2Proof.Machine.execRegisterWrite byNaris bar off v s
  | .fieldLoss quiet => Sys2Proof.Machine.execFieldLoss quiet s
  | .picReqa wupa => Sys2Proof.Machine.execPicReqa wupa s
  | .picAnticoll known => Sys2Proof.Machine.execPicAnticoll known s
  | .picSelect uid crcOk => Sys2Proof.Machine.execPicSelect uid crcOk s
  | .fltFrameRead byNaris => Sys2Proof.Machine.execFltFrameRead byNaris s
  | .rtcSecRead byNaris => Sys2Proof.Machine.execRtcSecRead byNaris s
  | .readerFieldTimeout => Sys2Proof.Machine.execReaderFieldTimeout s

end Sys2Proof.Machine
end

