-- ==== Sys2Proof/Safety.lean ====
section
/-!
DEFINITION. What counts as a safe step: one that answers a next state, with every memory in its canonical form. No command
of the model answers a fault, and a refusal would name a command without a meaning.
-/
set_option autoImplicit false

namespace Sys2Proof.Machine

/-- The canonical form of every memory of the block: addresses rise, and no entry repeats what an unlisted address reads as
(0, and 0xFF in the flash array); the same of the register fields. -/
def Memory.wf (s : State) : Bool :=
  SMap.wf 0 s.ymem && SMap.wf 0 s.iram && SMap.wf 0 s.dram && SMap.wf 0 s.narisRam && SMap.wf 0 s.witness.mem && SMap.wf 0 s.cust.win
    && SMap.wf 0xFF s.flash.mem && SMap.wf 0 s.rf

/-- The command answers a next state. -/
def Runs (c : Sys2Proof.Instr) (s : State) : Prop := ∃ t, exec c s = .next t

/-- The step answers a next state. -/
def StepRuns (s : State) : Prop := ∃ t, step s = .next t

end Sys2Proof.Machine
end

