-- ==== Sys2Proof/WellFormed.lean ====
section
/-!
DEFINITION. The commands that stand for something the hardware can meet: an instruction whose encoding is assigned (R105), a
message with its fields at their lengths, a register write that a BAR accepts. A command that is not well formed still has
its meaning: an ILLEGAL encoding raises its fault, an access that no BAR accepts is refused.
-/
set_option autoImplicit false

namespace Sys2Proof

/-- The reserved bits of a conditional-group instruction are zero (R105). -/
def CHdr.wf (h : CHdr) : Bool := h.rsv == 0

/-- The reserved bits of an extended-group instruction are zero and MC is assigned (R103, R105). -/
def XHdr.wf (x : XHdr) : Bool := x.rsv == 0 && x.mc != .m3

/-- BAR0 offset `blk` × 256 is where a page, or a block of the yard pages, begins (R572). -/
def blockStart (blk : Nat) : Bool := blk % 16 == 0 || (decide (0x40 ≤ blk) && decide (blk < 0x80))

/-- A well-formed command. -/
def Instr.wf (i : Instr) : Bool :=
  match i with
  | .powerOn => true
  | .domainColdStart => true
  | .perstNAssert _ => true
  | .perstNRelease => true
  | .powerDown => true
  | .mainPowerLoss => true
  | .mainPowerReturn => true
  | .flashControllerReady => true
  | .seedReady => true
  | .dieLinkRekey => true
  | .bootKnownAnswerTests _ => true
  | .yardRillInstantiate _ => true
  | .springStartRetry _ => true
  | .bootComplete _ => true
  | .dieLinkTransfer _ _ => true
  | .frameTick => true
  | .slotStart _ _ => true
  | .egressStart _ _ _ => true
  | .heldCompletionRelease _ => true
  | .auditFold => true
  | .intCycleMessage => true
  | .msixUnmask _ => true
  | .sqTail _ _ _ => true
  | .cqHead _ _ _ => true
  | .revoke _ _ _ => true
  | .dbUnassigned _ _ => true
  | .entryFetch _ => true
  | .entryArrival _ _ => true
  | .inputReadComplete _ _ => true
  | .hostReadError _ => true
  | .linkLost _ => true
  | .linkUp _ _ _ _ => true
  | .barUnsupportedAccess bar off size _ => !(off % size == 0 && (bar == 0 && (size == 4 || size == 8) || bar == 2 && size == 4))
  | .ringCreate => true
  | .ringDelete => true
  | .ringStop => true
  | .ringReset => true
  | .setint => true
  | .herrFrameRead _ => true
  | .stage _ => true
  | .rigStageDone => true
  | .activate _ => true
  | .rigLoad => true
  | .rigLoadDone => true
  | .commit => true
  | .admitEnable _ => true
  | .load => true
  | .fsyncInEdge _ => true
  | .alignLost _ => true
  | .tickStep => true
  | .add h _ _ _ _ => h.wf
  | .addc h _ _ _ _ => h.wf
  | .sub h _ _ _ _ => h.wf
  | .subc h _ _ _ _ => h.wf
  | .and h _ _ _ _ => h.wf
  | .or h _ _ _ _ => h.wf
  | .xor h _ _ _ _ => h.wf
  | .andn h _ _ _ _ => h.wf
  | .not h _ _ _ => h.wf
  | .mov h _ _ _ => h.wf
  | .cmp h _ _ => h.wf
  | .tst h _ _ => h.wf
  | .shl h _ _ _ _ => h.wf
  | .shr h _ _ _ _ => h.wf
  | .sar h _ _ _ _ => h.wf
  | .ror h _ _ _ _ => h.wf
  | .shlv h _ _ _ _ => h.wf
  | .shrv h _ _ _ _ => h.wf
  | .sarv h _ _ _ _ => h.wf
  | .rorv h _ _ _ _ => h.wf
  | .clz h _ _ _ => h.wf
  | .bswap h _ _ _ => h.wf
  | .addi h _ _ _ _ => h.wf
  | .subi h _ _ _ _ => h.wf
  | .andi h _ _ _ _ => h.wf
  | .ori h _ _ _ _ => h.wf
  | .xori h _ _ _ _ => h.wf
  | .cmpi h _ _ => h.wf
  | .tsti h _ _ => h.wf
  | .ldi h _ _ => h.wf
  | .ldih h _ _ => h.wf
  | .ld h sz _ _ _ _ => h.wf && sz != 3
  | .st h sz _ _ _ => h.wf && sz != 3
  | .lda h _ _ _ => h.wf
  | .sta h _ _ _ => h.wf
  | .lea h _ ab mode _ => h.wf && mode != 3 && (mode == 0 || ab == 0)
  | .adda h _ _ _ => h.wf
  | .suba h _ _ _ => h.wf
  | .mova h _ _ => h.wf
  | .movd h _ _ => h.wf
  | .mul h _ _ _ => h.wf
  | .mulu h dd _ _ => h.wf && dd.val % 2 == 0
  | .muls h dd _ _ => h.wf && dd.val % 2 == 0
  | .macu h dd _ _ => h.wf && dd.val % 2 == 0
  | .tli h _ _ _ => h.wf
  | .qld h _ _ _ => h.wf
  | .qst h _ _ _ => h.wf
  | .qclr h _ => h.wf
  | .qmov h _ _ => h.wf
  | .qxor h _ _ _ => h.wf
  | .qeq h _ _ _ => h.wf
  | .qcmp h _ _ => h.wf
  | .qins h _ _ _ => h.wf
  | .qext h _ _ _ => h.wf
  | .b h _ => h.wf
  | .bl x _ => x.wf
  | .bqm x _ => x.wf
  | .br x _ => x.wf
  | .blr x _ => x.wf
  | .qkey x _ _ use => x.wf && decide (use.toNat ≤ 4)
  | .putd x _ _ _ => x.wf
  | .putq x _ _ _ => x.wf
  | .getd x _ _ _ => x.wf
  | .getq x _ _ _ => x.wf
  | .post x _ _ dr => x.wf && dr.val % 2 == 0
  | .carry x => x.wf
  | .halt x => x.wf
  | .srr x _ _ => x.wf
  | .srw x sr _ => x.wf && (sr == 0 || sr == 1 || sr == 3 || sr == 6)
  | .eret x => x.wf
  | .wfi x => x.wf
  | .sync x => x.wf
  | .narisInterrupt => true
  | .lockstepMismatch => true
  | .enc x _ _ => x.wf
  | .dec x _ _ => x.wf
  | .macStart x _ _ => x.wf
  | .macBlk x _ _ => x.wf
  | .macLast x _ _ => x.wf
  | .macLastp x _ _ => x.wf
  | .cipherResult _ _ => true
  | .pinFormatGo x _ _ => x.wf
  | .hashFinal x _ _ _ => x.wf
  | .hashResult _ _ _ => true
  | .ghInit x _ => x.wf
  | .ghX x _ => x.wf
  | .ghFold x _ => x.wf
  | .cvuCmp x _ => x.wf
  | .rillBufferRefill _ _ => true
  | .qkeyResult _ => true
  | .rowRestore _ => true
  | .scrubRow _ => true
  | .bneLoad x _ => x.wf
  | .bneStore x _ => x.wf
  | .bneClear x _ => x.wf
  | .kload x _ _ => x.wf
  | .kstoreSlots x _ => x.wf
  | .kstoreImport x _ => x.wf
  | .kstoreGenerate x _ => x.wf
  | .kstorePublic x _ => x.wf
  | .kstoreDelete x _ => x.wf
  | .kstoreRestrict x _ => x.wf
  | .modadd x _ => x.wf
  | .modsub x _ => x.wf
  | .modmul x _ => x.wf
  | .modinv x _ => x.wf
  | .modexp x _ => x.wf
  | .rsaPub x _ => x.wf
  | .rsaHalf x _ => x.wf
  | .rsaFinish x _ => x.wf
  | .ecKeygen x _ => x.wf
  | .ecdsaSign x _ => x.wf
  | .ecdsaVerify x _ => x.wf
  | .ecdh x _ => x.wf
  | .ecPubchk x _ => x.wf
  | .edKeygen x _ => x.wf
  | .edSign x _ => x.wf
  | .edVerify x _ => x.wf
  | .xKeygen x _ => x.wf
  | .x25519 x _ => x.wf
  | .pkload x _ _ => x.wf
  | .pkstore x _ => x.wf
  | .pclear x _ => x.wf
  | .mldsaKeygen x _ => x.wf
  | .mldsaSign x _ => x.wf
  | .mldsaSignCont x _ => x.wf
  | .mldsaVerify x _ => x.wf
  | .mlkemKeygen x _ => x.wf
  | .mlkemEncaps x _ => x.wf
  | .mlkemDecaps x _ => x.wf
  | .bneResult _ _ _ => true
  | .staleResultDiscard _ => true
  | .opmRead => true
  | .opmReadDone => true
  | .agingMeasure _ _ _ => true
  | .swap _ _ _ => true
  | .swapCancel _ => true
  | .poolRetire _ _ => true
  | .poolCancel _ _ => true
  | .preloadDone _ => true
  | .inspect => true
  | .cleatDelete => true
  | .cleatRestrict => true
  | .flush => true
  | .vaultSectorProgram => true
  | .vaultReadback _ => true
  | .vaultReload => true
  | .partCreate _ => true
  | .quiesce => true
  | .resume => true
  | .partReset => true
  | .destroy => true
  | .dirtyStart => true
  | .dirtySwap => true
  | .dirtySync => true
  | .dirtyStop => true
  | .dirtyMerge _ => true
  | .exportBlob _ => true
  | .importBlob _ => true
  | .stayEnable _ => true
  | .linkTrain _ _ _ _ _ _ => true
  | .linkRetrain _ _ _ _ => true
  | .hello fp rh _ => fp.length == 32 && rh.length == 32
  | .kem body _ => decide (body.length = 1184 ∨ body.length = 1088)
  | .auth _ _ _ digest _ => digest.length == 16
  | .pairingRetry => true
  | .linkFrameRx _ _ _ _ _ _ _ => true
  | .ack => true
  | .heartbeat => true
  | .heartbeatRx _ digest _ _ => digest.length == 16
  | .heartbeatMiss => true
  | .twinLost => true
  | .cleatWr _ _ => true
  | .config _ _ => true
  | .rig hash _ => hash.length == 32
  | .cplRec _ _ _ _ _ _ => true
  | .head _ _ h => h.length == 32
  | .resync _ _ _ => true
  | .resyncDone => true
  | .retrain => true
  | .resyncCfg _ => true
  | .dupClear => true
  | .dupHoldExpiry => true
  | .cellFail _ _ => true
  | .estimatorWindow _ n1 n11 => decide (n11.val ≤ n1.val)
  | .conditioningCall _ _ => true
  | .suspendedCellTest _ _ => true
  | .healthClear => true
  | .healthFailTimeout => true
  | .rillReseed _ => true
  | .seedArrival _ => true
  | .rillRefusing _ => true
  | .testpatEn _ _ => true
  | .artCommit => true
  | .errFrameRead _ => true
  | .hgo _ => true
  | .hostCvuDone _ _ => true
  | .flashRead _ _ _ => true
  | .program _ => true
  | .erase _ _ => true
  | .flashCheck _ => true
  | .remap _ => true
  | .flashOpDone _ => true
  | .romFlashService => true
  | .optionGenerationWrite _ => true
  | .modeReq _ => true
  | .modeChange => true
  | .modeChangeWipe => true
  | .reset _ => true
  | .recoveryWindowEnd => true
  | .fwStage _ => true
  | .fwActivate _ => true
  | .confirm => true
  | .raiseFw => true
  | .raiseRig => true
  | .attest _ _ => true
  | .tamperEval _ => true
  | .loopSample _ _ => true
  | .bankEraseAfterClear => true
  | .applyPolicy => true
  | .testGo _ => true
  | .testEnd _ => true
  | .rtcSet => true
  | .xtal32Start => true
  | .witnessRecordWrite => true
  | .cardInsert _ => true
  | .cardRemove => true
  | .sdBlockRead _ _ _ data _ => data.length == 512
  | .sdBlockWrite _ _ _ _ _ => true
  | .iccActivation _ _ _ => true
  | .apduExchange _ _ _ => true
  | .qOpen => true
  | .qClose => true
  | .scan tags => tags.all fun t => t.uid.length == 4 || t.uid.length == 7 || t.uid.length == 10
  | .quorumTimeout => true
  | .custodians => true
  | .rigKey => true
  | .members => true
  | .domainGen => true
  | .domainImport => true
  | .domainExport => true
  | .compWrite cards => decide (2 ≤ cards.length) && decide (cards.length ≤ 16)
  | .compLoad _ => true
  | .cerCommit => true
  | .abandon => true
  | .fieldOn _ => true
  | .wread _ _ => true
  | .wstamp _ _ _ _ _ => true
  | .hlta => true
  | .hostBusyRetry _ => true
  | .latchedLoRead _ off => off.val % 4 == 0
  | .intForce blk _ => blockStart blk
  | .lockPage blk _ => blockStart blk
  | .registerWrite _ bar off v => off % 4 == 0 && (bar == 0 || bar == 2 || bar == 4) && (v.hi.isNone || (bar == 0 && off % 8 == 0))
  | .fieldLoss _ => true
  | .picReqa _ => true
  | .picAnticoll known => decide (known.length ≤ 40)
  | .picSelect uid _ => uid.length == 5
  | .fltFrameRead _ => true
  | .rtcSecRead _ => true
  | .readerFieldTimeout => true

end Sys2Proof
end

