-- ==== Sys2Proof/Certificates/Slice0/Obligations.lean ====
section
/-!
DEFINITION. The statements for the provers. What they share stands in `Sys2Proof.Statements`: when an instruction executes,
and what its executor's registers are afterwards.
-/
set_option autoImplicit false

namespace Sys2Proof.Statements

open Sys2Proof Sys2Proof.Machine


/-- An instruction of the conditional group issues and executes: its executor issues, the fetch is in instruction memory, the
encoding is assigned, no check of the Sheave fails, and the condition holds (R87, R89, R102, R105, R134). -/
def Goes (h : CHdr) (s : State) : Prop :=
  s.canIssue h.ex = true ∧ s.fetchFault h.ex (s.cpu h.ex).pc = none ∧ h.rsv = 0 ∧ h.chk = .none
    ∧ condHolds h.cond (s.cpu h.ex).fl = true

/-- The same for an instruction of the extended group (R103). -/
def GoesX (x : XHdr) (s : State) : Prop :=
  s.canIssue x.ex = true ∧ s.fetchFault x.ex (s.cpu x.ex).pc = none ∧ x.rsv = 0 ∧ x.chk = .none ∧ x.mc ≠ .m3
    ∧ mcHolds x.mc (s.cpu x.ex).fl = true

/-- The next state in which the executor's registers alone differ: `k` cycles later, at the next instruction, then changed by `f`. -/
def stepCpu (s : State) (ex : Exec) (k : Nat) (f : Cpu → Cpu) : Result :=
  .next (s.setCpu ex (f { s.cpu ex with pc := (s.cpu ex).pc + 4, cyc := (s.cpu ex).cyc + k }))

/-- One data register written. -/
def withD (r : Fin 16) (v : Word) (u : Cpu) : Cpu := { u with d := u.d.set r.val v r.isLt }

/-- One address register written. -/
def withA (r : Fin 8) (v : Word) (u : Cpu) : Cpu := { u with a := u.a.set r.val v r.isLt }

/-- One accumulator replaced. -/
def withQ (r : Fin 4) (v : Acc) (u : Cpu) : Cpu := { u with q := u.q.set r.val v r.isLt }

/-- The flags written, where `f` is 1. -/
def withFl (f : Bool) (fl : Flags) (u : Cpu) : Cpu := { u with fl := if f then fl else u.fl }

/-- N and Z of a result; the other flags are kept. -/
def nz (fl : Flags) (r : Word) : Flags := { fl with n := decide (r.toInt < 0), z := decide (r = 0) }

/-- NZCV of `x + y + k`: C is the carry out of 32 bits, V is set when the signed sum does not fit (R106). -/
def sumFlags (fl : Flags) (x y : Word) (k : Nat) : Flags :=
  let r := x + y + BitVec.ofNat 32 k
  { nz fl r with c := decide (2 ^ 32 ≤ x.toNat + y.toNat + k), v := decide (x.toInt + y.toInt + k ≠ r.toInt) }

/-- NZCV of `x - y - k`: C = 1 means that no borrow occurred, V is set when the signed difference does not fit (R106). -/
def diffFlags (fl : Flags) (x y : Word) (k : Nat) : Flags :=
  let r := x - y - BitVec.ofNat 32 k
  { nz fl r with c := decide (y.toNat + k ≤ x.toNat), v := decide (x.toInt - y.toInt - k ≠ r.toInt) }

/-- A write due at a cycle. -/
def due (c : Nat) (w : RegWrite) : PendWrite := { due := c, w := w }

/-- The header and the cycle count of an instruction of the conditional group (Table 3.7). -/
def condOf (i : Instr) : Option (CHdr × Nat) :=
  match i with
  | .add h _ _ _ _ | .addc h _ _ _ _ | .sub h _ _ _ _ | .subc h _ _ _ _ | .and h _ _ _ _ | .or h _ _ _ _ | .xor h _ _ _ _
  | .andn h _ _ _ _ | .not h _ _ _ | .mov h _ _ _ | .cmp h _ _ | .tst h _ _ | .shl h _ _ _ _ | .shr h _ _ _ _ | .sar h _ _ _ _
  | .ror h _ _ _ _ | .shlv h _ _ _ _ | .shrv h _ _ _ _ | .sarv h _ _ _ _ | .rorv h _ _ _ _ | .clz h _ _ _ | .bswap h _ _ _
  | .addi h _ _ _ _ | .subi h _ _ _ _ | .andi h _ _ _ _ | .ori h _ _ _ _ | .xori h _ _ _ _ | .cmpi h _ _ | .tsti h _ _ | .ldi h _ _
  | .ldih h _ _ | .ld h _ _ _ _ _ | .st h _ _ _ _ | .lda h _ _ _ | .sta h _ _ _ | .lea h _ _ _ _ | .adda h _ _ _ | .suba h _ _ _
  | .mova h _ _ | .movd h _ _ | .mul h _ _ _ | .mulu h _ _ _ | .muls h _ _ _ | .macu h _ _ _ | .qld h _ _ _ | .qst h _ _ _
  | .qclr h _ | .qmov h _ _ | .qxor h _ _ _ | .qeq h _ _ _ | .qins h _ _ _ | .qext h _ _ _ => some (h, 1)
  | .qcmp h _ _ | .b h _ => some (h, 2)
  | .tli h _ _ _ => some (h, 4)
  | _ => none

/-- The header and the cycle count of an instruction of the extended group (Table 3.8, Table 3.16). -/
def extOf (i : Instr) : Option (XHdr × Nat) :=
  match i with
  | .bl x _ | .bqm x _ | .eret x => some (x, if i = .eret x then 3 else 2)
  | .br x _ | .blr x _ => some (x, 3)
  | .qkey x _ _ _ | .putd x _ _ _ | .putq x _ _ _ | .getd x _ _ _ | .getq x _ _ _ | .post x _ _ _ | .carry x | .halt x | .srr x _ _
  | .srw x _ _ | .wfi x | .sync x | .enc x _ _ | .dec x _ _ | .macStart x _ _ | .macBlk x _ _ | .macLast x _ _ | .macLastp x _ _
  | .pinFormatGo x _ _ | .hashFinal x _ _ _ | .ghInit x _ | .ghX x _ | .ghFold x _ | .cvuCmp x _ | .kload x _ _ | .pkload x _ _
  | .bneLoad x _ | .bneStore x _ | .bneClear x _ | .kstoreSlots x _ | .kstoreImport x _ | .kstoreGenerate x _ | .kstorePublic x _
  | .kstoreDelete x _ | .kstoreRestrict x _ | .modadd x _ | .modsub x _ | .modmul x _ | .modinv x _ | .modexp x _ | .rsaPub x _
  | .rsaHalf x _ | .rsaFinish x _ | .ecKeygen x _ | .ecdsaSign x _ | .ecdsaVerify x _ | .ecdh x _ | .ecPubchk x _ | .edKeygen x _
  | .edSign x _ | .edVerify x _ | .xKeygen x _ | .x25519 x _ | .pkstore x _ | .pclear x _ | .mldsaKeygen x _ | .mldsaSign x _
  | .mldsaSignCont x _ | .mldsaVerify x _ | .mlkemKeygen x _ | .mlkemEncaps x _ | .mlkemDecaps x _ => some (x, 1)
  | _ => none

/-- The next state after a branch: `k` cycles later, at `pc`, with the registers changed by `f`. -/
def jump (s : State) (ex : Exec) (k : Nat) (pc : Word) (f : Cpu → Cpu) : Result :=
  .next (s.setCpu ex (f { s.cpu ex with pc := pc, cyc := (s.cpu ex).cyc + k }))

/-- The bytes of yard memory that Sheave `l` of yard `y` reads at local address `a` in its current cycle: where a unit writes a byte
in the same fabric cycle or later, the byte before that write (R92). -/
def yardSees (s : State) (y l a n : Nat) : List Byte :=
  (List.range n).map fun i => s.ymemAt (y * 0x40000 + (a - 0x100000) + i) (s.frame.ticks * 2 ^ 20 + 5 * (s.sheave y l).cpu.cyc / 4)

/-- The message buffer that an item running in a slot uses starts here (R57). -/
def bufStart (e : SlotEnt) (inB : Bool) : Nat := 64 * if inB then e.bufB else e.bufA

/-- Sheave `l` of yard `y` has `n` bytes at local address `a` of its own, after `d` delay slots, and they read `bs`: data RAM, or
the buffer of its item (R90, R91). -/
def OwnBytes (s : State) (y l : Nat) (a n d : Nat) (bs : List Byte) : Prop :=
  (0x10000 ≤ a ∧ a + n ≤ 0x18000 ∧ d = 1 ∧ bs = SMap.bytes s.dram (ramBase y (s.physSheave y l) + (a - 0x10000)) n)
  ∨ (∃ i e c inB, s.item (s.sheave y l).item = some i ∧ i.place = .running (s.sheave y l).slot inB
      ∧ s.slotEnt (s.sheave y l).slot = some e ∧ s.classEnt i.cls = some c
      ∧ 0x100000 + bufStart e inB ≤ a ∧ a + n ≤ 0x100000 + bufStart e inB + 64 * c.bufLen ∧ a + n ≤ 0x140000
      ∧ d = 3 ∧ bs = yardSees s y l a n)

/-- Sheave `l` of yard `y` may read `n` bytes at local address `a`, after `d` delay slots, and reads `bs`: its own bytes, or those of
a TABLES record that its yard holds (R90, R91). -/
def SheaveReads (s : State) (y l : Nat) (a n d : Nat) (bs : List Byte) : Prop :=
  OwnBytes s y l a n d bs
  ∨ (∃ i r t, s.item (s.sheave y l).item = some i ∧ s.rig.eff = some r ∧ t ∈ r.tables ∧ (t.kind = 0 ∨ (t.kind = 1 ∧ t.yard = y))
      ∧ 0x100000 + t.off ≤ a ∧ a + n ≤ 0x100000 + t.off + t.data.length ∧ a + n ≤ 0x140000
      ∧ d = 3 ∧ bs = yardSees s y l a n)

/-- A loaded word: zero or sign extended from the bytes read, least significant first. -/
def extended (bs : List Byte) (sx : Bool) : Word :=
  if sx ∧ 2 ^ (8 * bs.length - 1) ≤ leNat bs then BitVec.ofInt 32 ((leNat bs : Int) - 2 ^ (8 * bs.length)) else BitVec.ofNat 32 (leNat bs)

/-- One write pending for after `d` delay slots, one cycle later, at the next instruction. -/
def delayed (s : State) (ex : Exec) (d : Nat) (w : RegWrite) : Result :=
  stepCpu s ex 1 fun u => { u with pend := [due (u.cyc + d) w] }

/-- A Naris memory instruction of no fixed time: the free values go on by one. -/
def afterNaris (s : State) (k : Nat) (f : Cpu → Cpu) : Result := stepCpu { s with free := s.free + 1 } .naris (k + Config.freeNat s.free) f

/-- No other operation in flight at the unit of `f` has an earlier result time. -/
def ComesFirst (f : Flight) (rest : List Flight) : Prop := ∀ g ∈ rest, g.kind = f.kind → g.logic = f.logic → f.r ≤ g.r

/-- The state after an executor has gone on by `k` cycles to the next instruction. -/
def advanced (s : State) (ex : Exec) (k : Nat) : State := s.setCpu ex { s.cpu ex with pc := (s.cpu ex).pc + 4, cyc := (s.cpu ex).cyc + k }

/-- No register field outside `Fs` has changed. -/
def OnlyRegs (s t : State) (Fs : List Field) : Prop := ∀ F : Field, F.key ∉ Fs.map Field.key → t.reg F = s.reg F

/-- A counter of 64 bits in two registers. -/
def reg64 (s : State) (lo hi : Field) : Nat := s.reg lo + 2 ^ 32 * s.reg hi

/-- A port instruction of Sheave `l` of yard `y` executes, and no earlier write is pending. -/
def PortGoes (x : XHdr) (y : Fin 64) (l : Fin 16) (s : State) : Prop := GoesX x s ∧ x.ex = .sheave y l ∧ (s.cpu x.ex).pend = []

/-- The result words of a port interface as Sheave cycle `c` finds them: what was written, then what has become readable (R114). -/
def shownWord (p : PortIf) (c o : Nat) : Word := (((p.due.filter fun e => decide (e.cyc ≤ c)).flatMap fun e => e.w).foldl (fun v (e : Nat × Word) => if e.1 = o then e.2 else v) (SMap.get 0 p.w o))

/-- The same of the result accumulators. -/
def shownAcc (p : PortIf) (c o : Nat) : Acc := (((p.due.filter fun e => decide (e.cyc ≤ c)).flatMap fun e => e.q).foldl (fun v (e : Nat × Acc) => if e.1 = o then e.2 else v) (SMap.get {} p.q o))

/-- The port interface of the Sheave that waits for the result of `f`: it is readable from Sheave cycle ⌈0.8 × r⌉ on (R114). -/
def resultDue (s : State) (f : Flight) (q : List (Nat × Acc)) : State :=
  s.updPort f.tag.y f.tag.l fun p => { p with due := p.due ++ [{ cyc := (4 * f.r + 4) / 5, q := q, w := f.w }] }

/-- A unit operation has started: the instruction has ended and one flight has joined the others; the registers `Fs` may have
counted. -/
def Launched (i : Instr) (x : XHdr) (s : State) (Fs : List Field) (p : Flight → State → Prop) : Prop :=
  ∃ t f, exec i s = .next t ∧ p f t ∧ OnlyRegs s t Fs
    ∧ t = { advanced s x.ex 1 with flights := s.flights ++ [f], rf := t.rf, spring := t.spring, macs := t.macs, serial := t.serial, free := t.free }

/-- Pair `u` has no operation, the masks are served, and the slot of the Sheave has a window of the pair for `d` fabric cycles
from now on (R113, R163). -/
def PairReady (s : State) (y l u d : Nat) : Prop :=
  (∀ f ∈ s.flights, f.kind = .cipher → f.logic ≠ u) ∧ s.rillServes 320 = true
    ∧ s.window (s.sheave y l).slot 0 u 1 (fabricOf (s.sheave y l).cpu.cyc) (fabricOf (s.sheave y l).cpu.cyc + d) = true

/-- A cipher flight of pair `u` that occupies the pair for `occ` cycles, whose result comes `lag` cycles later in registers `q`. -/
def CipherFlight (s : State) (y l u occ lag : Nat) (q : List (Nat × Acc)) (f : Flight) : Prop :=
  let a := fabricOf (s.sheave y l).cpu.cyc
  f.kind = .cipher ∧ f.logic = u ∧ f.tag = s.tagOf y l ∧ f.start = a ∧ f.stop = a + occ ∧ f.r = a + occ + lag ∧ f.q = q ∧ f.latch = []

/-- A staged AES key of a usage. -/
def AesKey (k : Acc) (use : Nat) : Prop := k.key = true ∧ k.alg = .aes ∧ (k.len = 16 ∨ k.len = 24 ∨ k.len = 32) ∧ k.usage = some use

/-- The unit time of an AES block (Table 3.12). -/
def aesTime (k : Acc) : Nat := if k.len = 16 then 12 else if k.len = 24 then 14 else 16

/-- The registers that count the blocks of the pairs. -/
def blockCount : List Field := [Reg.CIPHER.BLOCK_CNT_LO, Reg.CIPHER.BLOCK_CNT_HI]

/-- A staged key of usage MAC that a pair runs: AES or TDES. -/
def MacKey (k : Acc) : Prop := k.key = true ∧ k.usage = some 2 ∧ (k.alg = .tdes ∨ k.alg = .aes ∧ (k.len = 16 ∨ k.len = 24 ∨ k.len = 32))

/-- The unit time of a block of it (Table 3.12). -/
def macTime (k : Acc) : Nat := if k.alg = .tdes then 50 else aesTime k

/-- FINAL of an unkeyed function: MODE, whether it runs on a SHA-2 core, message bytes of one block, cycles of one block, blocks
of a message of `n` bytes, and the digest (R170 to R173). -/
def finalOf (mode : Nat) (n : Nat) (msg : List Byte) (out : Nat) : Option (Bool × Nat × List Byte) :=
  match mode with
  | 0 => some (false, 24 * (n / 136 + 1), sha3_256 msg)
  | 1 => some (false, 24 * (n / 104 + 1), sha3_384 msg)
  | 2 => some (false, 24 * (n / 72 + 1), sha3_512 msg)
  | 3 => if out = 0 then none else some (false, 24 * (n / 168 + 1), shake128 out msg)
  | 4 => if out = 0 then none else some (false, 24 * (n / 136 + 1), shake256 out msg)
  | 8 => some (true, 64 * ((n + 8) / 64 + 1), sha256 msg)
  | 9 => some (true, 80 * ((n + 16) / 128 + 1), sha512 msg)
  | _ => none

/-- The four digest registers of a core, 16 bytes each, zero above the digest. -/
def digestQ (base : Nat) (d : List Byte) : List (Nat × Acc) :=
  (List.range 4).map fun i => (base + 0x50 + 0x10 * i, { val := bytesQuad (((fitBytes 64 d).drop (16 * i)).take 16) })

/-- A mailbox command of Sheave `l` of yard `y` that runs on the big-number engine for item `i`: no operation of the Sheave is in
progress, the words form shape `sh` without any misuse, its windows stand, the access rules let the engine read its buffer input, and
the rills that it may draw from serve (R21, R188, R197, R198, R218). -/
def BneRuns (x : XHdr) (y : Fin 64) (l : Fin 16) (op : Nat) (c : BneCmd) (i : Item) (sh : Shape) (s : State) : Prop :=
  let sv := s.sheave y l
  let a := fabricOf sv.cpu.cyc
  let occ := if op = 4 then sh.cost else ceilDiv sh.cost c.g + sh.h
  let len := (s.opRegion i.part).2
  let t := tmplEntry (s.ymemRead y ((s.bufferOf i).1 + c.inOff) 48)
  let own := (s.named c.handle).bind fun e => if e.2.ofPart i.part then some e.2 else none
  PortGoes x y l s ∧ s.item sv.item = some i ∧ c = sv.port.bneCmd (some op) ∧ s.unitBusy y l a = false
    ∧ bneShape c len own t = some sh ∧ s.bneCodes y l i.part (s.opRegion i.part).1 len (some i) c (some sh) = []
    ∧ (if op = 4 then s.window sv.slot 5 0 1 a (a + occ) else s.windows sv.slot 3 c.lane c.g a (a + occ)) = true
    ∧ i.part < 256 ∧ s.rillServes 321 = true ∧ s.rillServes i.part = true
    ∧ (sh.inB.all fun b => b.2 == 0 || s.artOk 0x050 none .read (0x100000000 + y.val * 0x40000 + ((s.bufferOf i).1 + b.1)) b.2) = true

/-- The values of a command's input operands. -/
def operands (s : State) (i : Item) (sh : Shape) : List Nat := sh.ins.map fun o => s.operand i.part (s.opRegion i.part).2 o.first o.bits

/-- The bytes of a command's buffer input. -/
def bufIn (s : State) (y : Nat) (i : Item) (sh : Shape) : List Byte :=
  match sh.inB with
  | some (o, n) => s.ymemRead y ((s.bufferOf i).1 + o) n
  | none => []

/-- The slots that output operands fill: each operand lowest slot first, `len` bits a slot (R190). -/
def placed (len : Nat) (outs : List (Opd × Bool)) (vals : List Nat) : List (Nat × Nat) :=
  ((List.range outs.length).zip outs).flatMap fun e => (List.range (ceilDiv e.2.1.bits len)).map fun k =>
    (e.2.1.first + k, vals.getD e.1 0 / 2 ^ (len * k) % 2 ^ len)

/-- A command of the engine has started with its outcome fixed: its flight ends with code `code`; where that is OK or AUTH_FAIL it
writes the operands `outs` and the bytes `buf`, otherwise zeros (R200). STATUS reads 0 meanwhile, and nothing else in the state has
changed but the counts of lane cycles, the draws and what the item records. -/
def BneGives (i : Instr) (x : XHdr) (y : Fin 64) (l : Fin 16) (op : Nat) (c : BneCmd) (it : Item) (sh : Shape) (s : State)
    (code : Nat) (outs : List Nat) (buf : List Byte) : Prop :=
  ∃ t f, exec i s = .next t
    ∧ t = { s with sheaves := t.sheaves, adm := t.adm, flights := s.flights ++ [f], rf := t.rf, spring := t.spring, free := t.free,
                   bne := { s.bne with residue := t.bne.residue } }
    ∧ OnlyRegs s t [Reg.BNE.LANE_CYCLES_LO, Reg.BNE.LANE_CYCLES_HI]
    ∧ t.cpu x.ex = { s.cpu x.ex with pc := (s.cpu x.ex).pc + 4, cyc := (s.cpu x.ex).cyc + 1 }
    ∧ SMap.get 0 (t.sheave y l).port.w 0x40050 = 0
    ∧ f.kind = .bne ∧ f.tag = s.tagOf y l ∧ f.start = fabricOf (s.cpu x.ex).cyc
    ∧ f.r = f.start + (if op = 4 then sh.cost else ceilDiv sh.cost c.g + sh.h) + 4 ∧ f.code = code ∧ f.kreq = none
    ∧ f.slots.map (fun o => (o.slot, o.val)) = placed (s.opRegion it.part).2 sh.outs (if code = 0 ∨ code = 0x01 then outs else [])
    ∧ f.bufs = (match sh.outB with
        | some (o, n) => [({ addr := (s.bufferOf it).1 + o, bytes := if code = 0 ∨ code = 0x01 then fitBytes n buf else List.replicate n 0 } : BufOut)]
        | none => [])

/-- A KSTORE has started for item `i`: what it will ask of the store at its result time is fixed; store and memories stay. -/
def StoreStarts (j : Instr) (x : XHdr) (y : Fin 64) (l : Fin 16) (c : BneCmd) (i : Item) (sh : Shape) (s : State) (mode : Nat) (mat : List Byte) (ok : Bool) : Prop :=
  ∃ t f q, exec j s = .next t ∧ t.flights = s.flights ++ [f] ∧ f.r = fabricOf (s.cpu x.ex).cyc + ceilDiv sh.cost c.g + sh.h + 4
    ∧ f.kind = .bne ∧ f.tag = s.tagOf y l ∧ f.kreq = some q ∧ q.mode = mode ∧ q.mat = mat ∧ q.ok = ok ∧ q.rng = false ∧ q.handle = c.handle
    ∧ q.tmpl = s.ymemRead y ((s.bufferOf i).1 + c.inOff) 48 ∧ q.out = (s.bufferOf i).1 + c.outOff
    ∧ (t.cleat, t.ymem, t.dram, t.bne.slots) = (s.cleat, s.ymem, s.dram, s.bne.slots)

/-- A mailbox command that runs on the polynomial unit for item `i` whose buffer input the access rules
let the unit read (R21, R226, R228, R230, R244). -/
def PuRuns (x : XHdr) (y : Fin 64) (l : Fin 16) (op : Nat) (c : BneCmd) (i : Item) (sh : PuShape) (s : State) : Prop :=
  let sv := s.sheave y l
  let a := fabricOf sv.cpu.cyc
  let occ := if op = 0x60 then sh.cost else ceilDiv sh.cost c.g
  PortGoes x y l s ∧ s.item sv.item = some i ∧ c = sv.port.bneCmd (some op) ∧ s.unitBusy y l a = false
    ∧ puShape c = some sh ∧ s.puMisused (some i) sv.item c (some sh) = false ∧ s.puWindows sv.slot c.lane c.g a (a + occ) sh.keccak = true
    ∧ (op = 0x60 → s.window sv.slot 5 0 1 a (a + occ) = true)
    ∧ i.part < 256 ∧ s.rillServes 321 = true ∧ s.rillServes i.part = true
    ∧ (sh.inB.all fun b => b.2 == 0 || s.artOk 0x051 none .read (0x100000000 + y.val * 0x40000 + ((s.bufferOf i).1 + b.1)) b.2) = true

/-- The bytes of a PU command's buffer input. -/
def puIn (s : State) (y : Nat) (i : Item) (sh : PuShape) : List Byte :=
  match sh.inB with
  | some (o, n) => s.ymemRead y ((s.bufferOf i).1 + o) n
  | none => []

/-- A command of the polynomial unit has started with its outcome fixed: code, the state that its first cluster will hold, its
bytes where the code is OK and it does not go on (MORE). Nothing else has changed but counts and draws. -/
def PuGives (j : Instr) (x : XHdr) (y : Fin 64) (l : Fin 16) (c : BneCmd) (i : Item) (sh : PuShape) (s : State)
    (code : Nat) (held : PuHeld) (buf : List Byte) (more : Bool := false) : Prop :=
  ∃ t f, exec j s = .next t
    ∧ t = { s with sheaves := t.sheaves, flights := s.flights ++ [f], rf := t.rf, spring := t.spring, free := t.free }
    ∧ OnlyRegs s t [Reg.PU.CLUSTER_CYCLES_LO, Reg.PU.CLUSTER_CYCLES_HI, Reg.PU.ITER_CNT_LO, Reg.PU.ITER_CNT_HI]
    ∧ t.cpu x.ex = { s.cpu x.ex with pc := (s.cpu x.ex).pc + 4, cyc := (s.cpu x.ex).cyc + 1 }
    ∧ f.kind = .pu ∧ f.tag = s.tagOf y l ∧ f.start = fabricOf (s.cpu x.ex).cyc ∧ f.r = f.start + ceilDiv sh.cost c.g + 4
    ∧ f.code = code ∧ f.held = some held ∧ f.kreq = none ∧ f.arg 3 = more
    ∧ f.bufs = (match sh.outB with
        | some (o, n) => if more then [] else [({ addr := (s.bufferOf i).1 + o, bytes := if code = 0 then fitBytes n buf else List.replicate n 0 } : BufOut)]
        | none => [])

/-- The command is refused: ERR_CODE and ERR_INFO of its page take the cause, and nothing else changes (R577). -/
def Refused (i : Instr) (s : State) (page code : Nat) (info : Nat := 0) : Prop :=
  exec i s = .next (s.setHd page { s.hd page with errCode := code, errInfo := info })

/-- A command ends in a state that differs from `s` in nothing but what `t` itself shows in registers, page headers and messages of
the manager's vector, after `u` has put the parts that the command changes. -/
def Shown (u t : State) : Prop :=
  t = { u with rf := t.rf, hdr := t.hdr, outbound := t.outbound, host := { u.host with msix := t.host.msix } }

/-- An interrupt bit of a page stands in INT_STAT. -/
def IntSet (t : State) (page bit : Nat) : Prop := (t.hd page).intStat.testBit bit = true

/-- The manager may run a FLASH command on its operand range: the controller is ready and free, bank 0 or 1 in MAINTENANCE, 16-byte
units, nothing INCOMPLETE, and the running image lies in another bank (R453, R455, R461). -/
def FlashFree (s : State) (n : Nat) : Prop :=
  let fa := s.reg Reg.FLASH.FADDR
  s.flash.ready = true ∧ s.flash.op = none ∧ s.flash.waits = [] ∧ fa % 16 = 0 ∧ n % 16 = 0 ∧ 16 ≤ n ∧ n ≤ 256 ∧ fa < 0x1000000 ∧ fa % 0x800000 + n ≤ 0x800000
    ∧ s.mode = .maintenance ∧ s.reg Reg.GLOBAL.BOOT_HOLD ≠ 1 ∧ s.reg Reg.NARIS.RUN_BANK ≠ fa / 0x800000 ∧ s.rangeIncomplete fa n = false ∧ s.inXo fa n = false

/-- The command only enters an error in the host error FIFO, or sets the overflow bit where 64 entries wait (R357). -/
def HostLogged (i : Instr) (s : State) (cause ring part index : Nat) : Prop :=
  ∃ t, exec i s = .next t ∧ Shown { s with host := { s.host with herr := t.host.herr } } t
    ∧ (s.host.herr.length < 64 → t.host.herr = s.host.herr ++ [{ cause := cause, ring := ring, part := part, index := index % 65536, frame := s.frame.no % 2 ^ 32 }]
        ∧ IntSet t pgHost 3)
    ∧ (64 ≤ s.host.herr.length → t.host.herr = s.host.herr ∧ IntSet t pgHost 4)

/-- Everything that a full reset clears is as after reset, and what it keeps is as before: witness memory, the flash array, FRAME_HWM,
the root mask and the policies of the always-on domain (R478, R479, R519, R560). -/
def ResetLeaves (s t : State) : Prop :=
  t.rig = {} ∧ t.adm = {} ∧ t.sheaves = [] ∧ t.naris = {} ∧ t.iram = [] ∧ t.dram = [] ∧ t.ymem = [] ∧ t.narisRam = [] ∧ t.yards = []
    ∧ t.pools = State.reset.pools ∧ t.flights = [] ∧ t.macs = [] ∧ t.bne = {} ∧ t.pu = {} ∧ t.cleat = {} ∧ t.host = {} ∧ t.parts = {}
    ∧ t.spring = {} ∧ t.art = {} ∧ t.cvus = [] ∧ t.card = {} ∧ t.cust = {} ∧ t.flash.ready = false ∧ t.flash.op = none ∧ t.glob.booted = false
    ∧ t.glob.change = none ∧ t.frame.no = 0 ∧ t.frame.hwm = s.frame.hwm ∧ t.witness.mem = s.witness.mem ∧ t.witness.wseq = s.witness.wseq
    ∧ t.tamper.rootState = s.tamper.rootState ∧ t.tamper.rootMask = s.tamper.rootMask ∧ t.tamper.policy = s.tamper.policy
    ∧ ((∀ o ∈ s.flash.op, o.started = false ∨ o.op ≠ 2) → t.flash.mem = s.flash.mem ∧ t.flash.journal = s.flash.journal ∧ t.flash.optA = s.flash.optA ∧ t.flash.optB = s.flash.optB)

/-- The session's data are gone and the link state is `l`. -/
def SessionEnds (s t : State) (l : Nat) : Prop :=
  t.stay.lstate = l ∧ t.stay.txKey = none ∧ t.stay.rxKey = none ∧ t.stay.kemDk = none ∧ t.stay.hs = 0 ∧ t.stay.transcript = [] ∧ t.stay.mirror = [] ∧ t.stay.replay = []
  ∧ t.stay.txSeq = 0 ∧ t.stay.rxSeq = 0 ∧ t.stay.dup = s.stay.dup ∧ (s.stay.lstate ≠ 0 → IntSet t pgStay 1)

/-- The command refuses the twin: PEER_REJECT, and the link is down (R383 step 2). -/
def PeerRejected (i : Instr) (s : State) : Prop := ∃ t, exec i s = .next t ∧ SessionEnds s t 0 ∧ t.stay.pstate = s.stay.pstate ∧ IntSet t pgStay 5

/-- HELLO is sent with version 1, fingerprint, rig hash and a nonce of 32 B (R383 step 1). -/
def HelloSent (s t : State) : Prop :=
  t.stay.hs = 1 ∧ ∃ f : LinkFrame, ∃ n, n.length = 32 ∧ f.typ = 0 ∧ f.enc = false ∧ f.seq = s.stay.txSeq ∧ f.payload = [1] ++ ownFp ++ s.rigHash ++ n
    ∧ t.outbound = s.outbound ++ [.link 0 (f.bytes none 0)] ∧ t.stay.transcript = [(true, f.bytes none 0)]

/-- Table 12.1 in its order: the first mode that both ends' limits allow and whose lanes trained. -/
def linkPick (lanes : Nat) (high : Bool) (fast slow : Nat) : Option Nat :=
  if high = true ∧ lanes = 4 ∧ fast = 15 then some 1
  else if high = true ∧ 2 ≤ lanes ∧ fast % 4 = 3 then some 2
  else if lanes = 4 ∧ slow = 15 then some 3
  else if high = true ∧ fast % 2 = 1 then some 4
  else if 2 ≤ lanes ∧ slow % 4 = 3 then some 5
  else if slow % 2 = 1 then some 6 else none

/-- Lanes that a code of MAX_LANES allows (Table 12.8). -/
def laneLimit (c : Nat) : Nat := if c = 0 then 4 else if c = 1 then 2 else 1

/-- Both ends hold K: the session keys are those of R383 step 5, or Naris could not sign and the link is down. -/
def KeysDerived (i : Instr) (s : State) (k T : List Byte) (low : Bool) : Prop :=
  ∃ t, exec i s = .next t ∧ ((t.stay.lstate = 0 ∧ ((t.hd pgNaris).errCode = 0xB6 ∨ (t.hd pgNaris).errCode = 0xB7)) ∨ (t.stay.lstate = 2 ∧ t.stay.hs = 3 ∧ t.stay.kemDk = none
    ∧ t.stay.txKey = some (sha3_256 (ascii (if low then "OXSTAYL" else "OXSTAYU") ++ k ++ T))
    ∧ t.stay.rxKey = some (sha3_256 (ascii (if low then "OXSTAYU" else "OXSTAYL") ++ k ++ T))
    ∧ s.outbound.isPrefixOf t.outbound = true))

/-- Number `q` lies before `n` in a count of 32 bits: at most 2³¹ − 1 before it. -/
abbrev seqBefore (q n : Nat) : Prop := 0 < (n + 2 ^ 32 - q % 2 ^ 32) % 2 ^ 32 ∧ (n + 2 ^ 32 - q % 2 ^ 32) % 2 ^ 32 < 2 ^ 31

/-- The frame that the device sends next (Table 12.2). -/
def nextFrame (s : State) (typ : Nat) (payload : List Byte) (nak : Bool) : LinkFrame :=
  { typ := typ, nak := nak, enc := true, seq := s.stay.txSeq, ackSeq := s.stay.rxSeq, txFrame := s.frame.no % 2 ^ 32, payload := payload }

/-- A frame of the running session as it leaves the device. -/
def sent (s : State) (typ : Nat) (payload : List Byte) (nak : Bool) : Out :=
  .link typ ((nextFrame s typ payload nak).bytes s.stay.txKey s.stay.txEpoch)

/-- PSTATE tells that a session exists: PAIRED, SPLIT or RESYNC. -/
def InSession (s : State) : Prop := s.stay.pstate = 1 ∨ s.stay.pstate = 2 ∨ s.stay.pstate = 4

/-- The twin is lost (R390), `s` being the state before: the session ends, the duplicate table is frozen. -/
def TwinLost (s t : State) : Prop :=
  t.stay.txKey = none ∧ t.stay.rxKey = none ∧ t.stay.lstate = (if (s.hd pgStay).st = 3 ∨ (s.rig.eff = none ∧ s.rig.ready = none) then 0 else 1)
  ∧ (InSession s → t.stay.pstate = 3 ∧ IntSet t pgStay 3 ∧ t.stay.frozen = true ∧ t.stay.frozenTicks = s.frame.ticks ∧ t.stay.dup = s.stay.dup
      ∧ t.reg Reg.STAY.LOST_FRAME = s.frame.no % 2 ^ 32 ∧ (∀ i ∈ t.adm.items, i.mirrorWait = [])
      ∧ t.reg Reg.STAY.LOST_CNT = min 65535 (s.reg Reg.STAY.LOST_CNT + 1)
      ∧ (s.glob.booted = true → s.mode = .standby → s.reg Reg.STAY.PROMOTE_AUTO = 1 → s.glob.change = none →
          t.glob.change.map (fun c => (c.target, c.cause, c.orderly)) = some (.operational, .device, true)))

/-- The entry that a record of the twin makes: MIRRORED, with USE_COUNT 0 (R395, R404). -/
def mirroredEntry (t : TwinEntry) : Entry where
  alg := t.alg
  klen := t.klen
  usage := t.usage
  part := t.part
  exportF := t.exportF
  mirror := 1
  persist := t.persist
  packed := t.packed
  system := t.system
  rows := t.rows
  kbits := t.kbits
  pubexp := t.pubexp
  tr31 := t.tr31
  useLimit := t.useLimit
  notAfter := t.notAfter
  material := t.material

/-- The rows from `head` on hold an entry whose head row has another generation than `g`. -/
def Clashes (s : State) (head rows g : Nat) : Prop :=
  ∃ x ∈ s.cleat.ents, ∃ e, x.2 = some e ∧ x.1 < head + rows ∧ head < x.1 + e.rows ∧ s.rowGen x.1 ≠ g

/-- The twin holds an entry under this handle. -/
def HeldUnder (s : State) (h : BitVec 32) (e : Entry) : Prop := s.entry (h.toNat % 2 ^ 17) = some e ∧ s.rowGen (h.toNat % 2 ^ 17) = h.toNat / 2 ^ 17

/-- 15-bit serial arithmetic over 1 to 0x7FFF (R404). -/
def newerGen (a b : Nat) : Prop := 0 < (a + 0x7FFF - b % 0x7FFF) % 0x7FFF ∧ (a + 0x7FFF - b % 0x7FFF) % 0x7FFF < 0x4000

/-- The smaller value that is not zero (Table 12.5). -/
def lessNonzero (a b : Nat) : Nat := if a = 0 then b else if b = 0 then a else min a b

/-- The link is up and the mirroring rules apply (R384). -/
def Mirrors (s : State) : Prop := s.stay.lstate = 3 ∧ (s.stay.pstate = 1 ∨ s.stay.pstate = 4)

/-- Temperatures from -40 to 100 °C, a cell of 2.4 V or more, every case away from its tamper level and no loop tripped. -/
def CalmInput (t : TamperIn) (s : State) : Prop :=
  -160 < t.tempSd ∧ t.tempSd < 400 ∧ -160 < t.tempCd ∧ t.tempCd < 400 ∧ 2400 ≤ t.vbat.val ∧ t.drop = false
  ∧ (∀ n < 8, t.cases.getLsbD n ≠ (s.policyOf n).polarity) ∧ (∀ n < 16, (SMap.get {} s.tamper.loops n).tripped = false) ∧ s.tamper.staged = none ∧ s.tamper.test = none

/-- Source `n` is watched by a sensor that is live now (Table 17.1). -/
def SensorLive (n : Nat) (s : State) : Prop :=
  (n = 24 ∨ n = 29 → s.tamper.mainPower = true ∧ s.pins.perst = false) ∧ (n = 31 ∨ n = 33 → s.tamper.mainPower = true) ∧ (n = 30 → s.tamper.xtalOn = true)

/-- The policy entry that judges a source in this cycle: a staged entry takes effect first (R507). -/
def policyNow (s : State) (n : Nat) : Policy :=
  match s.tamper.staged with
  | some (k, p, _) => if k = n then p else s.policyOf n
  | none => s.policyOf n

/-- The condition of source `n` holds in this cycle (Table 17.1, R503). Temperatures are in units of 0.25 °C. -/
def SourceHolds (t : TamperIn) (s : State) (n : Nat) : Prop :=
  let main := s.tamper.mainPower = true
  let was := s.tamper.asserted.testBit n = true
  let junctions (p : Int → Prop) := p t.tempSd ∨ (main ∧ p t.tempCd)
  if n < 8 then t.cases.getLsbD n = (policyNow s n).polarity
    ∧ (policyNow s n).debounce * 1000000 ≤ min 16000000 (SMap.get 0 s.tamper.caseNs n + if s.tamper.mainPower then 500 else 30518)
  else if n < 24 then (SMap.get {} s.tamper.loops (n - 8)).tripped = true
  else if n = 26 then junctions (fun x => 420 < x) ∨ (was ∧ junctions (fun x => 400 ≤ x))
  else if n = 27 then junctions (fun x => x < -180) ∨ (was ∧ junctions (fun x => x ≤ -160))
  else if n = 28 then junctions (fun x => 500 < x)
  else if n = 35 then if s.tamper.mainPower then t.vbat.val < 2000 else t.drop = true ∨ t.vbat.val < 2200
  else if n = 36 then t.vbat.val < 2400
  else t.sensors.getLsbD n = true ∧ (n = 24 ∨ n = 29 ∨ n = 31 ∨ n = 33 → main) ∧ (n = 24 ∨ n = 29 → s.pins.perst = false) ∧ (n = 30 → s.tamper.xtalOn = true)

/-- Source `n` raises an event in this cycle: it becomes asserted while enabled (R502), and is not under test (R515). -/
def Raises (t : TamperIn) (s : State) (n : Nat) : Prop :=
  n < 37 ∧ s.tamper.test ≠ some n ∧ SourceHolds t s n ∧ s.tamper.asserted.testBit n = false ∧ (policyNow s n).enable = true

/-- A change that lowers a policy entry (R508). -/
def LowersEntry (o p : Policy) : Prop :=
  p.resp < o.resp ∨ (o.enable = true ∧ p.enable = false) ∨ (o.lmode = true ∧ p.lmode = false) ∨ (o.enable = true ∧ o.polarity ≠ p.polarity) ∨ (o.enable = true ∧ o.debounce < p.debounce)

/-- FLOOR of a source (Table 17.1). -/
def floorOf (n : Nat) : Nat := if n = 26 then 1 else if n = 28 ∨ n = 31 ∨ n = 32 then 2 else if n = 33 ∨ n = 34 then 3 else 0

/-- The change that runs: target, cause, whether it is orderly. -/
def changeOf (t : State) : Option (Mode × Cause × Bool) := t.glob.change.map fun c => (c.target, c.cause, c.orderly)

/-- The port answers `bs`, and the PICC state becomes `p`; nothing else changes. -/
def PiccAnswers (i : Instr) (s : State) (p : Picc) (bs : List Byte) : Prop :=
  exec i s = .next { s with witness := { s.witness with picc := p }, outbound := s.outbound ++ [.picc bs] }

/-- The port goes back: to HALT where it was woken from there, otherwise to IDLE, without an answer (R534). -/
def PiccBack (i : Instr) (s : State) : Prop := exec i s = .next { s with witness := { s.witness with picc := if s.witness.fromHalt then .halt else .idle } }

/-- The change that a session's end or a ceremony's end asks for. -/
def AsksFor (t : State) (m : Mode) (c : Cause) : Prop := t.glob.change.map (fun x => (x.target, x.cause, x.orderly)) = some (m, c, true)

/-- A quorum session has closed (R541). -/
def QuorumClosed (t : State) : Prop :=
  t.cust.quorum = none ∧ t.reg Reg.CARD.Q_OPEN = 0 ∧ t.reg Reg.CARD.Q_MET = 0 ∧ t.reg Reg.CARD.COUNTED = 0 ∧ t.reg Reg.CARD.PRESENT_19148 = 0 ∧ (t.hd pgCard).detail.testBit 0 = false

/-- What the bytes of an ATR give in class `cls` (Table 18.3, ISO/IEC 7816-3): `g` of a session, or of none where T=0 is not offered. -/
def AtrGives (cls : Nat) (atr : List Byte) (g : Option IccSt → Prop) : Prop :=
  let announces (y : Nat) (a b c d : Option Byte) := a.isSome = y.testBit 0 ∧ b.isSome = y.testBit 1 ∧ c.isSome = y.testBit 2 ∧ d.isSome = y.testBit 3
  let ts (inv : Bool) : Byte := if inv then 0x3F else 0x3B
  let session (inv : Bool) (ta tc tc2 : Option Byte) : IccSt :=
    let f := (ta.getD 0x11).toNat / 16
    let d := (ta.getD 0x11).toNat % 16
    let offered := (f = 1 ∨ f = 9) ∧ 1 ≤ d ∧ d ≤ 5
    { cls := cls, inverse := inv, fi := if offered ∧ f = 9 then 512 else 372, di := if offered then 2 ^ (d - 1) else 1, guardT := (tc.getD 0).toNat, wi := (tc2.getD 10).toNat }
  (∀ (inv : Bool) (t0 : Byte) (a b c : Option Byte) (rest : List Byte), announces (t0.toNat / 16) a b c none →
    atr = ts inv :: t0 :: (a.toList ++ b.toList ++ c.toList ++ rest) → g (some (session inv a c none)))
  ∧ (∀ (inv : Bool) (t0 : Byte) (a b c : Option Byte) (d : Byte) (a2 b2 c2 d2 : Option Byte) (rest : List Byte),
    announces (t0.toNat / 16) a b c (some d) → announces (d.toNat / 16) a2 b2 c2 d2 →
    atr = ts inv :: t0 :: (a.toList ++ b.toList ++ c.toList ++ d :: (a2.toList ++ b2.toList ++ c2.toList ++ d2.toList ++ rest)) →
      g (if d.toNat % 16 = 0 then some (session inv a c c2) else none))
  ∧ (∀ (x : Byte) (rest : List Byte), x ≠ 0x3B → x ≠ 0x3F → atr = x :: rest → g none)

/-- The ICC pins as activation leaves them: class B first, then class A, each where ICC_CLASS_EN allows it; no ATR, or one that does
not offer T=0, gives UNKNOWN (R522, R528). -/
def Activates (i : Instr) (s : State) (atrB atrA : Option (List Byte)) : Prop :=
  let en := s.reg Reg.CARD.ICC_CLASS_EN
  let gives (o : Option IccSt) := ∃ t, exec i s = .next t ∧ t.card = { present := true, typ := if o.isSome then 2 else 3, icc := o } ∧ t.reg Reg.CARD.TYPE = (if o.isSome then 2 else 3)
    ∧ t.reg Reg.CARD.ICC_CLASS = ((o.map IccSt.cls).getD 0) ∧ (o = none → IntSet t pgCard 2)
  (∃ t, exec i s = .next t ∧ t.card.present = true ∧ (t.card.typ = 2 ∨ t.card.typ = 3))
  ∧ (∀ atr, atrB = some atr → en.testBit 0 = true → AtrGives 1 atr gives)
  ∧ (∀ atr, atrA = some atr → en.testBit 1 = true → en.testBit 0 = false ∨ atrB = none → AtrGives 2 atr gives)
  ∧ ((atrB = none ∨ en.testBit 0 = false) → (atrA = none ∨ en.testBit 1 = false) → gives none)

/-- A credential counts nothing, and REJECT_CNT tells so. -/
def Rejected (s t : State) : Prop := t.cust = s.cust ∧ t.reg Reg.CARD.REJECT_CNT = (s.reg Reg.CARD.REJECT_CNT + 1) % 2 ^ 16 ∧ IntSet t pgCard 4

/-- A credential has been counted, or turned down, in the session `q` (R540, R541). -/
def Counted (s t : State) (q : Quorum) (key auth : List Byte) : Prop :=
  let c := sha3_256 (ascii "OXQUORUM" ++ ownFp ++ q.snonce ++ [BitVec.ofNat 8 q.purpose])
  let count (i : Nat) (met : Prop) := t.reg Reg.CARD.COUNTED = (q.counted.length + 1) % 32 ∧ (i < 16 → (t.reg Reg.CARD.PRESENT_19148).testBit i = true)
    ∧ t.cust.quorum.map Quorum.counted = some (q.counted ++ [key]) ∧ (met → t.cust.quorum.map Quorum.met = some true ∧ (q.met = false → t.reg Reg.CARD.Q_MET = 1 ∧ IntSet t pgCard 5))
  if credOk key c auth = false then Rejected s t
  else if q.fresh = true then
    (if key ∈ q.counted ∨ q.n ≤ q.counted.length then t.cust = s.cust else count q.counted.length (q.counted.length + 1 = q.n))
  else match s.custodianIndex key with
    | none => Rejected s t
    | some i => if i ∈ q.indexes then t.cust = s.cust else count i (q.m ≠ 0 ∧ q.m ≤ q.counted.length + 1)

/-- A step is staged: bit `k` of STAGED, and CER_DONE (R542). -/
def StepStaged (i : Instr) (s : State) (k : Nat) (f : Staged → Staged) : Prop :=
  ∃ t, exec i s = .next t ∧ t.cust = { s.cust with staged := f s.cust.staged } ∧ (t.reg Reg.CARD.STAGED).testBit k = true ∧ t.reg Reg.CARD.CER_DONE = 1

/-- A step is refused with a code of Table 18.10; nothing is staged. -/
def StepRefused (i : Instr) (s : State) (code : Nat) : Prop :=
  ∃ t, exec i s = .next t ∧ t = { s with rf := t.rf, hdr := t.hdr } ∧ (t.hd pgCard).errCode = code ∧ t.reg Reg.CARD.STAGED = s.reg Reg.CARD.STAGED ∧ t.reg Reg.CARD.CER_DONE = 1

/-- Wire rill 3 refuses the step: RNG_REFUSED on the NARIS page, nothing staged. -/
def StepHasNoDraw (i : Instr) (s : State) : Prop := ∃ t, exec i s = .next t ∧ (t.hd pgNaris).errCode = 0xB6 ∧ t.cust = s.cust

/-- The commands of CER_CMD. -/
def CerCmd (i : Instr) : Prop :=
  i ∈ [.custodians, .rigKey, .members, .domainGen, .domainImport, .domainExport, .cerCommit, .abandon] ∨ (∃ c, i = .compWrite c) ∨ (∃ b, i = .compLoad b)

/-- Bytes of the ceremony window. -/
def winBytes (s : State) (n : Nat) : List Byte := SMap.bytes s.cust.win 0 n

/-- The component blocks of Table 18.8, one for each of `n` components. -/
def compBlocks (n : Nat) (cu : Nat → Nat) (did kc : List Byte) (comp : Nat → List Byte) : List (List Byte) :=
  (List.range n).map fun j =>
    let t := fitBytes 0x1FC (leBytes 4 0x4F43584F ++ leBytes 2 1 ++ [BitVec.ofNat 8 (j + 1), BitVec.ofNat 8 n, BitVec.ofNat 8 (cu j)] ++ List.replicate 7 0 ++ did ++ kc ++ comp j)
    t ++ leBytes 4 (crc crc32cPar t)

/-- The registers whose reset value in the spec's tables is not zero, by BAR0 offset, with that value. -/
def resetWords : List (Nat × Nat) :=
  [(0x00000, 0x10245910), (0x0110C, 0x27100000), (0x0111C, 0x32), (0x0A124, 0x03FF0000), (0x0C108, 0x1000), (0x0C138, 1), (0x0D10C, 0xFF),
   (0x0E108, 0x20000), (0x0E118, 0x90007000), (0x0E11C, 0x11000), (0x0E120, 0x03480051)]
  ++ [(0x13138, 0x40404040), (0x13180, 0xFFFFFFFF), (0x1319C, 0xFFFFFFFF), (0x14114, 0x186A0), (0x15110, 0x26C0), (0x15138, 0x00040004),
   (0x1513C, 1), (0x15150, 0x30000000), (0x1610C, 4), (0x16114, 0x10000)]
  ++ [(0x17128, 0xA28), (0x1714C, 1), (0x18104, 0x7D0), (0x18108, 3), (0x19110, 3), (0x1914C, 0x258), (0x1A100, 1), (0x1A104, 0x40042202),
   (0x1A110, 0x03020100), (0x1A12C, 0x1F1E1D1C), (0x1A14C, 0x1F1E1D1C), (0x1A16C, 0x1F1E1D1C), (0x1A1AC, 0x3F3E3D3C)]

/-- PAGE_KIND of the pages of Table 20.4, but for the YARD pages: page, and kind and instance as the word at its offset 0. -/
def pageKinds : List (Nat × Nat) :=
  [(0x01, 0x0100), (0x02, 0x0200), (0x03, 0), (0x08, 0x0800), (0x09, 0x0900), (0x0A, 0x0A00), (0x0B, 0x0B00), (0x0C, 0x0C00), (0x0D, 0x0C01),
   (0x0E, 0x0E00), (0x0F, 0x0F00), (0x10, 0x0F01)]
  ++ [(0x11, 0x1100), (0x12, 0x1200), (0x13, 0x1300), (0x14, 0x1400), (0x15, 0x1500), (0x16, 0x1600), (0x17, 0x1700), (0x18, 0x1800),
   (0x19, 0x1900), (0x1A, 0x1A00), (0x1B, 0x1B00), (0x1C, 0x1C00), (0x1D, 0), (0xFF, 0)]

end Sys2Proof.Statements

open Sys2Proof Sys2Proof.Machine Sys2Proof.Statements

/-- On a Sheave and on Naris, when the instruction executes and no earlier write is pending, ADD, ADDC, SUB, SUBC, ADDI and SUBI write the sum or difference modulo 2^32 to Dd after one cycle, and NZCV only when F is 1; CMP and CMPI write NZCV only. C is the carry out of the unsigned sum, or 1 where no borrow occurred; V is set exactly when the signed result does not fit. Nothing else in the state changes. -/
def Obligations.SumsAndDifferencesSetResultAndFlags : Prop :=
  ∀ (h : CHdr) (f : Bool) (dd dn dm : Fin 16) (imm : BitVec 12) (s : State), Goes h s → (s.cpu h.ex).pend = [] →
    let u := s.cpu h.ex
    let a := u.dr dn
    let b := u.dr dm
    let i : Word := imm.setWidth 32
    let c : Nat := if u.fl.c then 1 else 0
    let put (r : Word) (fl : Flags) : Result := stepCpu s h.ex 1 fun u => withFl f fl (withD dd r u)
    exec (.add h f dd dn dm) s = put (a + b) (sumFlags u.fl a b 0)
    ∧ exec (.addc h f dd dn dm) s = put (a + b + BitVec.ofNat 32 c) (sumFlags u.fl a b c)
    ∧ exec (.sub h f dd dn dm) s = put (a - b) (diffFlags u.fl a b 0)
    ∧ exec (.subc h f dd dn dm) s = put (a - b - BitVec.ofNat 32 (1 - c)) (diffFlags u.fl a b (1 - c))
    ∧ exec (.addi h f dd dn imm) s = put (a + i) (sumFlags u.fl a i 0)
    ∧ exec (.subi h f dd dn imm) s = put (a - i) (diffFlags u.fl a i 0)
    ∧ exec (.cmp h dn dm) s = stepCpu s h.ex 1 (withFl true (diffFlags u.fl a b 0))
    ∧ exec (.cmpi h dn imm) s = stepCpu s h.ex 1 (withFl true (diffFlags u.fl a i 0))

/-- When the instruction executes and no earlier write is pending: AND, OR, XOR, ANDN, NOT, MOV, ANDI, ORI, XORI, CLZ and BSWAP write Dd after one cycle and, with F, N and Z, leaving C and V; TST and TSTI write N and Z alone; LDI and LDIH write Dd and no flag, LDIH keeping the low half. CLZ counts the zeros above the highest set bit, 32 for zero, and BSWAP reverses the bytes. Nothing else in the state changes. -/
def Obligations.BitwiseAndMovesSetResultAndNZ : Prop :=
  ∀ (h : CHdr) (f : Bool) (dd dn dm : Fin 16) (imm : BitVec 12) (half : BitVec 16) (s : State), Goes h s → (s.cpu h.ex).pend = [] →
    let u := s.cpu h.ex
    let a := u.dr dn
    let b := u.dr dm
    let i : Word := imm.setWidth 32
    let put (r : Word) : Result := stepCpu s h.ex 1 fun u => withFl f (nz u.fl r) (withD dd r u)
    exec (.and h f dd dn dm) s = put (a &&& b)
    ∧ exec (.or h f dd dn dm) s = put (a ||| b)
    ∧ exec (.xor h f dd dn dm) s = put (a ^^^ b)
    ∧ exec (.andn h f dd dn dm) s = put (a &&& ~~~b)
    ∧ exec (.not h f dd dm) s = put (~~~b)
    ∧ exec (.mov h f dd dm) s = put b
    ∧ exec (.tst h dn dm) s = stepCpu s h.ex 1 (withFl true (nz u.fl (a &&& b)))
    ∧ exec (.andi h f dd dn imm) s = put (a &&& i)
    ∧ exec (.ori h f dd dn imm) s = put (a ||| i)
    ∧ exec (.xori h f dd dn imm) s = put (a ^^^ i)
    ∧ exec (.tsti h dn imm) s = stepCpu s h.ex 1 (withFl true (nz u.fl (a &&& i)))
    ∧ exec (.ldi h dd half) s = stepCpu s h.ex 1 (withD dd (half.setWidth 32))
    ∧ exec (.ldih h dd half) s = stepCpu s h.ex 1 (withD dd (BitVec.ofNat 32 (half.toNat * 65536 + (u.dr dd).toNat % 65536)))
    ∧ (∃ n : Nat, n ≤ 32 ∧ b.toNat < 2 ^ (32 - n) ∧ (b.toNat ≠ 0 → 2 ^ (31 - n) ≤ b.toNat) ∧ (b.toNat = 0 → n = 32)
        ∧ exec (.clz h f dd dm) s = put (BitVec.ofNat 32 n))
    ∧ (∃ r : Word, (∀ k : Nat, k < 4 → r.extractLsb' (8 * k) 8 = b.extractLsb' (8 * (3 - k)) 8) ∧ exec (.bswap h f dd dm) s = put r)

/-- When the instruction executes and no earlier write is pending, the shifts by SH and by Dm[4:0] write Dd after one cycle: SHL multiplies by 2^n modulo 2^32, SHR divides the unsigned word, SAR divides the signed word rounding down, ROR rotates right. With F they write N, Z and C, where C is the last bit shifted out and is unchanged by a shift of 0; V is unchanged. Nothing else in the state changes. -/
def Obligations.ShiftsWriteResultAndLastBitOut : Prop :=
  ∀ (h : CHdr) (f : Bool) (dd dn dm : Fin 16) (sh : Fin 32) (s : State), Goes h s → (s.cpu h.ex).pend = [] →
    let u := s.cpu h.ex
    let a := u.dr dn
    let v := (u.dr dm).toNat % 32
    let put (n : Nat) (r : Word) (bit : Nat) : Result := stepCpu s h.ex 1 fun u =>
      withFl f { nz u.fl r with c := if n = 0 then u.fl.c else a.getLsbD bit } (withD dd r u)
    let shl (n : Nat) : Result := put n (BitVec.ofNat 32 (a.toNat * 2 ^ n)) (32 - n)
    let shr (n : Nat) : Result := put n (BitVec.ofNat 32 (a.toNat / 2 ^ n)) (n - 1)
    let sar (n : Nat) : Result := put n (BitVec.ofInt 32 (a.toInt / 2 ^ n)) (n - 1)
    let ror (n : Nat) : Result := put n (BitVec.ofNat 32 (a.toNat / 2 ^ n + a.toNat * 2 ^ (32 - n))) (n - 1)
    exec (.shl h f dd dn sh) s = shl sh ∧ exec (.shlv h f dd dn dm) s = shl v
    ∧ exec (.shr h f dd dn sh) s = shr sh ∧ exec (.shrv h f dd dn dm) s = shr v
    ∧ exec (.sar h f dd dn sh) s = sar sh ∧ exec (.sarv h f dd dn dm) s = sar v
    ∧ exec (.ror h f dd dn sh) s = ror sh ∧ exec (.rorv h f dd dn dm) s = ror v

/-- When the instruction executes and no earlier write is pending: LEA writes Ab + signed IMM16, PC + 4 × signed IMM16 or IMM16 × 256 by its MODE; ADDA and SUBA write As plus or minus an unsigned 12-bit immediate or a data register, modulo 2^32; MOVA and MOVD copy between the classes. Each takes one cycle, writes its one destination, and changes nothing else. MODE 3, and a nonzero Ab in MODE 1 and 2, are ILLEGAL. -/
def Obligations.AddressArithmeticWritesOneRegister : Prop :=
  ∀ (h : CHdr) (ad ab src : Fin 8) (dd dm : Fin 16) (mode : BitVec 2) (imm : BitVec 16) (i : BitVec 12) (s : State),
    Goes h s → (s.cpu h.ex).pend = [] →
    let u := s.cpu h.ex
    let put (v : Word) : Result := stepCpu s h.ex 1 (withA ad v)
    (exec (.lea h ad ab 0 imm) s = put (BitVec.ofInt 32 ((u.ar ab).toInt + imm.toInt))
      ∧ exec (.lea h ad 0 1 imm) s = put (BitVec.ofInt 32 (u.pc.toInt + 4 * imm.toInt))
      ∧ exec (.lea h ad 0 2 imm) s = put (BitVec.ofNat 32 (imm.toNat * 256))
      ∧ (mode = 3 ∨ (mode ≠ 0 ∧ ab ≠ 0) → exec (.lea h ad ab mode imm) s = .next (s.instrFault h.ex 0x01)))
    ∧ exec (.adda h ad src (.imm i)) s = put (BitVec.ofNat 32 ((u.ar src).toNat + i.toNat))
    ∧ exec (.adda h ad src (.reg dm)) s = put (u.ar src + u.dr dm)
    ∧ exec (.suba h ad src (.imm i)) s = put (BitVec.ofInt 32 ((u.ar src).toInt - i.toNat))
    ∧ exec (.suba h ad src (.reg dm)) s = put (u.ar src - u.dr dm)
    ∧ exec (.mova h ad dm) s = put (u.dr dm)
    ∧ exec (.movd h dd src) s = stepCpu s h.ex 1 (withD dd (u.ar src))

/-- When the instruction executes and no earlier write is pending, MUL leaves pending, for the cycle after its one delay slot, the low word of the product; MULU, MULS and MACU leave pending, after two delay slots, the low and high words of the unsigned product, the signed product, or Dd+1:Dd plus the unsigned product modulo 2^64. Dd keeps its old value until then. An odd Dd of MULU, MULS or MACU is ILLEGAL. -/
def Obligations.ProductsLandAfterTheirDelaySlots : Prop :=
  ∀ (h : CHdr) (dd dn dm : Fin 16) (s : State), Goes h s → (s.cpu h.ex).pend = [] →
    let u := s.cpu h.ex
    let a := u.dr dn
    let b := u.dr dm
    let acc : Nat := (u.dr (nextReg dd)).toNat * 2 ^ 32 + (u.dr dd).toNat
    let pair (p : Int) : Result := stepCpu s h.ex 1 fun u =>
      { u with pend := [due (u.cyc + 2) (.d dd (BitVec.ofInt 32 p)), due (u.cyc + 2) (.d (nextReg dd) (BitVec.ofInt 32 (p / 2 ^ 32)))] }
    exec (.mul h dd dn dm) s = stepCpu s h.ex 1 (fun u => { u with pend := [due (u.cyc + 1) (.d dd (BitVec.ofNat 32 (a.toNat * b.toNat)))] })
    ∧ (dd.val % 2 = 0 → exec (.mulu h dd dn dm) s = pair (a.toNat * b.toNat)
        ∧ exec (.muls h dd dn dm) s = pair (a.toInt * b.toInt)
        ∧ exec (.macu h dd dn dm) s = pair (acc + a.toNat * b.toNat))
    ∧ (dd.val % 2 = 1 → exec (.mulu h dd dn dm) s = .next (s.instrFault h.ex 0x01)
        ∧ exec (.muls h dd dn dm) s = .next (s.instrFault h.ex 0x01)
        ∧ exec (.macu h dd dn dm) s = .next (s.instrFault h.ex 0x01))

/-- With one write of a data register pending, an instruction of one cycle that issues leaves it pending when it falls due after the next cycle, and otherwise makes it; a failed condition does not cancel it. Where the passing instruction writes the same register, its own write is the later in program order: it stands if both fall due together, and the pending write replaces it if that falls due later. -/
def Obligations.PendingWriteLandsAtItsCycle : Prop :=
  ∀ (h : CHdr) (dd dm r : Fin 16) (w : Word) (c : Nat) (s : State), Goes h s → (s.cpu h.ex).pend = [due c (.d r w)] →
    let u := s.cpu h.ex
    (∃ t, exec (.tst h dd dm) s = .next t
      ∧ (t.cpu h.ex).dr r = (if c ≤ u.cyc + 1 then w else u.dr r)
      ∧ (t.cpu h.ex).pend = (if c ≤ u.cyc + 1 then [] else [due c (.d r w)]))
    ∧ (∃ t, exec (.mov h false r dm) s = .next t ∧ (t.cpu h.ex).dr r = u.dr dm
      ∧ (t.cpu h.ex).pend = (if c ≤ u.cyc + 1 then [] else [due c (.d r w)]))
    ∧ (∀ cond, condHolds cond u.fl = false → ∃ t, exec (.mov { h with cond := cond } false dd dm) s = .next t
      ∧ (t.cpu h.ex).dr r = (if c ≤ u.cyc + 1 then w else u.dr r))

/-- On a Sheave, every well-formed instruction of the conditional group whose condition fails, and every one of the extended group whose MC fails, advances the pc and the cycle count by its full cycle count, lets the pending writes that fall due land, and changes nothing else in the state: no register or flag of its own, no memory, no port, no fault. An instruction with a nonzero reserved bit raises ILLEGAL whether or not its condition holds. -/
def Obligations.FailedConditionTakesItsCyclesAndNothingElse : Prop :=
  ∀ (i : Instr) (y : Fin 64) (l : Fin 16) (k : Nat) (s : State),
    s.canIssue (.sheave y l) = true → s.fetchFault (.sheave y l) (s.cpu (.sheave y l)).pc = none →
    (∀ h : CHdr, condOf i = some (h, k) → h.ex = .sheave y l → h.chk = .none →
      (i.wf = true → condHolds h.cond (s.cpu h.ex).fl = false → exec i s = stepCpu s (.sheave y l) k fun u => u.land u.cyc)
      ∧ (h.rsv ≠ 0 → exec i s = .next (s.instrFault (.sheave y l) 0x01)))
    ∧ (∀ x : XHdr, extOf i = some (x, k) → x.ex = .sheave y l → x.chk = .none →
      (i.wf = true → ((s.classOf x.ex).map ClassEnt.carry = some true ∨ i ≠ .carry x) → mcHolds x.mc (s.cpu x.ex).fl = false →
        exec i s = stepCpu s (.sheave y l) k fun u => u.land u.cyc)
      ∧ (x.rsv ≠ 0 ∨ x.mc = .m3 → exec i s = .next (s.instrFault (.sheave y l) 0x01)))

/-- When the instruction executes on a sealed accumulator, QEXT and QCMP (either operand) raise fault SEALED on a Sheave and on Naris, QST does on both, and PUTQ does on a Sheave for the port registers that take no sealed input: PAN_IN and PAN_OUT of the PIN format unit, HKEY and X of the GHASH unit. The fault stops the Sheave or traps Naris; yard memory, data RAM, Naris RAM and the data registers of the executor are unchanged. -/
def Obligations.SealedAccumulatorIsNeverStoredMovedOrCompared : Prop :=
  (∀ (h : CHdr) (qa qb : Fin 4) (dd : Fin 16) (lane : Fin 4) (s : State), Goes h s →
    ((((s.cpu h.ex).qr qa).sealed = true ∨ ((s.cpu h.ex).qr qb).sealed = true) → exec (.qcmp h qa qb) s = .next (s.instrFault h.ex 0x02))
    ∧ (((s.cpu h.ex).qr qa).sealed = true → exec (.qext h dd qa lane) s = .next (s.instrFault h.ex 0x02)))
  ∧ (∀ (h : CHdr) (qt : Fin 4) (ab : Fin 8) (off : BitVec 12) (s : State), Goes h s → ((s.cpu h.ex).qr qt).sealed = true →
    ∃ t : State, exec (.qst h qt ab off) s = .next (t.instrFault h.ex 0x02) ∧ (h.ex ≠ .naris → t = s)
      ∧ (t.ymem, t.dram, t.narisRam, t.cpu h.ex) = (s.ymem, s.dram, s.narisRam, s.cpu h.ex))
  ∧ (∀ (x : XHdr) (y : Fin 64) (l : Fin 16) (qn : Fin 4) (ab : Fin 8) (off : BitVec 12) (u : Nat) (s : State),
    GoesX x s → x.ex = .sheave y l → ((s.cpu x.ex).qr qn).sealed = true → u < 32 → ((s.cpu x.ex).ar ab).toNat % 4 = 0 →
    ((s.cpu x.ex).ar ab).toNat + 4 * off.toNat ∈ [0xF10010 + u * 0x100, 0xF10020 + u * 0x100, 0xF30000, 0xF30020] →
    exec (.putq x qn ab off) s = .next (s.instrFault x.ex 0x02))
  ∧ (∀ (s : State) (ex : Exec), (s.instrFault ex 0x02).ymem = s.ymem ∧ (s.instrFault ex 0x02).dram = s.dram
    ∧ (s.instrFault ex 0x02).narisRam = s.narisRam ∧ ((s.instrFault ex 0x02).cpu ex).d = (s.cpu ex).d)

/-- A BR to a misaligned address on a Sheave that runs item i: the Sheave is FAULTED and its pending writes are discarded, its registers are otherwise as they were, and the item is marked with the result bytes code 0x05, 0x01, physical Sheave, yard and the address of the BR, unless an earlier Sheave fault already marked it. On Naris the same fault traps to SR_VBASE + 0x50 with SR_EPC the address, SR_CAUSE the code, IE copied to PIE and cleared. -/
def Obligations.SheaveFaultStopsTheItem : Prop :=
  (∀ (x : XHdr) (y : Fin 64) (l : Fin 16) (dm : Fin 16) (i : Item) (s : State), GoesX x s → x.ex = .sheave y l →
    ((s.cpu x.ex).dr dm).toNat % 4 ≠ 0 → s.item (s.sheave y l).item = some i → i.sfault = none →
    ∃ t, exec (.br x dm) s = .next t ∧ (t.sheave y l).run = .faulted ∧ (t.sheave y l).cpu = { s.cpu x.ex with pend := [] }
      ∧ (t.item i.id).map (fun j => (j.sfault.map Prod.snd)) = some (some (
          [0x05, 0x01, BitVec.ofNat 8 (s.physSheave y l), BitVec.ofNat 8 y.val] ++ leBytes 4 (s.cpu x.ex).pc.toNat)))
  ∧ (∀ (x : XHdr) (dm : Fin 16) (s : State), GoesX x s → x.ex = .naris → ((s.cpu x.ex).dr dm).toNat % 4 ≠ 0 →
    ∃ t, exec (.br x dm) s = .next t ∧ t.naris.cpu = { s.naris.cpu with pc := s.naris.vbase + 0x50 } ∧ t.naris.epc = s.naris.cpu.pc
      ∧ t.naris.cause = 0x05 ∧ t.naris.status = (s.naris.status % 2) * 2)

/-- When the instruction executes and no earlier write is pending: B, BL and B.QM take two cycles and go to the branch's own address plus four times the signed offset; BR and BLR take three cycles and go to Dm where it is word aligned; BL and BLR write the address of the next instruction to D15, BLR after Dm is read, so that Dm may be D15. Nothing else in the state changes. A BR or BLR to a misaligned Dm raises MISALIGNED. -/
def Obligations.BranchesMoveThePc : Prop :=
  (∀ (h : CHdr) (off : BitVec 24) (s : State), Goes h s → (s.cpu h.ex).pend = [] →
    exec (.b h off) s = jump s h.ex 2 ((s.cpu h.ex).pc + BitVec.ofInt 32 (4 * off.toInt)) id)
  ∧ (∀ (x : XHdr) (off : BitVec 22) (dm : Fin 16) (s : State), GoesX x s → (s.cpu x.ex).pend = [] →
    let u := s.cpu x.ex
    let tgt : Word := u.pc + BitVec.ofInt 32 (4 * off.toInt)
    exec (.bl x off) s = jump s x.ex 2 tgt (withD 15 (u.pc + 4))
    ∧ exec (.bqm x off) s = jump s x.ex 2 tgt id
    ∧ ((u.dr dm).toNat % 4 = 0 → exec (.br x dm) s = jump s x.ex 3 (u.dr dm) id
        ∧ exec (.blr x dm) s = jump s x.ex 3 (u.dr dm) (withD 15 (u.pc + 4)))
    ∧ ((u.dr dm).toNat % 4 ≠ 0 → exec (.br x dm) s = .next (s.instrFault x.ex 0x05)
        ∧ exec (.blr x dm) s = .next (s.instrFault x.ex 0x05)))

/-- When the instruction executes and no earlier write is pending: QCLR zeroes the accumulator with every attribute; QMOV writes Qa with its KEY state, QXOR the exclusive or, QINS one little-endian lane, each with SEALED the OR of the destination's old seal and the operands' seals, and QXOR and QINS clearing KEY and the extension; QEQ writes M alone: the low LEN bytes agree; QCMP of unsealed operands takes two cycles and writes Z, C = (Qa ≥ Qb), N = bit 127 of the difference, V = 0; QEXT of an unsealed operand writes one lane to Dd. Nothing else in the state changes. -/
def Obligations.AccumulatorOperationsKeepSeals : Prop :=
  ∀ (h : CHdr) (qd qa qb : Fin 4) (dd dm : Fin 16) (lane : Fin 4) (n : Fin 16) (s : State), Goes h s → (s.cpu h.ex).pend = [] →
    let u := s.cpu h.ex
    let a := u.qr qa
    let b := u.qr qb
    let d := u.qr qd
    exec (.qclr h qd) s = stepCpu s h.ex 1 (withQ qd {})
    ∧ exec (.qmov h qd qa) s = stepCpu s h.ex 1 (withQ qd { a with sealed := d.sealed || a.sealed })
    ∧ exec (.qxor h qd qa qb) s = stepCpu s h.ex 1 (withQ qd { val := a.val ^^^ b.val, sealed := d.sealed || (a.sealed || b.sealed) })
    ∧ exec (.qeq h qa qb n) s = stepCpu s h.ex 1 (withFl true
        { u.fl with m := decide (a.val.toNat % 2 ^ (8 * (n.val + 1)) = b.val.toNat % 2 ^ (8 * (n.val + 1))) })
    ∧ (a.sealed = false → b.sealed = false → exec (.qcmp h qa qb) s = stepCpu s h.ex 2 (withFl true
        { u.fl with n := (a.val - b.val).msb, z := decide (a.val = b.val), c := decide (b.val.toNat ≤ a.val.toNat), v := false }))
    ∧ (∃ v : Quad, (∀ k : Nat, k < 4 → v.extractLsb' (32 * k) 32 = if k = lane.val then u.dr dm else d.val.extractLsb' (32 * k) 32)
        ∧ exec (.qins h qd dm lane) s = stepCpu s h.ex 1 (withQ qd { val := v, sealed := d.sealed }))
    ∧ (a.sealed = false → exec (.qext h dd qa lane) s = stepCpu s h.ex 1 (withD dd (a.val.extractLsb' (32 * lane.val) 32)))

/-- On a Sheave that runs item i of class c: POST with an admissible status, a length within MAX_OUT, an even Dr, no earlier POST and no CARRY in the frame records status, length and the 8 result bytes of Dr and Dr + 1 with the item; where any of these fails it raises BAD_POST. CARRY in a class with the CARRY flag marks the item as carried in this frame, notes whether a port operation is outstanding, and stops the Sheave; in another class it is ILLEGAL. HALT stops the Sheave. The registers and memories are unchanged but for the cycle and pc. -/
def Obligations.PostCarryAndHaltEndTheRun : Prop :=
  ∀ (x : XHdr) (y : Fin 64) (l : Fin 16) (ds dl dr : Fin 16) (i : Item) (c : ClassEnt) (s : State),
    GoesX x s → x.ex = .sheave y l → (s.cpu x.ex).pend = [] → s.item (s.sheave y l).item = some i → s.classEnt i.cls = some c →
    let u := s.cpu x.ex
    let st := (u.dr ds).toNat % 256
    let res := leBytes 4 (u.dr dr).toNat ++ leBytes 4 (u.dr (nextReg dr)).toNat
    let good := (st ∈ [0x00, 0x01, 0x05, 0x08, 0x09, 0x0A, 0x0B, 0x0C, 0x0D, 0x0E, 0x13]) ∧ (u.dr dl).toNat ≤ c.maxOut ∧ dr.val % 2 = 0
      ∧ i.posted = none ∧ i.carriedNow = false ∧ ¬ (st = 0x05 ∧ res.drop 6 = [0xFF, 0xFF])
    let after (run : RunState) (t : State) : Prop :=
      t.sheave y l = { s.sheave y l with run := run, cpu := { u with pc := u.pc + 4, cyc := u.cyc + 1 } }
      ∧ (t.ymem, t.dram, t.rf, t.hdr, t.flights) = (s.ymem, s.dram, s.rf, s.hdr, s.flights)
    (good → ∃ t, exec (.post x ds dl dr) s = .next t ∧ after .running t
      ∧ t.item i.id = some { i with posted := some { status := st, len := (u.dr dl).toNat, result := res } })
    ∧ (¬ good → exec (.post x ds dl dr) s = .next (s.instrFault x.ex 0x09))
    ∧ (c.carry = true → ∃ t, exec (.carry x) s = .next t ∧ after .carried t
        ∧ t.item i.id = some { i with carriedNow := true, outstanding := i.outstanding || s.portBusy x.ex })
    ∧ (c.carry = false → exec (.carry x) s = .next (s.instrFault x.ex 0x01))
    ∧ (∃ t, exec (.halt x) s = .next t ∧ after .halted t ∧ t.adm = s.adm)

/-- On a Sheave, when the instruction executes and no earlier write is pending, an aligned load whose bytes lie in data RAM (one delay slot), in the buffer of its item or in a TABLES record of its yard (three) leaves one write pending: the bytes, least significant first, zero or sign extended for LD, an address register for LDA, an unsealed accumulator without KEY for QLD, whose SEALED stays if it was set. Nothing else changes. On Naris a load from Naris RAM does the same with one delay slot in a time that is not fixed. SZ 11 is ILLEGAL, a misaligned address MISALIGNED, an address outside data RAM and yard memory ADDR_CLASS, a yard address in neither the item's buffer nor TABLES WINDOW. Elsewhere Naris reads what its map gives: bytes for the register, bytes that come later, or a trap ADDR_CLASS. -/
def Obligations.LoadsReachTheirRegisterAfterTheDelay : Prop :=
  ∀ (h : CHdr) (sz : BitVec 2) (sx : Bool) (dt : Fin 16) (at' ab : Fin 8) (qt : Fin 4) (off : BitVec 12) (s : State), Goes h s →
    let u := s.cpu h.ex
    let a := (u.ar ab + off.signExtend 32).toNat
    let n : Nat := if sz = 0 then 4 else if sz = 1 then 2 else 1
    (∀ (y : Fin 64) (l : Fin 16), h.ex = .sheave y l →
      (u.pend = [] → ∀ (d : Nat) (bs : List Byte),
        (sz ≠ 3 → a % n = 0 → SheaveReads s y l a n d bs → exec (.ld h sz sx dt ab off) s = delayed s h.ex d (.d dt (extended bs sx)))
        ∧ (a % 4 = 0 → SheaveReads s y l a 4 d bs → exec (.lda h at' ab off) s = delayed s h.ex d (.a at' (extended bs false)))
        ∧ (a % 16 = 0 → SheaveReads s y l a 16 d bs → exec (.qld h qt ab off) s = delayed s h.ex d (.q qt { val := bytesQuad bs })))
      ∧ (sz = 3 → exec (.ld h sz sx dt ab off) s = .next (s.instrFault h.ex 0x01))
      ∧ (sz ≠ 3 → a % n ≠ 0 → exec (.ld h sz sx dt ab off) s = .next (s.instrFault h.ex 0x05))
      ∧ (a % 16 ≠ 0 → exec (.qld h qt ab off) s = .next (s.instrFault h.ex 0x05))
      ∧ (a % 16 = 0 → ¬ (0x10000 ≤ a ∧ a < 0x18000) → ¬ (0x100000 ≤ a ∧ a < 0x140000) →
          exec (.ld h 0 sx dt ab off) s = .next (s.instrFault h.ex 0x03) ∧ exec (.lda h at' ab off) s = .next (s.instrFault h.ex 0x03)
          ∧ exec (.qld h qt ab off) s = .next (s.instrFault h.ex 0x03))
      ∧ (∀ i, a % 16 = 0 → 0x100000 ≤ a → a < 0x140000 → s.item (s.sheave y l).item = some i →
          s.inBuffer i (a - 0x100000) = false → s.inTables y (a - 0x100000) = false →
          exec (.ld h 0 sx dt ab off) s = .next (s.instrFault h.ex 0x04) ∧ exec (.lda h at' ab off) s = .next (s.instrFault h.ex 0x04)
          ∧ exec (.qld h qt ab off) s = .next (s.instrFault h.ex 0x04)))
    ∧ (h.ex = .naris → u.pend = [] → 0x10000000 ≤ a →
      let late (k : Nat) (w : RegWrite) : Result := afterNaris s 1 fun u => { u with pend := [due (u.cyc + k) w] }
      let ram (m : Nat) : List Byte := SMap.bytes s.narisRam (a - 0x10000000) m
      (sz ≠ 3 → a % n = 0 → a + n ≤ 0x10040000 → exec (.ld h sz sx dt ab off) s = late 1 (.d dt (extended (ram n) sx)))
      ∧ (a % 4 = 0 → a + 4 ≤ 0x10040000 → exec (.lda h at' ab off) s = late 1 (.a at' (extended (ram 4) false)))
      ∧ (a % 16 = 0 → a + 16 ≤ 0x10040000 → exec (.qld h qt ab off) s = late 1 (.q qt { val := bytesQuad (ram 16) })))
    ∧ (h.ex = .naris → u.pend = [] →
      let s1 : State := { s with free := s.free + 1 }
      let took (r : NarisLoad) (w : List Byte → RegWrite) (x : Result) : Prop := match r with
        | .bytes bs t => t.naris.cpu = u → x = stepCpu t .naris (1 + Config.freeNat s.free) fun u => { u with pend := [due (u.cyc + 1) (w bs)] }
        | .wait t => t.naris.cpu = u → x = stepCpu t .naris (1 + Config.freeNat s.free) id
        | .trap t => x = .next (t.instrFault .naris 0x03)
      (sz ≠ 3 → a % n = 0 → took (s1.narisLoad a n (.d dt sx)) (fun bs => .d dt (extended bs sx)) (exec (.ld h sz sx dt ab off) s))
      ∧ (a % 4 = 0 → took (s1.narisLoad a 4 (.a at')) (fun bs => .a at' (extended bs false)) (exec (.lda h at' ab off) s))
      ∧ (a % 16 = 0 → took (s1.narisLoad a 16 (.q qt)) (fun bs => .q qt { val := bytesQuad bs }) (exec (.qld h qt ab off) s))
      ∧ (sz = 3 → exec (.ld h sz sx dt ab off) s = .next (s1.instrFault .naris 0x01))
      ∧ (sz ≠ 3 → a % n ≠ 0 → exec (.ld h sz sx dt ab off) s = .next (s1.instrFault .naris 0x05)))

/-- On a Sheave, when the instruction executes, no earlier write is pending and no hash of its item reads the stored bytes, an aligned ST, STA or unsealed QST to data RAM or to the buffer of its item stores the low 4, 2 or 1 bytes of the data register, the address register, or the 16 bytes of the accumulator, least significant first, takes one cycle, and changes no register or flag; every other byte of that memory, the other memories and the rest of the state stay. On Naris a store to Naris RAM does the same in a time that is not fixed, and any other store does what its map gives or traps ADDR_CLASS. A store to TABLES outside the buffer is WINDOW, to any other region ADDR_CLASS. -/
def Obligations.StoresChangeExactlyTheirBytes : Prop :=
  ∀ (h : CHdr) (sz : BitVec 2) (dt : Fin 16) (at' ab : Fin 8) (qt : Fin 4) (off : BitVec 12) (i : Instr) (bs : List Byte) (s : State),
    Goes h s → (s.cpu h.ex).pend = [] →
    let u := s.cpu h.ex
    let a := (u.ar ab + off.signExtend 32).toNat
    let n := bs.length
    ((i = .st h sz dt ab off ∧ sz ≠ 3 ∧ bs = leBytes (if sz = 0 then 4 else if sz = 1 then 2 else 1) (u.dr dt).toNat)
      ∨ (i = .sta h at' ab off ∧ bs = leBytes 4 (u.ar at').toNat)
      ∨ (i = .qst h qt ab off ∧ (u.qr qt).sealed = false ∧ bs = quadBytes (u.qr qt).val)) →
    let moved (t : State) : Result := stepCpu t h.ex 1 id
    (∀ (y : Fin 64) (l : Fin 16), h.ex = .sheave y l → (∀ f ∈ s.flights, f.src = none) →
      (a % n = 0 → 0x10000 ≤ a → a + n ≤ 0x18000 → ∃ m : SMap Byte,
          exec i s = moved { s with dram := m }
          ∧ ∀ x, let base := ramBase y (s.physSheave y l) + (a - 0x10000)
            SMap.get 0 m x = if base ≤ x ∧ x < base + n then bs.getD (x - base) 0 else SMap.get 0 s.dram x)
      ∧ (∀ j e c inB, a % n = 0 → s.item (s.sheave y l).item = some j → j.place = .running (s.sheave y l).slot inB →
          s.slotEnt (s.sheave y l).slot = some e → s.classEnt j.cls = some c →
          0x100000 + bufStart e inB ≤ a → a + n ≤ 0x100000 + bufStart e inB + 64 * c.bufLen → a + n ≤ 0x140000 → ∃ (m : SMap Byte) (p : SMap (Option (Nat × Byte))),
          exec i s = moved { s with ymem := m, unitPuts := p }
          ∧ (∀ x, SMap.get none p x = if y.val * 0x40000 + (a - 0x100000) ≤ x ∧ x < y.val * 0x40000 + (a - 0x100000) + n then none else SMap.get none s.unitPuts x)
          ∧ ∀ x, let base := y.val * 0x40000 + (a - 0x100000)
            SMap.get 0 m x = if base ≤ x ∧ x < base + n then bs.getD (x - base) 0 else SMap.get 0 s.ymem x)
      ∧ (a % n ≠ 0 → exec i s = .next (s.instrFault h.ex 0x05))
      ∧ (∀ j, a % n = 0 → 0x100000 ≤ a → a < 0x140000 → s.item (s.sheave y l).item = some j → s.inBuffer j (a - 0x100000) = false →
          exec i s = .next (s.instrFault h.ex 0x04))
      ∧ (a % n = 0 → ¬ (0x10000 ≤ a ∧ a < 0x18000) → ¬ (0x100000 ≤ a ∧ a < 0x140000) → exec i s = .next (s.instrFault h.ex 0x03)))
    ∧ (h.ex = .naris → a % n = 0 → 0x10000000 ≤ a → a + n ≤ 0x10040000 → ∃ m : SMap Byte,
        exec i s = afterNaris { s with narisRam := m } 1 id
        ∧ ∀ x, let base := a - 0x10000000
          SMap.get 0 m x = if base ≤ x ∧ x < base + n then bs.getD (x - base) 0 else SMap.get 0 s.narisRam x)
    ∧ (h.ex = .naris → a % n = 0 → match ({ s with free := s.free + 1 } : State).narisStore a bs with
        | some t => t.naris.cpu = u → exec i s = stepCpu t .naris (1 + Config.freeNat s.free) id
        | none => exec i s = .next (({ s with free := s.free + 1 } : State).instrFault .naris 0x03))
    ∧ (h.ex = .naris → a % n ≠ 0 → exec i s = .next (({ s with free := s.free + 1 } : State).instrFault .naris 0x05))

/-- On a Sheave, when the instruction executes, no earlier write is pending and the table of N words lies in data RAM with its count word below it, TLI takes four cycles and leaves pending, for two cycles later, Dd and then N, Z and V of the result: with k = i [31:16] and f = i [15:0], T[k] + (T[k+1] − T[k]) · f / 65,536 rounded to the nearest integer, a tie away from zero, and V = 0 where k + 1 is below N; T[N − 1] and V = 1 where it is not; 0 and V = 1 where N is 0. C and M are kept, and nothing else changes. A base that is not word aligned is MISALIGNED, a table outside data RAM ADDR_CLASS. -/
def Obligations.TliFollowsTheTable : Prop :=
  ∀ (h : CHdr) (y : Fin 64) (l : Fin 16) (dd : Fin 16) (ab : Fin 8) (ds : Fin 16) (s : State), Goes h s → h.ex = .sheave y l →
    let u := s.cpu h.ex
    let base := (u.ar ab).toNat
    let k := (u.dr ds).toNat / 65536
    let f : Int := ((u.dr ds).toNat % 65536 : Nat)
    let word (i : Int) : Word := BitVec.ofNat 32 (leNat (SMap.bytes s.dram (ramBase y (s.physSheave y l) + (((base : Int) + 4 * i).toNat - 0x10000)) 4))
    let n := (word (-1)).toNat
    let answer (r : Int) (v : Bool) : Result := stepCpu s h.ex 4 fun u =>
      let w := BitVec.ofInt 32 r
      { u with pend := [due (u.cyc + 2) (.d dd w), due (u.cyc + 2) (.fl (some w.msb) (some (w == 0)) none (some v) none)] }
    (u.pend = [] → base % 4 = 0 → 0x10004 ≤ base → base + 4 * (k + 2) ≤ 0x18000 → base + 4 * n ≤ 0x18000 →
      (n = 0 → exec (.tli h dd ab ds) s = answer 0 true)
      ∧ (0 < n → n ≤ k + 1 → exec (.tli h dd ab ds) s = answer (word (n - 1)).toInt true)
      ∧ (k + 1 < n → ∃ r : Int,
          let exact : Int := (word k).toInt * 65536 + ((word (k + 1)).toInt - (word k).toInt) * f
          2 * (r * 65536 - exact).natAbs ≤ 65536 ∧ (2 * (r * 65536 - exact).natAbs = 65536 → exact.natAbs ≤ (r * 65536).natAbs)
          ∧ exec (.tli h dd ab ds) s = answer r false))
    ∧ (base % 4 ≠ 0 → exec (.tli h dd ab ds) s = .next (s.instrFault h.ex 0x05))
    ∧ (base % 4 = 0 → ¬ (0x10004 ≤ base ∧ base ≤ 0x18000) → exec (.tli h dd ab ds) s = .next (s.instrFault h.ex 0x03))

/-- On Naris, when the instruction executes, no earlier write is pending and no interrupt is pending: SRR copies SR_STATUS, SR_EPC, SR_CAUSE, SR_VBASE, the cycle count's words, SR_NWIN and SR_LOCKSTEP to Dd; SRW writes the writable bits of SR_STATUS, SR_EPC, SR_VBASE and SR_NWIN and is ILLEGAL for any other register; ERET takes three cycles, goes to SR_EPC and copies PIE to IE; WFI waits until an interrupt; SYNC goes on when no store waits, and stays at its address while one does. The cycle count is that of the instructions and of the waits and accesses between, whose times are not fixed: a free number is added after any of them. NARIS_INTERRUPT with IE set goes to SR_VBASE + 0x100 with SR_CAUSE bit 31, SR_EPC the pc, IE copied to PIE and cleared, and ends a wait; with IE clear it stays pending and changes no register. On a Sheave each of the five instructions that executes is fault PRIV. -/
def Obligations.NarisSystemRegistersAndInterrupts : Prop :=
  (∀ (x : XHdr) (dd : Fin 16) (sr : BitVec 8) (s : State), GoesX x s → x.ex = .naris → (s.cpu x.ex).pend = [] →
    let v := s.naris
    let put (w : Word) : Result := stepCpu s .naris 1 (withD dd w)
    (exec (.srr x dd 0x00) s = put (BitVec.ofNat 32 v.status) ∧ exec (.srr x dd 0x01) s = put v.epc
      ∧ exec (.srr x dd 0x02) s = put v.cause ∧ exec (.srr x dd 0x03) s = put v.vbase
      ∧ (v.lag = false → exec (.srr x dd 0x04) s = put (BitVec.ofNat 32 (v.cpu.cyc + v.spent))
        ∧ exec (.srr x dd 0x05) s = put (BitVec.ofNat 32 ((v.cpu.cyc + v.spent) / 2 ^ 32)))
      ∧ (v.lag = true →
        let n := v.spent + Config.freeNat s.free
        let s1 : State := { s with free := s.free + 1, naris := { v with spent := n, lag := false } }
        exec (.srr x dd 0x04) s = stepCpu s1 .naris 1 (withD dd (BitVec.ofNat 32 (v.cpu.cyc + n)))
        ∧ exec (.srr x dd 0x05) s = stepCpu s1 .naris 1 (withD dd (BitVec.ofNat 32 ((v.cpu.cyc + n) / 2 ^ 32))))
      ∧ (∀ b, s.fetchBank = some b → exec (.srr x dd 0x07) s = put (BitVec.ofNat 32 b))
      ∧ (s.fetchBank = none → exec (.srr x dd 0x07) s = stepCpu { s with free := s.free + 1 } .naris 1 (withD dd (Config.freeWord s.free &&& 1)))
      ∧ (9 ≤ sr.toNat → exec (.srr x dd sr) s = stepCpu { s with free := s.free + 1 } .naris 1 (withD dd (Config.freeWord s.free)))
      ∧ exec (.srr x dd 0x06) s = put (BitVec.ofNat 32 v.nwin) ∧ exec (.srr x dd 0x08) s = put (BitVec.ofNat 32 (s.reg Reg.NARIS.LOCKSTEP_CNT)))
    ∧ (v.irq = false →
      let w := v.cpu.dr dd
      let set (n : NarisSt) : Result := stepCpu { s with naris := n } .naris 1 id
      exec (.srw x 0x00 dd) s = set { v with status := w.toNat % 4 } ∧ exec (.srw x 0x01 dd) s = set { v with epc := w }
      ∧ exec (.srw x 0x03 dd) s = set { v with vbase := BitVec.ofNat 32 (w.toNat / 256 * 256) }
      ∧ exec (.srw x 0x06 dd) s = set { v with nwin := w.toNat % 512 }
      ∧ (sr ∉ ([0x00, 0x01, 0x03, 0x06] : List (BitVec 8)) → exec (.srw x sr dd) s = .next (s.instrFault .naris 0x01))
      ∧ exec (.eret x) s = jump { s with naris := { v with status := v.status / 2 * 2 + v.status / 2 % 2 } } .naris 3 v.epc id
      ∧ exec (.wfi x) s = set { v with waiting := true })
    ∧ (s.witness.wired = [] → exec (.sync x) s = stepCpu s .naris 1 id)
    ∧ (s.storeWaits = true → exec (.sync x) s = .next { s with naris := { v with lag := true } }))
  ∧ (∀ s : State,
    (s.naris.status % 2 = 1 → exec .narisInterrupt s = .next { s with naris := { s.naris with
      irq := false, waiting := false, lag := s.naris.lag || s.naris.waiting, epc := s.naris.cpu.pc, cause := 0x80000000, status := 2,
      cpu := { s.naris.cpu with pc := s.naris.vbase + 0x100 } } })
    ∧ (s.naris.status % 2 = 0 → exec .narisInterrupt s = .next { s with naris := { s.naris with irq := true, waiting := false, lag := s.naris.lag || s.naris.waiting } }))
  ∧ (∀ (x : XHdr) (y : Fin 64) (l : Fin 16) (dd : Fin 16) (sr : BitVec 8) (s : State), GoesX x s → x.ex = .sheave y l →
    exec (.srr x dd sr) s = .next (s.instrFault x.ex 0x07) ∧ exec (.srw x sr dd) s = .next (s.instrFault x.ex 0x07)
    ∧ exec (.eret x) s = .next (s.instrFault x.ex 0x07) ∧ exec (.wfi x) s = .next (s.instrFault x.ex 0x07)
    ∧ exec (.sync x) s = .next (s.instrFault x.ex 0x07))

/-- On a Sheave, when the instruction executes, no earlier write is pending and Ab is word aligned: at a staged register PUTD stores the data word and PUTQ the accumulator with its attributes; at a starting register the PUT does what the command of that register does; a GETD or GETQ of a result register leaves one write pending after the register's delay, two slots for cipher, hash, GHASH, check-value, BNE and Cleat results, one for a sequencer word and RSTAT, and nothing else changes; what it reads is what is readable in its own cycle. RESULT_X appends its block to the key that RESULT of the pair gave. A RAND or RANDQ read takes the oldest 4 or 16 bytes of the rill buffer after four or eight slots, or reads zero with VALID 0; KRANDQ gives 16 sealed bytes of the partition's rill. A misaligned Ab is MISALIGNED; an address that names no register, a result register written, or a staged register read is ADDR_CLASS. -/
def Obligations.PutStagesOrStartsAndGetReadsResults : Prop :=
  ∀ (x : XHdr) (y : Fin 64) (l : Fin 16) (rn : Fin 16) (qn : Fin 4) (ab : Fin 8) (off : BitVec 12) (s : State), PortGoes x y l s →
    let u := s.cpu x.ex
    let at' := (u.ar ab).toNat + 4 * off.toNat
    let p := (s.sheave y l).port
    let fault (c : Nat) : Result := .next (s.instrFault x.ex c)
    ((u.ar ab).toNat % 4 ≠ 0 → exec (.putd x rn ab off) s = fault 0x05 ∧ exec (.putq x qn ab off) s = fault 0x05
      ∧ exec (.getd x rn ab off) s = fault 0x05 ∧ exec (.getq x qn ab off) s = fault 0x05)
    ∧ ((u.ar ab).toNat % 4 = 0 →
      (portReg at' = none → exec (.putd x rn ab off) s = fault 0x03 ∧ exec (.putq x qn ab off) s = fault 0x03
        ∧ exec (.getd x rn ab off) s = fault 0x03 ∧ exec (.getq x qn ab off) s = fault 0x03)
      ∧ (∀ o, portReg at' = some (.stD o) →
        exec (.putd x rn ab off) s = stepCpu (s.updPort y l fun p => { p with w := SMap.put 0 p.w o (u.dr rn) }) x.ex 1 id
        ∧ exec (.getd x rn ab off) s = fault 0x03)
      ∧ (∀ o so key, portReg at' = some (.stQ o so key) → ((u.qr qn).sealed = true → so = true) → (key = true → (u.qr qn).key = true) →
        exec (.putq x qn ab off) s = stepCpu (s.updPort y l fun p => { p with q := SMap.put {} p.q o (u.qr qn) }) x.ex 1 id)
      ∧ (∀ o so, portReg at' = some (.stQ o so true) → (u.qr qn).sealed = false → (u.qr qn).key = false →
        exec (.putq x qn ab off) s = fault 0x0A)
      ∧ (∀ v : Fin 32, (at' = 0xF00040 + v * 0x100 → exec (.putd x rn ab off) s = exec (.macStart x v rn) s)
        ∧ (at' = 0xF00020 + v * 0x100 → exec (.putq x qn ab off) s = exec (.enc x v qn) s)
        ∧ (at' = 0xF00030 + v * 0x100 → exec (.putq x qn ab off) s = exec (.dec x v qn) s)
        ∧ (at' = 0xF00050 + v * 0x100 → exec (.putq x qn ab off) s = exec (.macBlk x v qn) s)
        ∧ (at' = 0xF00060 + v * 0x100 → exec (.putq x qn ab off) s = exec (.macLast x v qn) s)
        ∧ (at' = 0xF00070 + v * 0x100 → exec (.putq x qn ab off) s = exec (.macLastp x v qn) s)
        ∧ (at' = 0xF10050 + v * 0x100 → exec (.putd x rn ab off) s = exec (.pinFormatGo x v rn) s)
        ∧ (at' = 0xF24040 + v * 0x100 → exec (.putd x rn ab off) s = exec (.hashFinal x true (v.castLE (by decide)) rn) s)
        ∧ (at' = 0xF00090 + v * 0x100 →
          let old := u.qr qn
          let r := shownAcc p u.cyc (v.val * 0x100 + 0x90)
          ∀ a b : Origin, old.org = some a → r.org = some b → a.pair = v.val → b.pair = v.val → a.serial < b.serial → a.tdes = b.tdes → old.key = true →
            r.key = true → old.len = 16 →
            exec (.getq x qn ab off) s = delayed s x.ex 2 (.q qn (if a.tdes then { old with ext := bytesQuad ((quadBytes r.val).take 8), len := 24 }
              else { old with ext := r.val, len := 32 }))))
      ∧ (∀ v : Fin 64, at' = 0xF20040 + v * 0x100 → exec (.putd x rn ab off) s = exec (.hashFinal x false v rn) s)
      ∧ (at' = 0xF30010 → exec (.putd x rn ab off) s = exec (.ghInit x rn) s)
      ∧ (at' = 0xF30020 → exec (.putq x qn ab off) s = exec (.ghX x qn) s)
      ∧ (at' = 0xF60040 → exec (.putd x rn ab off) s = exec (.ghFold x rn) s)
      ∧ (at' = 0xF60060 → exec (.putd x rn ab off) s = exec (.cvuCmp x rn) s)
      ∧ (at' = 0xF60030 → exec (.putq x qn ab off) s = stepCpu (s.updPort y l fun p => { p with dataq := some (u.qr qn) }) x.ex 1 id)
      ∧ (∀ o, portReg at' = some (.resD o) → exec (.getd x rn ab off) s = delayed s x.ex 2 (.d rn (shownWord p u.cyc o))
        ∧ exec (.putd x rn ab off) s = fault 0x03)
      ∧ (∀ o, portReg at' = some (.resQ o) → exec (.getq x qn ab off) s = delayed s x.ex 2 (.q qn (shownAcc p u.cyc o))
        ∧ exec (.putq x qn ab off) s = fault 0x03)
      ∧ (at' = 0xF30030 → exec (.getq x qn ab off) s = delayed s x.ex 2 (.q qn { val := p.ghRead u.cyc }))
      ∧ (at' = 0xF60070 → exec (.getd x rn ab off) s = delayed s x.ex 2 (.d rn (BitVec.ofNat 32 (p.cvuRead u.cyc))))
      ∧ (at' = 0xF60074 → exec (.getd x rn ab off) s = delayed s x.ex 2 (.d rn (BitVec.ofNat 32 (p.cvuRead u.cyc / 2 ^ 32))))
      ∧ (at' = 0xF70030 → exec (.getd x rn ab off) s = delayed s x.ex 1 (.d rn (BitVec.ofNat 32
          ((if s.spring.seedReady then 2 else 0) + (shownWord p u.cyc 0x70030).toNat))))
      ∧ (∀ i, s.item (s.sheave y l).item = some i →
        (at' = 0xF80000 → exec (.getd x rn ab off) s = delayed s x.ex 1 (.d rn (BitVec.ofNat 32 i.frameNo)))
        ∧ (at' = 0xF80004 → exec (.getd x rn ab off) s = delayed s x.ex 1 (.d rn (BitVec.ofNat 32 i.frames)))
        ∧ (at' = 0xF80008 → exec (.getd x rn ab off) s = delayed s x.ex 1 (.d rn (BitVec.ofNat 32 i.inLen)))
        ∧ (at' = 0xF80014 → exec (.getd x rn ab off) s = delayed s x.ex 1 (.d rn (BitVec.ofNat 32 (5 * u.cyc / 4))))
        ∧ (∀ k : Nat, k < 16 → at' = 0xF80040 + 4 * k → exec (.getd x rn ab off) s = delayed s x.ex 1 (.d rn (i.desc.getD k 0)))
        ∧ (at' = 0xF70020 → s.rillServes i.part = true → ∃ t, exec (.getq x qn ab off) s = .next t
          ∧ (t.cpu x.ex).pend = [due (u.cyc + 9) (.q qn { val := bytesQuad (randBytes s.free 16), sealed := true })]
          ∧ t.free = s.free + 1 ∧ SMap.get 0 (t.sheave y l).port.w 0x70030 = 1))
      ∧ (∀ b : List Byte, SMap.get [] s.spring.rillBuf (y.val * 16 + l.val) = b → s.rillRefuses (256 + y.val) = false →
        (at' = 0xF70000 → ∃ t, exec (.getd x rn ab off) s = .next t
          ∧ (t.cpu x.ex).pend = [due (u.cyc + 5) (.d rn (if 4 ≤ b.length then BitVec.ofNat 32 (leNat (b.take 4)) else 0))]
          ∧ SMap.get [] t.spring.rillBuf (y.val * 16 + l.val) = (if 4 ≤ b.length then b.drop 4 else b)
          ∧ SMap.get 0 (t.sheave y l).port.w 0x70030 = (if 4 ≤ b.length then 1 else 0))
        ∧ (at' = 0xF70010 → ∃ t, exec (.getq x qn ab off) s = .next t
          ∧ (t.cpu x.ex).pend = [due (u.cyc + 9) (.q qn { val := if 16 ≤ b.length then bytesQuad (b.take 16) else bytesQuad (List.replicate 16 0) })]
          ∧ SMap.get [] t.spring.rillBuf (y.val * 16 + l.val) = (if 16 ≤ b.length then b.drop 16 else b))))

/-- On a Sheave with a ready pair and a staged AES key of usage data-encipher, data-decipher or PIN, ENC and DEC start at once, take 12, 14 or 16 fabric cycles for a key of 128, 192 or 256 bits, give the enciphered or deciphered block unit time + 4 later, sealed if the operand was sealed or the key is a PIN key, and count one block; nothing else changes. Under a derive key ENC gives a sealed key of 16 bytes with the staged usage. A TDES key takes 50 cycles on the low 8 bytes, and a derivation under it 50 cycles for each half. A key that the operation may not use counts a mismatch and gives a sealed zero and KEY_USAGE. Without the window the fault is PORT_TIMEOUT. CIPHER_RESULT of the pair's earliest result gives the registers to the Sheave, readable from cycle 0.8 × r on, while the sequencer accepts the tag, and otherwise counts STALE_CNT; after a mismatch of its check the register gets a sealed zero and the pair's mismatch counts. -/
def Obligations.CipherBlocksReachTheirResultRegister : Prop :=
  (∀ (x : XHdr) (y : Fin 64) (l : Fin 16) (u : Fin 32) (qn : Fin 4) (s : State), PortGoes x y l s →
    let k := (s.sheave y l).port.acc (u * 0x100)
    let v := (s.cpu x.ex).qr qn
    let res := u.val * 0x100 + 0x80
    (∀ use, AesKey k use → PairReady s y l u (aesTime k) →
      let gives (i : Instr) (bs : List Byte) : Prop := Launched i x s blockCount fun f t =>
        CipherFlight s y l u (aesTime k) (aesTime k + 4) [(res, { val := bytesQuad (fitBytes 16 bs), sealed := v.sealed || use == 3 })] f
        ∧ reg64 t Reg.CIPHER.BLOCK_CNT_LO Reg.CIPHER.BLOCK_CNT_HI = (reg64 s Reg.CIPHER.BLOCK_CNT_LO Reg.CIPHER.BLOCK_CNT_HI + 1) % 2 ^ 64
      (use = 0 ∨ use = 3 → gives (.enc x u qn) (aesEnc k.keyBytes (quadBytes v.val)))
      ∧ (use = 1 ∨ use = 3 → gives (.dec x u qn) (aesDec k.keyBytes (quadBytes v.val)))
      ∧ (use = 4 → Launched (.enc x u qn) x s blockCount fun f t => ∃ d : Acc,
          CipherFlight s y l u (aesTime k) (aesTime k + 4) [(res, d), (res + 0x10, d)] f ∧ t.serial = s.serial + 1
          ∧ d.val = bytesQuad (aesEnc k.keyBytes (quadBytes v.val)) ∧ d.sealed = true ∧ d.key = true ∧ d.alg = .aes ∧ d.len = 16
          ∧ d.usage = (let w := ((s.sheave y l).port.word (u * 0x100 + 0x10)) % 8
              if w ≤ 4 then some w else none)))
    ∧ (∀ use, k.key = true → k.alg = .tdes → k.usage = some use →
        let gives (i : Instr) (bs : List Byte) : Prop := Launched i x s blockCount fun f _ => CipherFlight s y l u 50 54
          [(res, { val := bytesQuad (fitBytes 16 bs), sealed := v.sealed || use == 3 })] f
        (use = 0 ∨ use = 3 → PairReady s y l u 50 → gives (.enc x u qn) (tdesEnc k.keyBytes ((quadBytes v.val).take 8)))
        ∧ (use = 1 ∨ use = 3 → PairReady s y l u 50 → gives (.dec x u qn) (tdesDec k.keyBytes ((quadBytes v.val).take 8)))
        ∧ (use = 4 → PairReady s y l u 100 → Launched (.enc x u qn) x s blockCount fun f _ => ∃ d : Acc,
            CipherFlight s y l u 100 54 [(res, d), (res + 0x10, d)] f ∧ d.sealed = true ∧ d.key = true ∧ d.alg = .tdes ∧ d.len = 16
            ∧ d.val = bytesQuad (tdesEnc k.keyBytes ((quadBytes v.val).take 8) ++ tdesEnc k.keyBytes ((quadBytes v.val).drop 8))))
    ∧ (k.key = false → PairReady s y l u (if k.alg = .aes then aesTime k else 12) → k.alg ≠ .tdes → (k.alg = .aes → k.len = 16 ∨ k.len = 24 ∨ k.len = 32) →
        ∃ t f, exec (.enc x u qn) s = .next t ∧ t.flights = s.flights ++ [f] ∧ f.q = [(res, sealedZero)] ∧ f.latch = [0x08]
          ∧ t.reg Reg.CIPHER.USAGE_MISMATCH_CNT = (s.reg Reg.CIPHER.USAGE_MISMATCH_CNT + 1) % 2 ^ 32)
    ∧ ((∀ d, s.window (s.sheave y l).slot 0 u 1 (fabricOf (s.sheave y l).cpu.cyc) d = false) → (∀ f ∈ s.flights, f.kind = .cipher → f.logic ≠ u) →
        exec (.enc x u qn) s = .next (s.instrFault x.ex 0x06) ∧ exec (.dec x u qn) s = .next (s.instrFault x.ex 0x06)))
  ∧ (∀ (u : Fin 32) (f : Flight) (rest : List Flight) (s : State), s.flights = f :: rest → ComesFirst f rest → f.kind = .cipher → f.logic = u →
    f.qd = none → f.latch = [] →
    (s.accepts f.tag f.r = true → ((s.item f.tag.item).map fun i => i.spoiled.contains u.val) = some false →
      exec (.cipherResult u 0) s = .next (resultDue { s with flights := rest } f f.q))
    ∧ (s.accepts f.tag f.r = true → ((s.item f.tag.item).map fun i => i.spoiled.contains u.val) = some true →
      exec (.cipherResult u 0) s = .next (resultDue { s with flights := rest } f
        (f.q.map fun (e : Nat × Acc) => (e.1, if e.1 = u.val * 0x100 + 0x80 ∨ e.1 = 0x10060 + u.val * 0x100 then sealedZero else {}))))
    ∧ (s.accepts f.tag f.r = false → ((s.item f.tag.item).map fun i => i.spoiled.contains u.val) ≠ some true →
      exec (.cipherResult u 0) s = .next ({ s with flights := rest }.inc (Reg.YARD.STALE_CNT f.tag.y)))
    ∧ (∀ i b, f.starts = [b] → s.item f.tag.item = some i → s.accepts f.tag f.r = true → ∃ t, exec (.cipherResult u 1) s = .next t ∧ t.flights = rest
      ∧ t.reg Reg.CIPHER.MISMATCH_CNT = (s.reg Reg.CIPHER.MISMATCH_CNT + 1) % 2 ^ 32 ∧ t.reg Reg.CIPHER.LF_CODE = 0x40
      ∧ (t.item f.tag.item).map Item.spoiled = some (i.spoiled ++ [u.val])
      ∧ (f.q.map Prod.fst = [u.val * 0x100 + 0x80] → (t.sheave f.tag.y f.tag.l).port.due = (s.sheave f.tag.y f.tag.l).port.due
          ++ [{ cyc := (4 * f.r + 4) / 5, q := [(u.val * 0x100 + 0x80, sealedZero)], w := f.w }])))

/-- On a Sheave with a ready pair and a staged AES or TDES MAC key: MAC_START with mode 0 or 2, or with mode 1 under a TDES key of two parts, opens the chain of the slot on the pair with a zero chaining value; MAC_BLK replaces the value by the cipher of value XOR block, in mode 1 by single DES under the first part, and gives no result; MAC_LAST and MAC_LASTP do the same under the whole key, with the CMAC subkey of a complete or of a padded block in mode 2, close the chain and give the value in RESULT unsealed. Each counts one block. A chain operation without an open chain counts a mismatch; the last of a chain then gives a sealed zero and KEY_USAGE. PIN_FORMAT_GO among formats 0, 1, 3 and 4 takes the PIN out of the deciphered block in BLK, with PAN_IN where the format has one, and enciphers the field of the output format, with PAN_OUT, under the staged PIN key, or reports STATUS 1 for a malformed field. -/
def Obligations.MacChainsRunBlockByBlock : Prop :=
  ∀ (x : XHdr) (y : Fin 64) (l : Fin 16) (u : Fin 32) (qn : Fin 4) (dn : Fin 16) (s : State), PortGoes x y l s →
    let p := (s.sheave y l).port
    let k := p.acc (u * 0x100)
    let blk := quadBytes ((s.cpu x.ex).qr qn).val
    let res := u.val * 0x100 + 0x80
    let ck := chainKey u (s.sheave y l).slot
    (MacKey k → PairReady s y l u (macTime k) →
      let flight (q : List (Nat × Acc)) (f : Flight) : Prop := CipherFlight s y l u (macTime k) (macTime k + 4) q f
      let n : Nat := if k.alg = .tdes then 8 else 16
      let enc (b : List Byte) : List Byte := if k.alg = .tdes then tdesEnc k.keyBytes (b.take 8) else aesEnc k.keyBytes b
      let mode := ((s.cpu x.ex).dr dn).toNat % 4
      (mode = 0 ∨ mode = 2 ∨ (mode = 1 ∧ k.alg = .tdes ∧ k.len = 16) → Launched (.macStart x u dn) x s blockCount fun f t => flight [] f
        ∧ ∃ c : MacChain, SMap.get none t.macs ck = some c ∧ c.mode = mode ∧ c.key = k ∧ c.cv = List.replicate n 0 ∧ c.bad = false ∧ c.spoilt = false
          ∧ (mode = 2 → c.k1 = cmacDouble (enc (List.replicate 16 0)) ∧ c.k2 = cmacDouble c.k1))
      ∧ (∀ c : MacChain, SMap.get none s.macs ck = some c → c.key = k → c.bad = false → c.spoilt = false →
        let inp (sub : List Byte) : List Byte := if c.mode = 2 then xorBytes (xorBytes c.cv (blk.take n)) sub else xorBytes c.cv (blk.take n)
        let last (i : Instr) (sub : List Byte) : Prop := Launched i x s blockCount fun f t =>
          flight [(res, { val := bytesQuad (fitBytes 16 (enc (inp sub))) })] f ∧ SMap.get none t.macs ck = none
        (Launched (.macBlk x u qn) x s blockCount fun f t => flight [] f ∧ SMap.get none t.macs ck
            = some { c with cv := if c.mode = 1 then desEnc (k.keyBytes.take 8) (xorBytes c.cv (blk.take n)) else enc (xorBytes c.cv (blk.take n)) })
        ∧ last (.macLast x u qn) c.k1 ∧ last (.macLastp x u qn) c.k2)
      ∧ (SMap.get none s.macs ck = none → ∃ t f, exec (.macLast x u qn) s = .next t ∧ t.flights = s.flights ++ [f]
        ∧ f.q = [(res, sealedZero)] ∧ f.latch = [0x08] ∧ t.reg Reg.CIPHER.USAGE_MISMATCH_CNT = (s.reg Reg.CIPHER.USAGE_MISMATCH_CNT + 1) % 2 ^ 32))
    ∧ (∀ fi fo : Nat,
      let b := 0x10000 + u.val * 0x100
      let pk := p.acc (b + 0x40)
      let kb := pk.keyBytes
      let block := quadBytes (p.acc (b + 0x30)).val
      let panOut := quadBytes (p.acc (b + 0x20)).val
      let field := if fi = 0 ∨ fi = 3 then xorBytes (block.take 8) ((quadBytes (p.acc (b + 0x10)).val).take 8) else block
      let occ := if fo = 4 then 3 * aesTime pk + 4 else 50
      let lag := if fo = 4 then aesTime pk + 4 else 54
      pk.key = true → pk.usage = some 3 → (if fo = 4 then AesKey pk 3 else pk.alg = .tdes) → fi ∈ [0, 1, 3, 4] → fo ∈ [0, 1, 3, 4] →
      p.word b % 256 = fi + 16 * fo → PairReady s y l u occ →
      let ends (q : Acc) (st : Word) : Prop := Launched (.pinFormatGo x u dn) x s blockCount fun f t =>
        f.q = [(b + 0x60, q)] ∧ f.w = [(b + 0x70, st)] ∧ f.start = fabricOf (s.sheave y l).cpu.cyc ∧ f.r = f.start + occ + lag ∧ t.free = s.free + 1
      (∀ pin, pinOf fi field = some pin →
        let out := pinField fo pin s.free
        ends { val := bytesQuad (if fo = 4 then aesEnc kb (xorBytes (aesEnc kb out) panOut)
          else fitBytes 16 (tdesEnc kb ((if fo = 1 then out else xorBytes out (panOut.take 8)).take 8))) } 0)
      ∧ (pinOf fi field = none → ends {} 1))

/-- On a Sheave whose slot has the core's window, FINAL with an unkeyed MODE that suits the core reads the message, from data RAM or the item's buffer where LEN is not 0, starts at once, occupies the core for its blocks, and gives the digest five cycles later, zero filled to 64 bytes; SHAKE gives the number of bytes written, up to 64. With MODE bit 4 and an HMAC key staged it gives the HMAC in three blocks more. Nothing else changes but the block counter. A misused FINAL, such as a MODE that the core does not run, marks the item with code 0x43, counts in MISUSE_CNT and gives a zero digest. Without the window the fault is PORT_TIMEOUT. HASH_RESULT of the core's earliest result gives the four result registers to the Sheave, readable from cycle 0.8 × r on; the first state-check failure of a unit gives zeros, counts, and marks the item with code 0x41 or 0x42, the unit and the cycle. -/
def Obligations.HashesReadTheirMessageAndDeliverTheDigest : Prop :=
  (∀ (x : XHdr) (y : Fin 64) (l : Fin 16) (sha2 : Bool) (u : Fin 64) (dn : Fin 16) (s : State), PortGoes x y l s → (sha2 = true → u.val < 32) →
    let p := (s.sheave y l).port
    let base := hashBase sha2 u
    let mode := p.word base
    let src := p.word (base + 0x10)
    let len := p.word (base + 0x20)
    let out := ((s.cpu x.ex).dr dn).toNat % 128
    let a := fabricOf (s.cpu x.ex).cyc
    let kind : Nat := if sha2 then 2 else 1
    let reads (msg : List Byte) : Prop := (len = 0 ∧ msg = []) ∨ (len ≠ 0 ∧ ∃ d, OwnBytes s y l src len d msg)
    let counts : List Field := [Reg.HASH.PERM_CNT_LO, Reg.HASH.PERM_CNT_HI, Reg.HASH.COMP_CNT_LO, Reg.HASH.COMP_CNT_HI]
    (∀ occ d msg, finalOf (mode % 16) len msg out = some (sha2, occ, d) → mode / 16 % 2 = 0 → reads msg →
      s.window (s.sheave y l).slot kind u 1 a (a + occ) = true → Launched (.hashFinal x sha2 u dn) x s counts fun f _ =>
        f.start = a ∧ f.stop = a + occ ∧ f.r = a + occ + 5 ∧ f.tag = s.tagOf y l ∧ f.latch = [] ∧ f.q = digestQ base d)
    ∧ (∀ (h : HashFn) (msg : List Byte),
      let key := p.acc (base + 0x30)
      hashFn (mode % 16) = some h → h.sha2 = sha2 → h.shake = false → mode / 16 % 2 = 1 → key.key = true → key.usage = some 2 → reads msg → s.rillServes 320 = true →
      let occ := h.t * ((len + h.pad) / h.block + 4)
      s.window (s.sheave y l).slot kind u 1 a (a + occ) = true → Launched (.hashFinal x sha2 u dn) x s (counts ++ blockCount) fun f _ =>
        f.start = a ∧ f.r = a + occ + 5 ∧ f.latch = [] ∧ f.q = digestQ base (hmac (h.run 0) h.block key.keyBytes msg))
    ∧ (hashMisuse (hashFn (mode % 16)) sha2 (bitOf mode 4) (p.acc (base + 0x30)) out = true →
      s.window (s.sheave y l).slot kind u 1 a (a + (if sha2 then 64 else 24)) = true →
      ∃ t f, exec (.hashFinal x sha2 u dn) s = .next t ∧ t.flights = s.flights ++ [f] ∧ f.q = digestQ base []
        ∧ t.reg Reg.HASH.MISUSE_CNT = (s.reg Reg.HASH.MISUSE_CNT + 1) % 2 ^ 32 ∧ t.reg Reg.HASH.LF_CODE = 0x43)
    ∧ ((∀ b, s.window (s.sheave y l).slot kind u 1 a b = false) → (∃ msg, reads msg) →
        exec (.hashFinal x sha2 u dn) s = .next (s.instrFault x.ex 0x06))
    ∧ (∀ v : Fin 64, 32 ≤ v.val → exec (.hashFinal x true v dn) s = .next (s.instrFault x.ex 0x03)))
  ∧ (∀ (sha2 : Bool) (u : Fin 64) (f : Flight) (rest : List Flight) (d : List Byte) (bad : Nat) (s : State), s.flights = f :: rest → ComesFirst f rest →
    f.kind = (if sha2 then .sha2 else .keccak) → f.logic = u → f.q = digestQ (hashBase sha2 u) d → f.w = [] → f.latch = [] → f.qd = none →
    s.accepts f.tag f.r = true →
    exec (.hashResult sha2 u none) s = .next (resultDue { s with flights := rest } f f.q)
    ∧ (∀ i : Item, s.item f.tag.item = some i → i.ufault = none → bad < s.egressAt f.tag.slot →
      let kind : Nat := if sha2 then 2 else 1
      SMap.get [] (s.pool kind).faultFrames (f.phys.headD 0) = [] →
      ∃ t, exec (.hashResult sha2 u (some bad)) s = .next t ∧ t.flights = rest
        ∧ t.reg Reg.HASH.STATE_FAULT_CNT = (s.reg Reg.HASH.STATE_FAULT_CNT + 1) % 2 ^ 32
        ∧ t.reg Reg.HASH.LF_CODE = (if sha2 then 0x42 else 0x41)
        ∧ ((t.item f.tag.item).bind Item.ufault).map Prod.snd
            = some ([BitVec.ofNat 8 (if sha2 then 0x42 else 0x41), 3, BitVec.ofNat 8 (f.phys.headD 0), BitVec.ofNat 8 kind] ++ leBytes 2 bad ++ [0, 0])
        ∧ (t.sheave f.tag.y f.tag.l).port.due = (s.sheave f.tag.y f.tag.l).port.due ++ [{ cyc := (4 * f.r + 4) / 5, q := digestQ (hashBase sha2 u) [], w := [] }]))

/-- On a Sheave, when the instruction executes and no earlier write is pending: INIT makes Y zero and X makes it (Y XOR X) · H under the staged H, both readable 16 fabric cycles later; an X within 13 Sheave cycles of the last is PORT_TIMEOUT and a sealed X SEALED. FOLD of a word computes the staged polynomial's CRC over the SRC payload in data RAM or the item's buffer, then DATAQ, then the word, readable after the time of Table 3.12, zero when DATAQ was sealed, and takes DATAQ. CMP leaves pending, for when the last value is readable, M = the value equals the low bits of the expected one; the other flags stay. -/
def Obligations.GhashAndCheckValuesFollowTheirInputs : Prop :=
  ∀ (x : XHdr) (y : Fin 64) (l : Fin 16) (qn : Fin 4) (dn : Fin 16) (s : State), PortGoes x y l s →
    let u := s.cpu x.ex
    let p := (s.sheave y l).port
    let a := fabricOf u.cyc
    let ends (t : State) (q : PortIf) : Prop := t = (advanced s x.ex 1).updPort y l fun _ => q
    (∃ t q, exec (.ghInit x dn) s = .next t ∧ ends t q ∧ q = { p with gh := q.gh } ∧ q.gh.head? = some (a + 16, 0))
    ∧ ((u.qr qn).sealed = false → (∀ c, p.ghLast = some c → c + 13 ≤ u.cyc) →
      ∃ t q, exec (.ghX x qn) s = .next t ∧ ends t q ∧ q = { p with gh := q.gh, ghLast := some u.cyc }
        ∧ q.gh.head? = some (a + 16, bytesQuad (ghashStep (quadBytes (p.acc 0x30000).val) (quadBytes ((p.gh.map Prod.snd).headD 0)) (quadBytes (u.qr qn).val))))
    ∧ ((u.qr qn).sealed = true → exec (.ghX x qn) s = .next (s.instrFault x.ex 0x02))
    ∧ (∀ c, (u.qr qn).sealed = false → p.ghLast = some c → u.cyc < c + 13 → exec (.ghX x qn) s = .next (s.instrFault x.ex 0x06))
    ∧ (let len := p.word 0x60020
      let src := p.word 0x60010
      let par := crcPar (p.word 0x60000 % 4)
      ∀ msg, ((len = 0 ∧ msg = []) ∨ (len ≠ 0 ∧ ∃ d, OwnBytes s y l src len d msg)) →
      let bs := msg ++ (match p.dataq with
          | some q => quadBytes q.val
          | none => [])
      ∃ t q v, exec (.ghFold x dn) s = .next t ∧ ends t q ∧ q = { p with dataq := none, cvu := q.cvu } ∧ q.cvu.head? = some v
        ∧ v.val = crc par (bs ++ leBytes 4 (u.dr dn).toNat) ∧ v.w = par.w ∧ v.sec = (p.dataq.map Acc.sealed == some true)
        ∧ v.r = a + (bs.length + 4 + 15) / 16 + 5)
    ∧ (∀ (v : CvuOut) (vs : List CvuOut), p.cvu = v :: vs →
      let m := decide (v.val = (p.word 0x60050 + 2 ^ 32 * p.word 0x60054) % 2 ^ v.w)
      ∃ t d, exec (.cvuCmp x dn) s = .next t ∧ t = s.setCpu x.ex (t.cpu x.ex) ∧ d = (4 * max v.r (a + 1) + 4) / 5
        ∧ (t.cpu x.ex).cyc = u.cyc + 1 ∧ (t.cpu x.ex).pc = u.pc + 4
        ∧ ((d = u.cyc + 1 ∧ (t.cpu x.ex).fl = { u.fl with m := m })
          ∨ (u.cyc + 1 < d ∧ (t.cpu x.ex).pend = [due d (.fl none none none none (some m))] ∧ (t.cpu x.ex).fl = u.fl)))

/-- On a Sheave whose slot has the Cleat window, QKEY starts a request of 60 fabric cycles for the handle in Dh and the USE, and changes nothing else; without the window it is PORT_TIMEOUT, and a USE above 4 is ILLEGAL. At QKEY_RESULT of the earliest request, when accepted: a handle that names an unexpired entry of the item's partition without a limit, whose usage allows the USE and whose material an accumulator holds, counts the use and the grant and fills the accumulator with the material, sealed, with KEY, algorithm, length and the USE; a handle that names nothing counts ABSENT_CNT, and a USE that the entry does not allow USAGE_CNT; both fill it with a sealed zero and latch KEY_ABSENT or KEY_USAGE for the item. -/
def Obligations.CleatReadsGrantOrRefuse : Prop :=
  (∀ (x : XHdr) (y : Fin 64) (l : Fin 16) (qd : Fin 4) (dh : Fin 16) (use : BitVec 4) (s : State), PortGoes x y l s → 4 < use.toNat →
    exec (.qkey x qd dh use) s = .next (s.instrFault x.ex 0x01))
  ∧ (∀ (x : XHdr) (y : Fin 64) (l : Fin 16) (qd : Fin 4) (dh : Fin 16) (use : BitVec 4) (s : State), PortGoes x y l s → use.toNat ≤ 4 →
    let a := fabricOf (s.cpu x.ex).cyc
    (s.window (s.sheave y l).slot 5 0 1 a (a + 60) = true → Launched (.qkey x qd dh use) x s [] fun f _ =>
      f.kind = .cleat ∧ f.tag = s.tagOf y l ∧ f.r = a + 60 ∧ f.qd = some (qd, {}) ∧ f.args = [((s.cpu x.ex).dr dh).toNat, use.toNat])
    ∧ (s.window (s.sheave y l).slot 5 0 1 a (a + 60) = false → exec (.qkey x qd dh use) s = .next (s.instrFault x.ex 0x06)))
  ∧ (∀ (f : Flight) (rest : List Flight) (qd : Fin 4) (handle use row : Nat) (e : Entry) (i : Item) (s : State),
    s.flights = f :: rest → ComesFirst f rest → f.kind = .cleat → f.logic = 0 → f.qd = some (qd, {}) → f.args = [handle, use] → s.accepts f.tag f.r = true →
    s.item f.tag.item = some i → i.latch = none → f.tag.y < 64 → f.tag.l < 16 →
    let old := s.sheave f.tag.y f.tag.l
    old.cpu.pend = [] → sheaveOf f.r ≤ old.cpu.cyc →
    let fills (t : State) (v : Acc) : Prop := (t.sheave f.tag.y f.tag.l).cpu = withQ qd { v with sealed := true } old.cpu ∧ t.flights = rest
    (s.named handle = some (row, e) → e.part = f.tag.part → e.system = false → s.cleat.ready = true → (s.part f.tag.part).st ≠ .exported →
      (e.notAfter = 0 ∨ s.frame.no ≤ e.notAfter) →
      (use ≤ 4 → bitOf e.usage use = true → (e.alg ∈ [1, 2, 3, 4, 5] ∨ (e.alg = 8 ∧ use = 2)) → e.useLimit = 0 → ∃ t, exec (.qkeyResult false) s = .next t
        ∧ fills t { val := bytesQuad e.material, ext := bytesQuad (e.material.drop 16), key := true, alg := keyAlg e.alg, len := e.klen, usage := some use }
        ∧ t.entry row = some { e with useCount := min (2 ^ 32 - 1) (e.useCount + 1) }
        ∧ reg64 t Reg.CLEAT0.GRANT_CNT_LO Reg.CLEAT0.GRANT_CNT_HI = (reg64 s Reg.CLEAT0.GRANT_CNT_LO Reg.CLEAT0.GRANT_CNT_HI + 1) % 2 ^ 64
        ∧ (t.sheave f.tag.y f.tag.l).port.due = old.port.due
            ++ [{ cyc := (4 * f.r + 4) / 5, q := f.q, w := [(0x50000, BitVec.ofNat 32 (e.usage * 2 ^ 16 + e.klen * 2 ^ 8 + e.alg))] }])
      ∧ (use ≤ 4 → bitOf e.usage use = false → ∃ t, exec (.qkeyResult false) s = .next t ∧ fills t { key := true } ∧ t.cleat = s.cleat
        ∧ t.reg Reg.CLEAT0.USAGE_CNT = (s.reg Reg.CLEAT0.USAGE_CNT + 1) % 2 ^ 32
        ∧ (t.item f.tag.item).bind Item.latch = some (s.quarter (4 * f.r), 0x08)))
    ∧ (s.named handle = none → ∃ t, exec (.qkeyResult false) s = .next t ∧ fills t { key := true } ∧ t.cleat = s.cleat
        ∧ t.reg Reg.CLEAT0.ABSENT_CNT = (s.reg Reg.CLEAT0.ABSENT_CNT + 1) % 2 ^ 32
        ∧ (t.item f.tag.item).bind Item.latch = some (s.quarter (4 * f.r), 0x09)))

/-- For every modulus above 1: the power that MODEXP, RSA and the curves use is the power of the integers reduced; the difference is the difference reduced; an inverse is answered exactly where the operand has one, lies below the modulus, and its product with the operand is 1 modulo the modulus. -/
def Obligations.ModularFunctionsAreExact : Prop :=
  ∀ n a b e : Nat, 1 < n → modPow n a e = a ^ e % n ∧ ((modSub n a b : Nat) : Int) = ((a : Int) - b) % n
    ∧ (∀ r, modInv n a = some r → r < n ∧ r * a % n = 1) ∧ (Nat.gcd a n = 1 → (modInv n a).isSome = true)

/-- For a command that runs without misuse: MODADD, MODSUB and MODMUL give the sum, difference and product of operands below an odd modulus of 3 or more, MODINV the inverse, MODEXP over all its windows the power and over a stretch of them the running power, with the table of powers at the first, RSA_PUB the power of the buffer's number, RSA_HALF the like for the message modulo p or q, and RSA_FINISH recombines the halves and gives the number where its power is the message and SIG_FAULT otherwise. An even modulus or an operand not below it is INPUT_RANGE, an operand without an inverse or a zero message INPUT_ZERO, with zeroed outputs. A command that is misused occupies its lanes for 8 cycles, marks its item and ends with code 0x14; one that starts while another is in progress marks the item and starts nothing. -/
def Obligations.ModularAndRsaCommandsComputeTheirNumbers : Prop :=
  (∀ (x : XHdr) (y : Fin 64) (l : Fin 16) (c : BneCmd) (i : Item) (sh : Shape) (d : Fin 16) (s : State),
    let v (k : Nat) : Nat := (operands s i sh).getD k 0
    let m := bufNat c.le (bufIn s y i sh)
    let bytes (k : Nat) : List Byte := natBuf c.le (8 * c.dom) k
    let runs (op : Nat) : Prop := BneRuns x y l op c i sh s
    let gives (j : Instr) (op code : Nat) (outs : List Nat) (buf : List Byte) : Prop := BneGives j x y l op c i sh s code outs buf
    let w := if digits (64 * c.dom) ≤ 8 then 4 else 6
    let win := ceilDiv (64 * c.dom) w
    let part (e : Nat) : Nat := e / 2 ^ (w * (win - c.firstWin - c.nWin)) % 2 ^ (w * c.nWin)
    let table (n base : Nat) : List Nat := (List.range (2 ^ w)).map (modPow n base)
    let cont (n base e run : Nat) : Nat := modPow n run (2 ^ (w * c.nWin)) * modPow n base (part e) % n
    let odd (n : Nat) : Prop := n % 2 = 1 ∧ 3 ≤ n
    (odd (v 2) → v 0 < v 2 → v 1 < v 2 →
      (runs 0x10 → gives (.modadd x d) 0x10 0 [(v 0 + v 1) % v 2] [])
      ∧ (runs 0x11 → gives (.modsub x d) 0x11 0 [(v 0 + v 2 - v 1) % v 2] [])
      ∧ (runs 0x12 → gives (.modmul x d) 0x12 0 [v 0 * v 1 % v 2] []))
    ∧ (v 2 % 2 = 0 ∨ v 2 < 3 ∨ v 2 ≤ v 0 ∨ v 2 ≤ v 1 → (runs 0x10 → gives (.modadd x d) 0x10 0x0B [] [])
      ∧ (runs 0x11 → gives (.modsub x d) 0x11 0x0B [] []) ∧ (runs 0x12 → gives (.modmul x d) 0x12 0x0B [] []))
    ∧ (runs 0x13 → odd (v 1) → v 0 < v 1 → (∀ r, 0 < v 0 → modInv (v 1) (v 0) = some r → gives (.modinv x d) 0x13 0 [r] [])
      ∧ (v 0 = 0 ∨ modInv (v 1) (v 0) = none → gives (.modinv x d) 0x13 0x0A [] []))
    ∧ (runs 0x14 → odd (v 2) → v 0 < v 2 → 0 < v 1 →
      (c.firstWin = 0 → c.nWin = win → gives (.modexp x d) 0x14 0 (modPow (v 2) (v 0) (v 1) :: table (v 2) (v 0)) [])
      ∧ (c.firstWin = 0 → 0 < v 0 → gives (.modexp x d) 0x14 0 (modPow (v 2) (v 0) (part (v 1)) :: table (v 2) (v 0)) [])
      ∧ (c.firstWin ≠ 0 → gives (.modexp x d) 0x14 0 [if v 0 = 0 then 0 else cont (v 2) (v 0) (v 1) (v 3)] []))
    ∧ (runs 0x14 → odd (v 2) → v 0 < v 2 → v 1 = 0 → gives (.modexp x d) 0x14 0x0A [] [])
    ∧ (runs 0x20 → odd (v 0) → m < v 0 → 0 < m → 0 < v 1 → v 1 < 2 ^ 17 →
      gives (.rsaPub x d) 0x20 0 [modPow (v 0) m (v 1)] (bytes (modPow (v 0) m (v 1))))
    ∧ (runs 0x20 → m = 0 → odd (v 0) → 0 < v 1 → v 1 < 2 ^ 17 → gives (.rsaPub x d) 0x20 0x0A [] [])
    ∧ (runs 0x20 → (v 0 % 2 = 0 ∨ v 0 ≤ m ∨ v 1 = 0 ∨ 2 ^ 17 ≤ v 1) → gives (.rsaPub x d) 0x20 0x0B [] [])
    ∧ (runs 0x21 → odd (v 0) → odd (v 1) →
      let p := if c.halfQ then v 1 else v 0
      let e := if c.halfQ then v 3 else v 2
      (c.firstWin = 0 → gives (.rsaHalf x d) 0x21 0 (modPow p (m % p) (part e) :: table p (m % p)) [])
      ∧ (c.firstWin ≠ 0 → gives (.rsaHalf x d) 0x21 0 [cont p (m % p) e (v 5)] []))
    ∧ (runs 0x22 → odd (v 0) → odd (v 1) → 0 < m → m < v 0 * v 1 → 0 < v 5 → v 5 < 2 ^ 17 →
      let r := (v 7 + (v 4 * modSub (v 0) (v 6) (v 7) % v 0) * v 1) % 2 ^ (64 * c.dom)
      (modPow (v 0 * v 1) r (v 5) = m → gives (.rsaFinish x d) 0x22 0 [r] (bytes r))
      ∧ (modPow (v 0 * v 1) r (v 5) ≠ m → gives (.rsaFinish x d) 0x22 0x0D [] []))
    ∧ (runs 0x22 → (v 0 % 2 = 0 ∨ v 1 % 2 = 0 ∨ v 0 * v 1 ≤ m ∨ v 5 = 0 ∨ 2 ^ 17 ≤ v 5) → gives (.rsaFinish x d) 0x22 0x0B [] []))
  ∧ (∀ (x : XHdr) (y : Fin 64) (l : Fin 16) (d : Fin 16) (i : Item) (s : State), PortGoes x y l s → s.item (s.sheave y l).item = some i →
    let a := fabricOf (s.cpu x.ex).cyc
    let c := (s.sheave y l).port.bneCmd (some 0x10)
    (s.unitBusy y l a = false → c.dom = 0 → c.g = 1 → s.window (s.sheave y l).slot 3 c.lane 1 a (a + 8) = true → c.lane < 32 →
      ∃ t f, exec (.modadd x d) s = .next t ∧ t.flights = s.flights ++ [f] ∧ f.r = a + 12 ∧ f.code = 0x14 ∧ f.slots = [] ∧ f.bufs = []
        ∧ t.reg Reg.BNE.LF_CODE = 0x50)
    ∧ (s.unitBusy y l a = true → ∃ t, exec (.modadd x d) s = .next t ∧ t.flights = s.flights ∧ t.reg Reg.BNE.LF_CODE = 0x50))

/-- For a command that runs without misuse on the curve of its DOM: EC_KEYGEN gives a private number from fresh bytes and its public point; ECDSA_SIGN, for a private number and public point in range, signs with a nonce of RFC 6979 or a fresh one in [1, n − 1] and gives r and s where they are not zero and verify, SIG_FAULT otherwise; ECDSA_VERIFY answers OK or AUTH_FAIL; ECDH gives the x coordinate of the product; EC_PUBCHK answers OK, INPUT_RANGE or NOT_ON_CURVE, as the others do for a bad point. ED_KEYGEN, ED_SIGN and ED_VERIFY do the same for Ed25519 seeds, X_KEYGEN gives a fresh scalar and its public value, X25519 the shared value or INPUT_ZERO for zero. -/
def Obligations.CurveCommandsComputePointsAndSignatures : Prop :=
  ∀ (x : XHdr) (y : Fin 64) (l : Fin 16) (c : BneCmd) (i : Item) (sh : Shape) (d : Fin 16) (s : State),
    let v (k : Nat) : Nat := (operands s i sh).getD k 0
    let b := bufIn s y i sh
    let runs (op : Nat) : Prop := BneRuns x y l op c i sh s
    let gives (j : Instr) (op code : Nat) (outs : List Nat) (buf : List Byte) : Prop := BneGives j x y l op c i sh s code outs buf
    (∀ e : EcDom, ecDom c.dom = some e →
      let cv := e.c
      let num (k : Nat) : List Byte := natBuf c.le e.bytes k
      let dg := if c.le then b.reverse else b
      (runs 0x30 → ∃ k, let p := 1 + beNat (randBytes k ((e.bits + 64) / 8)) % (cv.n - 1)
        gives (.ecKeygen x d) 0x30 0 [p, xOf (cv.mulP p cv.g), yOf (cv.mulP p cv.g)] [])
      ∧ (runs 0x31 → 0 < v 0 → v 0 < cv.n → v 1 < cv.p → v 2 < cv.p → cv.on (v 1) (v 2) = true →
        let h := ecTrunc cv.n dg
        ∃ k, (c.det = true → k = (if e.bits = 256 then rfc6979 (hmac sha256 64) 32 cv.n (v 0) h else rfc6979 (hmac sha512 128) 64 cv.n (v 0) h))
          ∧ (c.det = false → 1 ≤ k ∧ k < cv.n)
          ∧ (let g := cv.sign (v 0) k h
            (g.1 ≠ 0 → g.2 ≠ 0 → cv.verify (v 1, v 2) h g.1 g.2 = true → gives (.ecdsaSign x d) 0x31 0 [g.1, g.2] (num g.1 ++ num g.2))
            ∧ (g.1 = 0 ∨ g.2 = 0 ∨ cv.verify (v 1, v 2) h g.1 g.2 = false → gives (.ecdsaSign x d) 0x31 0x0D [] [])))
      ∧ (runs 0x31 → v 0 = 0 → v 1 < cv.p → v 2 < cv.p → gives (.ecdsaSign x d) 0x31 0x0A [] [])
      ∧ (runs 0x32 → 0 < v 2 → v 2 < cv.n → 0 < v 3 → v 3 < cv.n → v 0 < cv.p → v 1 < cv.p → cv.on (v 0) (v 1) = true →
        gives (.ecdsaVerify x d) 0x32 (if cv.verify (v 0, v 1) (ecTrunc cv.n dg) (v 2) (v 3) then 0 else 0x01) [] [])
      ∧ (runs 0x32 → (cv.n ≤ v 2 ∨ cv.n ≤ v 3 ∨ cv.p ≤ v 0 ∨ cv.p ≤ v 1) → gives (.ecdsaVerify x d) 0x32 0x0B [] [])
      ∧ (runs 0x33 → (cv.n ≤ v 0 ∨ cv.p ≤ v 1 ∨ cv.p ≤ v 2) → gives (.ecdh x d) 0x33 0x0B [] [])
      ∧ (runs 0x33 → 0 < v 0 → v 0 < cv.n → v 1 < cv.p → v 2 < cv.p → cv.on (v 1) (v 2) = false → gives (.ecdh x d) 0x33 0x0C [] [])
      ∧ (runs 0x33 → 0 < v 0 → v 0 < cv.n → v 1 < cv.p → v 2 < cv.p → cv.on (v 1) (v 2) = true →
        gives (.ecdh x d) 0x33 0 [xOf (cv.mulP (v 0) (some (v 1, v 2)))] [])
      ∧ (runs 0x34 → gives (.ecPubchk x d) 0x34 (if cv.p ≤ v 0 ∨ cv.p ≤ v 1 then 0x0B else if cv.on (v 0) (v 1) = false then 0x0C else 0) [] []))
    ∧ (runs 0x38 → c.dom = 6 → ∃ k, gives (.edKeygen x d) 0x38 0 [leNat (randBytes k 32), edPublic (randBytes k 32)] [])
    ∧ (runs 0x39 → c.dom = 6 →
      let sig := edSignMsg (leBytes 32 (v 0)) (v 1) b
      let r := leNat (sig.take 32)
      let t := leNat (sig.drop 32)
      (p25519 ≤ v 1 % 2 ^ 255 → gives (.edSign x d) 0x39 0x0B [] [])
      ∧ (v 1 % 2 ^ 255 < p25519 → edDecode (v 1) = none → gives (.edSign x d) 0x39 0x0C [] [])
      ∧ (∀ pa pr, v 1 % 2 ^ 255 < p25519 → edDecode (v 1) = some pa → edDecode r = some pr →
        (edVerifyPts pa pr (v 1) r t b = true → gives (.edSign x d) 0x39 0 [r, t] (natBuf c.le 32 r ++ natBuf c.le 32 t))
        ∧ (edVerifyPts pa pr (v 1) r t b = false → gives (.edSign x d) 0x39 0x0D [] [])))
    ∧ (runs 0x3A → c.dom = 6 → ∀ pa pr, edDecode (v 0) = some pa → edDecode (v 1) = some pr → v 0 % 2 ^ 255 < p25519 → v 1 % 2 ^ 255 < p25519 →
      (0 < v 2 → v 2 < l25519 → gives (.edVerify x d) 0x3A (if edVerifyPts pa pr (v 0) (v 1) (v 2) b then 0 else 0x01) [] [])
      ∧ (v 2 = 0 → gives (.edVerify x d) 0x3A 0x0A [] []) ∧ (l25519 ≤ v 2 → gives (.edVerify x d) 0x3A 0x0B [] []))
    ∧ (runs 0x3B → c.dom = 5 → ∃ k, gives (.xKeygen x d) 0x3B 0 [leNat (randBytes k 32), x25519Fn (leNat (randBytes k 32)) 9] [])
    ∧ (runs 0x3C → c.dom = 5 →
      (x25519Fn (v 0) (v 1) ≠ 0 → gives (.x25519 x d) 0x3C 0 [x25519Fn (v 0) (v 1)] [])
      ∧ (x25519Fn (v 0) (v 1) = 0 → gives (.x25519 x d) 0x3C 0x0A [] []))

/-- For a command that runs without misuse: BNE_LOAD gives the buffer's number in its byte order, BNE_STORE the low bytes of the operand, BNE_CLEAR zeros with the marks removed; KLOAD of an entry of the partition, without a limit, whose usage and form allow it, counts the use and gives the private and the public components of the key (USE 7: the public ones alone, uncounted), linked and the private ones secret, and gives KEY_ABSENT and zeroed secret slots for a handle that names nothing; each KSTORE fixes what it asks of the store at its result time: the template of the buffer, the handle, and the material, from the operand for SLOTS, from the sealed accumulators for IMPORT, fresh for GENERATE, from the buffer for PUBLIC, none for DELETE and RESTRICT. -/
def Obligations.OperandsMoveBetweenBufferStoreAndMemory : Prop :=
  ∀ (x : XHdr) (y : Fin 64) (l : Fin 16) (c : BneCmd) (i : Item) (sh : Shape) (d : Fin 16) (s : State),
    let v (k : Nat) : Nat := (operands s i sh).getD k 0
    let b := bufIn s y i sh
    let t := tmplEntry (s.ymemRead y ((s.bufferOf i).1 + c.inOff) 48)
    let runs (op : Nat) : Prop := BneRuns x y l op c i sh s
    let store (j : Instr) (mode : Nat) (mat : List Byte) (ok : Bool) : Prop := StoreStarts j x y l c i sh s mode mat ok
    (runs 0x01 → BneGives (.bneLoad x d) x y l 0x01 c i sh s 0 [if c.le then leNat b else beNat b] [])
    ∧ (runs 0x02 → BneGives (.bneStore x d) x y l 0x02 c i sh s 0 [] (if c.le then leBytes c.inLen (v 0) else beBytes c.inLen (v 0)))
    ∧ (runs 0x03 → BneGives (.bneClear x d) x y l 0x03 c i sh s 0 [] [])
    ∧ (runs 0x04 → ∀ row e, s.named c.handle = some (row, e) → e.part = i.part → e.system = false → s.cleat.ready = true →
      (s.part i.part).st ≠ .exported → e.notAfter = 0 → e.useLimit = 0 → (c.use = 7 ∨ bitOf e.usage c.use = true) → kloadForm c.dom c.rows c.use e = true →
      ∃ t f, exec (.kload x d none) s = .next t ∧ t.flights = s.flights ++ [f] ∧ f.code = 0 ∧ f.r = fabricOf (s.cpu x.ex).cyc + 60 * c.rows + 4
        ∧ f.slots.map (fun o => (o.slot, o.val)) = placed (s.opRegion i.part).2 sh.outs ((if c.use = 7 then [] else e.components.1) ++ e.components.2)
        ∧ (∀ p, sh.make = some p → ∀ o ∈ f.slots, p.priv ≤ o.slot → o.slot < p.priv + p.n → o.link = some (1 + 2 * (p.priv * 65536 + p.base)))
        ∧ t.entry row = some (if c.use = 7 then e else { e with useCount := min (2 ^ 32 - 1) (e.useCount + 1) }) ∧ t.bne = s.bne)
    ∧ (runs 0x04 → s.named c.handle = none → ∃ t f, exec (.kload x d none) s = .next t ∧ t.flights = s.flights ++ [f] ∧ f.code = 0x09
        ∧ (∀ o ∈ f.slots, o.val = 0 ∧ o.sec = true ∧ o.link = none) ∧ t.cleat = s.cleat)
    ∧ (runs 0x05 →
      (c.use = 1 → ∀ pn pb qn qb, kstoreOpds t c.dom = some ((pn, pb), (qn, qb)) →
        let len := (s.opRegion i.part).2
        let n := pn * ceilDiv pb len
        let ok := ((List.range n).all fun k => (s.opSlot i.part (c.sa + k)).sec) && (qn == 0 || s.linked i.part c.sa n c.sb c.sb (qn * ceilDiv qb len))
        (t.alg ≤ 8 → store (.kstoreSlots x d) 1 (beBytes t.klen (v 0)) ok)
        ∧ (0x10 ≤ t.alg → t.alg ≤ 0x13 → store (.kstoreSlots x d) 1 (([v 0, v 1, v 2]).flatMap (beBytes (eccLen (t.alg - 0x10)))) ok)
        ∧ (t.alg = 0x30 → store (.kstoreSlots x d) 1 (([v 0, v 1, v 2, v 3, v 4]).flatMap (beBytes (t.kbits / 16))) ok)
        ∧ (t.alg = 0x20 ∨ t.alg = 0x22 → store (.kstoreSlots x d) 1 (leBytes 32 (v 0) ++ leBytes 32 (v 1)) ok))
      ∧ (c.use = 1 → kstoreOpds t c.dom = none → store (.kstoreSlots x d) 1 [] false)
      ∧ (c.use = 2 →
        let q := (s.cpu x.ex).q.toList
        let n := (t.klen + 15) / 16
        store (.kstoreImport x d) 2 ((q.flatMap fun a => quadBytes a.val).take t.klen) (decide (n ≤ 4) && (q.take n).all Acc.sealed && decide (t.alg ≤ 8)))
      ∧ (c.use = 3 → ∃ k, store (.kstoreGenerate x d) 3 (randBytes k t.klen) (decide (t.alg ≤ 8)))
      ∧ (c.use = 4 → store (.kstorePublic x d) 4 (b.drop 48) (publicLen t.alg t.klen t.kbits t.pubexp).isSome)
      ∧ (c.use = 5 → store (.kstoreDelete x d) 5 [] true)
      ∧ (c.use = 6 → store (.kstoreRestrict x d) 6 [] true))

/-- For a command that runs without misuse: ML-DSA key generation gives the public key of fresh bytes and holds the seed with the hash of that key; signing with a held seed whose hash agrees gives a verified signature within its iterations, or holds the state to go on with and reports MORE; continuing does the same; verifying answers OK or AUTH_FAIL and holds nothing. ML-KEM key generation holds a fresh seed and gives its key; encapsulation holds the shared key and gives the ciphertext, or answers INPUT_RANGE for a bad key; decapsulation replaces the seed by the shared key. PKLOAD of an unlimited entry that its form allows holds its material, PKSTORE fixes a KSTORE of the held material, PCLEAR clears the cluster that the item holds. -/
def Obligations.PolynomialCommandsHoldAndGiveTheirState : Prop :=
  ∀ (x : XHdr) (y : Fin 64) (l : Fin 16) (c : BneCmd) (i : Item) (sh : PuShape) (d : Fin 16) (s : State),
    let b := puIn s y i sh
    let h := s.heldOf c.lane (s.sheave y l).item
    let runs (op : Nat) : Prop := PuRuns x y l op c i sh s
    let gives (j : Instr) (code : Nat) (held : PuHeld) (buf : List Byte) (more : Bool := false) : Prop := PuGives j x y l c i sh s code held buf more
    let signs (j : Instr) (xi tr mu rnd : List Byte) (from' : Nat) : Prop :=
      (∀ sig n, mldsaLoop (mldsaPrep xi mu rnd) c.iters from' = some (sig, n) → mldsaVerifyMu (mldsaPk xi) mu sig = true → gives j 0 .none sig)
      ∧ (∀ sig n, mldsaLoop (mldsaPrep xi mu rnd) c.iters from' = some (sig, n) → mldsaVerifyMu (mldsaPk xi) mu sig = false → gives j 0x0D .none [])
      ∧ (mldsaLoop (mldsaPrep xi mu rnd) c.iters from' = none → gives j 0 (.sign xi tr mu rnd (from' + c.iters)) [] true)
    (runs 0x68 → ∃ k, gives (.mldsaKeygen x d) 0 (.mldsaSeed (randBytes k 32) ((mldsaKey (randBytes k 32)).tr.take 32)) (mldsaKey (randBytes k 32)).pk)
    ∧ (∀ xi tr, runs 0x69 → h = .mldsaSeed xi tr →
      ((mldsaKey xi).tr.take 32 = tr → ∃ rnd, (c.det = true → rnd = List.replicate 32 0) ∧ (c.det = false → ∃ k, rnd = randBytes k 32)
        ∧ signs (.mldsaSign x d) xi tr (mldsaMu (mldsaKey xi).pk (b.take c.ctxLen) (b.drop c.ctxLen)) rnd 0)
      ∧ ((mldsaKey xi).tr.take 32 ≠ tr → gives (.mldsaSign x d) 0x0D .none []))
    ∧ (∀ xi tr mu r n, runs 0x6A → h = .sign xi tr mu r n → signs (.mldsaSignCont x d) xi tr mu r n)
    ∧ (runs 0x6B → c.pkHeld = false →
      let m := (b.drop 1312).drop 2420
      gives (.mldsaVerify x d) (if mldsaVerifyMu (b.take 1312) (mldsaMu (b.take 1312) (m.take c.ctxLen) (m.drop c.ctxLen)) ((b.drop 1312).take 2420) then 0 else 0x01) .none [])
    ∧ (∀ pk, runs 0x6B → c.pkHeld = true → h = .mldsaPub pk →
      let m := b.drop 2420
      gives (.mldsaVerify x d) (if mldsaVerifyMu pk (mldsaMu pk (m.take c.ctxLen) (m.drop c.ctxLen)) (b.take 2420) then 0 else 0x01) .none [])
    ∧ (runs 0x70 → ∃ k, gives (.mlkemKeygen x d) 0 (.mlkemSeed (randBytes k 64)) (mlkemEk (randBytes k 64)))
    ∧ (runs 0x71 → (mlkemEkOk b = true → ∃ k, gives (.mlkemEncaps x d) 0 (.mlkemK (mlkemEncaps b (randBytes k 32)).1) (mlkemEncaps b (randBytes k 32)).2)
      ∧ (mlkemEkOk b = false → gives (.mlkemEncaps x d) 0x0B .none []))
    ∧ (∀ dz, runs 0x72 → h = .mlkemSeed dz → gives (.mlkemDecaps x d) 0 (.mlkemK (mlkemDecaps dz b)) [])
    ∧ (∀ row e, runs 0x60 → s.named c.handle = some (row, e) → e.part = i.part → e.system = false → s.cleat.ready = true →
      (s.part i.part).st ≠ .exported → e.notAfter = 0 → e.useLimit = 0 → (c.use = 7 ∨ bitOf e.usage c.use = true) → pkloadForm c.dom c.rows c.use e = true →
      ∃ t f, exec (.pkload x d none) s = .next t ∧ t.flights = s.flights ++ [f] ∧ f.code = 0 ∧ f.held = some e.puHeld
        ∧ f.r = fabricOf (s.cpu x.ex).cyc + 60 * c.rows + 4 ∧ t.entry row = some (if c.use = 7 then e else { e with useCount := min (2 ^ 32 - 1) (e.useCount + 1) }) ∧ t.pu = s.pu)
    ∧ (runs 0x61 → ∃ t f q, exec (.pkstore x d) s = .next t ∧ t.flights = s.flights ++ [f] ∧ f.kreq = some q ∧ q.mode = 1 ∧ q.tmpl = b
        ∧ (q.mat, q.ok) = h.material (tmplEntry b) ∧ f.held = some .none ∧ f.r = fabricOf (s.cpu x.ex).cyc + 20 ∧ (t.cleat, t.pu, t.ymem) = (s.cleat, s.pu, s.ymem))
    ∧ (runs 0x62 → ∃ t f, exec (.pclear x d) s = .next t ∧ t.flights = s.flights ++ [f] ∧ f.code = 0 ∧ f.r = fabricOf (s.cpu x.ex).cyc + 12
        ∧ (t.cluster c.lane).held = (if (s.cluster c.lane).item = (s.sheave y l).item then .none else (s.cluster c.lane).held)
        ∧ ∀ j, j ≠ c.lane → t.cluster j = s.cluster j)

/-- For the operation that a Sheave has in flight, with no error found and its tag accepted, BNE_RESULT of the engine writes each output slot of the item's partition once with its value, SEC kept, STALE cleared, an unclaimed slot claimed and the links that it had broken at both operands, writes the buffer bytes that the access rules let it reach, and makes STATUS DONE with the code readable from the Sheave cycle of its result time; of the polynomial unit it makes the first cluster hold the new state for the item. KEY_USAGE, KEY_ABSENT and RNG_HEALTH are latched as the item's status. An input check's code counts in INPUT_ERR_CNT. A result whose tag is no longer accepted changes only STALE_CNT, and STALE_RESULT_DISCARD drops one such result of its yard. OPM_READ records the slot and word named, or is refused while a read runs, for a slot outside the region, or for a word outside the slot; OPM_READ_DONE shows the word of an open slot and marks, and zero and a refusal for a secret slot. -/
def Obligations.EngineResultsReachSlotsBufferAndStatus : Prop :=
  (∀ (y : Fin 64) (l : Fin 16) (f : Flight) (rest : List Flight) (s : State), s.flights = f :: rest → f.logic = mailKey y l → f.tag.y = y → f.tag.l = l →
    f.kreq = none → f.code ≠ 0x0D →
    let reaches := f.bufs.all fun b => b.bytes.isEmpty || s.artOk (if f.kind = .pu then 0x051 else 0x050) none .write (0x100000000 + y.val * 0x40000 + b.addr) b.bytes.length
    let wrote (t : State) : Prop := t.ymem = f.bufs.foldl (fun m b => SMap.putBytes m (y * 0x40000 + b.addr) b.bytes) s.ymem
    let shows (t : State) (bits : Nat) : Prop := (t.sheave y l).port.due = (s.sheave y l).port.due
      ++ [{ cyc := (4 * f.r + 4) / 5, q := [], w := [(0x40050, BitVec.ofNat 32 (2 ^ 31 + (if f.args.getD 3 0 ≠ 0 then bits else 0) + f.code))] }]
    let latches (t : State) : Prop := (f.code ∉ [0x08, 0x09, 0x0E] → t.adm = s.adm) ∧ (∀ i, f.code ∈ [0x08, 0x09, 0x0E] → s.item f.tag.item = some i → i.latch = none →
      ((t.item f.tag.item).map fun i => i.latch) = some (some (s.frame.ticks * 2 ^ 22 + 4 * f.r, f.code)))
    (f.kind = .bne → f.args.getD 4 0 = 0 → s.accepts f.tag f.r = true → reaches = true → (f.slots.map SlotOut.slot).Nodup → (∀ o ∈ f.slots, o.slot < 65536) →
      let key (x : OpSlot) : Nat := (x.link - 1) / 2
      let broken (x : OpSlot) : Bool := f.slots.any fun o => (s.opSlot f.tag.part o.slot).link != 0 && key (s.opSlot f.tag.part o.slot) == key x
      ∃ t, exec (.bneResult y l .none) s = .next t
        ∧ t = { s with flights := rest, sheaves := t.sheaves, adm := t.adm, rf := t.rf, ymem := t.ymem, unitPuts := t.unitPuts, bne := { s.bne with slots := t.bne.slots } }
        ∧ (∀ o ∈ f.slots, let old := s.opSlot f.tag.part o.slot
            t.opSlot f.tag.part o.slot = { val := o.val, sec := old.sec || o.sec, stale := false, owner := if old.owner = 0 then mailKey y l + 1 else old.owner, link := o.link.getD 0 })
        ∧ (∀ p k, k < 65536 → (p = f.tag.part → k ∉ f.slots.map SlotOut.slot) →
            t.opSlot p k = (let x := s.opSlot p k; if p = f.tag.part ∧ x.link ≠ 0 ∧ broken x = true then { x with link := 0 } else x))
        ∧ wrote t ∧ shows t (2 ^ 30) ∧ latches t ∧ OnlyRegs s t [Reg.BNE.INPUT_ERR_CNT]
        ∧ t.reg Reg.BNE.INPUT_ERR_CNT = (if f.code = 0x0A ∨ f.code = 0x0B ∨ f.code = 0x0C then (s.reg Reg.BNE.INPUT_ERR_CNT + 1) % 2 ^ 32 else s.reg Reg.BNE.INPUT_ERR_CNT))
    ∧ (∀ h j js, f.kind = .pu → f.held = some h → f.phys = j :: js → f.slots = [] → s.accepts f.tag f.r = true → reaches = true →
      ∃ t, exec (.bneResult y l .none) s = .next t ∧ (t.cluster j).held = h ∧ (h ≠ .none → (t.cluster j).item = f.tag.item)
        ∧ (∀ k ∈ js, k ≠ j → (t.cluster k).held = .none) ∧ (∀ k, k ∉ f.phys → t.cluster k = s.cluster k)
        ∧ t = { s with flights := rest, sheaves := t.sheaves, adm := t.adm, rf := t.rf, ymem := t.ymem, unitPuts := t.unitPuts, pu := t.pu } ∧ wrote t ∧ shows t (2 ^ 29) ∧ latches t)
    ∧ (f.kind = .bne ∨ f.kind = .pu → s.accepts f.tag f.r = false →
      exec (.bneResult y l .none) s = .next ({ s with flights := rest }.inc (Reg.YARD.STALE_CNT f.tag.y)))
    ∧ (s.accepts f.tag f.r = false → exec (.staleResultDiscard y) s = .next ({ s with flights := rest }.inc (Reg.YARD.STALE_CNT y))))
  ∧ (∀ s : State,
    let p := s.reg Reg.BNE.OPM_PART
    let k := s.reg Reg.BNE.OPM_SLOT
    let w := s.reg Reg.BNE.OPM_WORD
    let region := s.opRegion p
    (s.bne.opmBusy = none → k < region.1 → 64 * w < region.2 →
      exec .opmRead s = .next ({ s with bne := { s.bne with opmBusy := some (p, k, w) } }.setBit Reg.BNE.DONE false))
    ∧ (s.bne.opmBusy.isSome = true → exec .opmRead s = .next (s.refuse pgBne 0x42))
    ∧ (s.bne.opmBusy = none → region.1 ≤ k → exec .opmRead s = .next (s.refuse pgBne 0x40))
    ∧ (s.bne.opmBusy = none → k < region.1 → region.2 ≤ 64 * w → exec .opmRead s = .next (s.refuse pgBne 0x01)))
  ∧ (∀ (p k w : Nat) (s : State), s.bne.opmBusy = some (p, k, w) → p < 256 → k < (s.opRegion p).1 →
    let x := s.opSlot p k
    ∃ t, exec .opmReadDone s = .next t ∧ t = { s with bne := { s.bne with opmBusy := none }, rf := t.rf, hdr := t.hdr } ∧ t.reg Reg.BNE.DONE = 1
      ∧ t.reg Reg.BNE.SEC = x.sec.toNat ∧ t.reg Reg.BNE.STALE = x.stale.toNat
      ∧ (x.sec = true → reg64 t Reg.BNE.OPM_DATA_LO Reg.BNE.OPM_DATA_HI = 0 ∧ (t.hd pgBne).errCode = 0x41)
      ∧ (s.opBusy p k = true → reg64 t Reg.BNE.OPM_DATA_LO Reg.BNE.OPM_DATA_HI = 0)
      ∧ (x.sec = false → s.opBusy p k = false → reg64 t Reg.BNE.OPM_DATA_LO Reg.BNE.OPM_DATA_HI = x.val / 2 ^ (64 * w) % 2 ^ 64))
  ∧ (∀ (p k w : Nat) (s : State), s.bne.opmBusy = some (p, k, w) → 256 ≤ p ∨ (s.opRegion p).1 ≤ k →
    ∃ t, exec .opmReadDone s = .next t ∧ reg64 t Reg.BNE.OPM_DATA_LO Reg.BNE.OPM_DATA_HI = 0 ∧ (t.hd pgBne).errCode = 0x40 ∧ t.bne.opmBusy = none)

/-- SWAP of a logical Sheave of a yard that has no pending request and an unworn spare records the request from its physical Sheave to the spare, with RETIRE and cause 3, and shows it in STATE; it is refused with SWAP_PENDING, NO_SPARE or SPARE_WORN. SWAP_CANCEL and POOL_CANCEL withdraw a manager's request and are refused where there is none or it is automatic. POOL_RETIRE records a request to the lowest spare of the pool, and is refused for a value outside Table 2.9, a pending request, or no spare. PRELOAD_DONE reads the rig in effect again from flash and, where its hash agrees, fills the RAMs of the incoming Sheave with image and tables and marks the request. AGING_MEASURE of the Sheave in turn records the margin, and the second in a row below the threshold of a mapped Sheave sets its flag and the interrupt bit and, where AUTO_SPARE is set, asks for a swap to an unworn spare, or reports that there is none. -/
def Obligations.SpareRequestsFollowTheRules : Prop :=
  (∀ (y : Fin 64) (l : Fin 16) (retire : Bool) (s : State),
    let v := s.yard y
    (∀ t p, v.swap.pending = false → v.spare = some t → v.phys l = some p → s.worn y t = false →
      ∃ u, exec (.swap y l retire) s = .next u ∧ u = { s with yards := u.yards, hdr := u.hdr }
        ∧ u.yard y = { v with swap := { pending := true, auto := false, retire := retire, lsheave := l, frm := p, dst := t, cause := 3 } }
        ∧ (∀ z, z ≠ y.val → u.yard z = s.yard z) ∧ (u.hd (pgYard y)).detail.testBit 0 = true ∧ ∀ k, k ≠ pgYard y → u.hd k = s.hd k)
    ∧ (v.swap.pending = true → Refused (.swap y l retire) s (pgYard y) 0x30)
    ∧ (v.swap.pending = false → v.spare = none ∨ v.phys l = none → Refused (.swap y l retire) s (pgYard y) 0x31)
    ∧ (∀ t p, v.swap.pending = false → v.spare = some t → v.phys l = some p → s.worn y t = true → Refused (.swap y l retire) s (pgYard y) 0x32)
    ∧ (v.swap.pending = true → v.swap.auto = false → ∃ u, exec (.swapCancel y) s = .next u ∧ u = { s with yards := u.yards, hdr := u.hdr }
        ∧ u.yard y = { v with swap := { v.swap with pending := false, preloaded := false } } ∧ (u.hd (pgYard y)).detail.testBit 0 = false)
    ∧ (v.swap.pending = false → Refused (.swapCancel y) s (pgYard y) 0x33)
    ∧ (v.swap.pending = true → v.swap.auto = true → Refused (.swapCancel y) s (pgYard y) 0x34)
    ∧ (∀ r r', s.rig.eff = some r → s.rigReread r = some r' → v.swap.pending = true → v.swap.preloaded = false →
      (r'.image y v.swap.lsheave).length ≤ 0x8000 → (∀ e ∈ r'.tables, e.kind = 2 → e.off + e.data.length ≤ 0x8000) →
      ∃ u, exec (.preloadDone y) s = .next u ∧ u = { s with yards := u.yards, hdr := u.hdr, iram := u.iram, dram := u.dram }
        ∧ u.yard y = { v with swap := { v.swap with preloaded := true } }
        ∧ (let b := ramBase y v.swap.dst
          (∀ k, k < 0x8000 → SMap.get 0 u.iram (b + k) = (r'.image y v.swap.lsheave).getD k 0
            ∧ SMap.get 0 u.dram (b + k) = (((r'.tables.filter fun e => e.kind == 2 && decide (e.off ≤ k) && decide (k < e.off + e.data.length)).getLast?).map
                fun e => e.data.getD (k - e.off) 0).getD 0)
          ∧ (∀ k, k < b ∨ b + 0x8000 ≤ k → SMap.get 0 u.dram k = SMap.get 0 s.dram k ∧ SMap.get 0 u.iram k = SMap.get 0 s.iram k)))
    ∧ (s.rig.eff.bind s.rigReread = none ∨ v.swap.pending = false ∨ v.swap.preloaded = true → exec (.preloadDone y) s = .next s))
  ∧ (∀ (y : Fin 64) (p : Fin 17) (ps : Fin 1023) (s : State),
    let F := if p.val < 16 then Reg.YARD.MARGIN y p else Reg.YARD.MARGIN16 y
    let thr := s.reg (Reg.YARD.WEAR_THRESHOLD y)
    let v := s.yard y
    let turn : Prop := ∀ q ∈ v.aging, q.1 < s.frame.ticks ∧ (s.frame.ticks - q.1) % 1024 = 0 ∧ p.val = (q.2 + (s.frame.ticks - q.1) / 1024) % 17
    let s' := s.setYard y { v with aging := some (s.frame.ticks, p) }
    (¬ turn → exec (.agingMeasure y p ps) s = .next s)
    ∧ (turn → thr ≤ s.reg F ∨ thr ≤ ps.val ∨ v.logicalOf p = none → exec (.agingMeasure y p ps) s = .next (s'.setReg F ps))
    ∧ (∀ l, turn → v.logicalOf p = some l → s.reg F < thr → ps.val < thr →
      ∃ u, exec (.agingMeasure y p ps) s = .next u ∧ Shown { s' with yards := u.yards } u ∧ u.reg F = ps.val ∧ IntSet u (pgYard y) 0
        ∧ (u.reg (Reg.YARD.WEAR_FLAGS y)).testBit p.val = true ∧ (∀ z, z ≠ y.val → u.yard z = s.yard z)
        ∧ (v.swap.pending = true ∨ s.reg Reg.SPARES.AUTO_SPARE = 0 → u.yard y = { v with aging := some (s.frame.ticks, p) })
        ∧ (∀ t, v.swap.pending = false → s.reg Reg.SPARES.AUTO_SPARE = 1 → v.spare = some t → t ≠ p.val → s.worn y t = false →
          u.yard y = { v with aging := some (s.frame.ticks, p), swap := { pending := true, auto := true, retire := true, lsheave := l, frm := p, dst := t, cause := 2 } })
        ∧ (v.swap.pending = false → s.reg Reg.SPARES.AUTO_SPARE = 1 → v.spare = none ∨ (∃ t, v.spare = some t ∧ s.worn y t = true) → IntSet u (pgYard y) 1)))
  ∧ (∀ (k : Fin 16) (n : Fin 128) (s : State),
    let v := s.pool k
    (∀ t ts p, k.val ≤ 3 → n.val < poolUnits k → v.swap.pending = false → v.spares = t :: ts → v.phys n = some p →
      ∃ u, exec (.poolRetire k n) s = .next u ∧ u = { s with pools := u.pools, rf := u.rf, hdr := u.hdr }
        ∧ u.pool k = { v with swap := { pending := true, auto := false, lunit := n, frm := p, dst := t, cause := 3 } }
        ∧ (∀ j, j ≠ k.val → u.pool j = s.pool j) ∧ u.reg Reg.SPARES.PENDING = 1)
    ∧ (3 < k.val ∨ poolUnits k ≤ n.val → Refused (.poolRetire k n) s pgSpares 0x01)
    ∧ (k.val ≤ 3 → n.val < poolUnits k → v.swap.pending = true → Refused (.poolRetire k n) s pgSpares 0x30)
    ∧ (3 < k.val → Refused (.poolCancel k n) s pgSpares 0x01)
    ∧ (k.val ≤ 3 → n.val < poolUnits k → v.swap.pending = false → v.spares = [] ∨ v.phys n = none → Refused (.poolRetire k n) s pgSpares 0x31)
    ∧ (k.val ≤ 3 → v.swap.pending = true → v.swap.auto = false → ∃ u, exec (.poolCancel k n) s = .next u
        ∧ u = { s with pools := u.pools, rf := u.rf, hdr := u.hdr } ∧ u.pool k = { v with swap := { v.swap with pending := false, blocking := false } }
        ∧ u.reg Reg.SPARES.PENDING = 0)
    ∧ (k.val ≤ 3 → v.swap.pending = true → v.swap.auto = true → Refused (.poolCancel k n) s pgSpares 0x34)
    ∧ (k.val ≤ 3 → v.swap.pending = false → Refused (.poolCancel k n) s pgSpares 0x33))

/-- While no manager command runs and the store is enabled: INSPECT of a handle shows the entry's attributes, counters and physical row and ends with RESULT 0; a handle that names nothing gives KEY_ABSENT. CLEAT_DELETE and CLEAT_RESTRICT of an entry that no write is pending on add one manager's write for the next guard, a restriction never widening usage, limit or end, and BUSY; SYSTEM entries answer KEY_ABSENT. FLUSH ends at once when nothing waits and is BUSY otherwise. A command is refused with 0x50 while another runs and 0x51 while the store is off. SCRUB_ROW of a good row moves the scrub on and counts a completed pass. ROW_RESTORE of a row that has no suspended entry, or without a vault key, or while a vault bank is under program or erase, does nothing; with a vault record it restores the entry with the counters of its checkpoint, still suspended until the next guard, and without one it deletes it. -/
def Obligations.CleatManagerCommandsActOnTheNamedEntry : Prop :=
  (∀ s : State, s.cleat.cmd = none → (s.hd pgCleat).enable = true →
    let h := s.reg Reg.CLEAT1.CMD_HANDLE
    let na := s.reg Reg.CLEAT1.RESTRICT_NA_LO + 2 ^ 32 * s.reg Reg.CLEAT1.RESTRICT_NA_HI
    let ends (i : Instr) (result reason : Nat) : Prop := ∃ t, exec i s = .next t ∧ Shown s t ∧ t.reg Reg.CLEAT1.RESULT = result
      ∧ t.reg Reg.CLEAT1.KREASON = reason ∧ t.reg Reg.CLEAT1.DONE = 1 ∧ IntSet t pgCleat1 0
    let waits (i : Instr) (op : Nat) (w : List CleatWrite) : Prop := ∃ t, exec i s = .next t
      ∧ Shown { s with cleat := { s.cleat with cmd := some (op, h), pending := s.cleat.pending ++ w }, stay := t.stay, adm := t.adm } t
      ∧ (s.paired = false ∨ w = [] → t.stay = s.stay ∧ t.adm = s.adm) ∧ t.reg Reg.CLEAT1.BUSY = 1 ∧ t.reg Reg.CLEAT1.DONE = 0
    (s.named h = none → ends .inspect 0x09 0 ∧ ends .cleatDelete 0x09 0 ∧ ends .cleatRestrict 0x09 0)
    ∧ (∀ row e, s.named h = some (row, e) →
      (∃ t, exec .inspect s = .next t ∧ Shown s t ∧ t.reg Reg.CLEAT1.RESULT = 0 ∧ t.reg Reg.CLEAT1.DONE = 1
        ∧ t.reg Reg.CLEAT1.PHYS_ROW = s.physRow row % 2 ^ Reg.CLEAT1.PHYS_ROW.width
        ∧ (∀ k, k < 8 → t.reg (Reg.CLEAT1.ATTR k) = leNat (((e.attr (s.rowGen row)).drop (4 * k)).take 4) % 2 ^ 32)
        ∧ (∀ k, k < 4 → t.reg (Reg.CLEAT1.CNT k) = leNat (((e.counters e.useCount).drop (4 * k)).take 4) % 2 ^ 32))
      ∧ (e.system = true → ends .cleatDelete 0x09 0 ∧ ends .cleatRestrict 0x09 0)
      ∧ (e.system = false → s.writePending row = false →
        (s.pendingRows + e.rows ≤ 256 → waits .cleatDelete 2 [{ head := row, rows := e.rows, op := .delete, writer := .manager }])
        ∧ (s.pendingRows + 1 ≤ 256 → ∃ u l n, waits .cleatRestrict 3 [{ head := row, rows := 1, op := .restrict u l n, writer := .manager }]
            ∧ u = e.usage &&& s.reg Reg.CLEAT1.RESTRICT_USAGE ∧ (e.useLimit ≠ 0 → l ≠ 0 ∧ l ≤ e.useLimit) ∧ (e.notAfter ≠ 0 → n ≠ 0 ∧ n ≤ e.notAfter)
            ∧ (e.useLimit = 0 → l = s.reg Reg.CLEAT1.RESTRICT_LIMIT) ∧ (e.notAfter = 0 → n = na)))
      ∧ (e.system = false → s.writePending row = true → s.pendingRows + e.rows ≤ 256 → ends .cleatDelete 0 4)
      ∧ (e.system = false → 256 < s.pendingRows + e.rows → ends .cleatDelete 0 3))
    ∧ (s.cleat.vaultOpen = [] → s.cleat.vaultProg = none → ends .flush 0 0)
    ∧ (s.cleat.vaultOpen ≠ [] ∨ s.cleat.vaultProg.isSome = true → waits .flush 4 []))
  ∧ (∀ s : State, s.cleat.cmd.isSome = true → Refused .inspect s pgCleat1 0x50 ∧ Refused .cleatDelete s pgCleat1 0x50
      ∧ Refused .cleatRestrict s pgCleat1 0x50 ∧ Refused .flush s pgCleat1 0x50)
  ∧ (∀ s : State, s.cleat.cmd = none → (s.hd pgCleat).enable = false → Refused .inspect s pgCleat1 0x51 ∧ Refused .cleatDelete s pgCleat1 0x51
      ∧ Refused .cleatRestrict s pgCleat1 0x51 ∧ Refused .flush s pgCleat1 0x51)
  ∧ (∀ s : State, s.reg Reg.CLEAT0.SCRUB_EN = 1 → s.cleat.ready = true → s.cleat.scrubPos < 131072 → ∃ t, exec (.scrubRow false) s = .next t
      ∧ t = { s with cleat := { s.cleat with scrubPos := (s.cleat.scrubPos + 1) % 131072 }, rf := t.rf }
      ∧ t.reg Reg.CLEAT0.SCRUB_PASS_CNT = (if s.cleat.scrubPos = 131071 then (s.reg Reg.CLEAT0.SCRUB_PASS_CNT + 1) % 2 ^ 32 else s.reg Reg.CLEAT0.SCRUB_PASS_CNT))
  ∧ (∀ (row : Fin 131072) (s : State), s.headOf row = none ∨ s.cleat.vaultKey = none → exec (.rowRestore row) s = .next s)
  ∧ (∀ (row : Fin 131072) (h : Nat) (e : Entry) (key : List Byte) (s : State), s.headOf row = some h → s.cleat.vaultKey = some key → s.entry h = some e →
      (e.suspended = false ∨ e.restoring = false → exec (.rowRestore row) s = .next s)
      ∧ (s.vaultTaken = true → exec (.rowRestore row) s = .next s)
      ∧ (e.suspended = true → e.restoring = true → s.vaultTaken = false →
        let last := latestRec (s.vaultScan key (randBytes s.free 16)).1 h
        (∀ q g v, last = some (q, .entry h g v) → ∃ t, exec (.rowRestore row) s = .next t
          ∧ t = { s with free := s.free + 1, cleat := { s.cleat with ents := t.cleat.ents, vaultOpen := t.cleat.vaultOpen } }
          ∧ (∀ k, k ≠ h → t.entry k = s.entry k) ∧ (v.useLimit = 0 → t.cleat.vaultOpen = s.cleat.vaultOpen)
          ∧ (t.entry h).map (fun x => { x with ckptPend := v.ckptPend })
            = some { v with vaulted := true, mirror := e.mirror, suspended := true, ckpt := some v.useCount })
        ∧ (last = none → ∃ t, exec (.rowRestore row) s = .next t ∧ t.entry h = none ∧ IntSet t pgCleat 3)))

/-- With the vault key, records waiting, the flash free and its banks open to Naris's vault engine, VAULT_SECTOR_PROGRAM takes the records that fit a sector, in order, under the next SEQ; where only one sector without a live record is left, live records of another go with them. VAULT_READBACK of a good sector ends the programming, marks the entries of its records as vaulted, those with a limit with the recorded count as their checkpoint, goes on to the next sector, and ends a FLUSH that nothing more waits for; of a bad one it queues the records again before the others and maps the sector to a free spare, or passes over it where there is none. VAULT_RELOAD, with the key there, the store not yet loaded and wire rill 2 serving, restores the latest record of each head row with its attributes, material and count, and opens the store, once no bank of the vault is under program or erase; an engine that fails its inverse check (a free value) leaves VAULT_STATE FAILED. Without the key each does nothing. -/
def Obligations.VaultSectorsKeepTheRecords : Prop :=
  (∀ (key : List Byte) (s : State), s.cleat.vaultKey = some key →
    let size (l : List VaultRec) : Nat := (l.map fun r => r.bytes.length).foldl (· + ·) 0
    let dead := s.deadSectors (s.vaultScan key []).1
    (s.cleat.vaultProg = none → s.cleat.vaultOpen ≠ [] → s.flash.op = none → s.cleat.vaultNext < 4086 →
      (∀ i, i < 4086 → s.artOk 0x052 none .write (0x80000000 + vaultAddr i) 4096 = true) →
      ∃ t i old recs rest, exec .vaultSectorProgram s = .next t
        ∧ s.cleat.vaultOpen = recs ++ rest ∧ size (old ++ recs) ≤ 4048 ∧ i < 4086 ∧ (dead.length ≠ 1 → old = [])
        ∧ t = { s with cleat := { s.cleat with vaultOpen := rest, vaultProg := some (i, old ++ recs), vaultSeq := s.cleat.vaultSeq + 1,
                                               vaultImg := t.cleat.vaultImg, vaultDone := t.cleat.vaultDone },
                       flash := t.flash, rf := t.rf, hdr := t.hdr, free := t.free }
        ∧ (t.hd pgCleat).detail.testBit 1 = true)
    ∧ (s.cleat.vaultProg.isSome = true ∨ s.cleat.vaultOpen = [] ∨ s.flash.op.isSome = true → exec .vaultSectorProgram s = .next s)
    ∧ (s.reg Reg.CLEAT0.VAULT_STATE = 1 ∨ s.reg Reg.CLEAT0.VAULT_STATE = 3 →
      (s.vaultTaken = true → exec .vaultReload s = .next s)
      ∧ (s.vaultTaken = false → s.rillServes 322 = true → s.artOk 0x052 none .read (0x80000000 + vaultAddr 0) (4096 * 4086) = true →
        ∃ t, exec .vaultReload s = .next t ∧ if Config.vaultEngineOk s.free = false then t.cleat = s.cleat ∧ t.reg Reg.CLEAT0.VAULT_STATE = 3 else t.cleat.ready = true
        ∧ t.reg Reg.CLEAT0.VAULT_STATE = 2 ∧ (t.hd pgCleat).enable = true ∧ t.cleat.maskKey = some (s.free + 1)
        ∧ ∀ h q g e, latestRec (s.vaultScan key (randBytes (s.free + 2) 16)).1 h = some (q, .entry h g e) → (s.systemOnly = false ∨ e.system = true) →
          ∃ e', t.entry h = some e' ∧ e'.vaulted = true ∧ e' = { e with vaulted := true, ckpt := if e.useLimit = 0 then none else some e.useCount, ckptPend := e'.ckptPend })
      ∧ ∃ t, exec .vaultReload s = .next t ∧ (s.vaultTaken = false → Config.vaultEngineOk s.free = false → t.reg Reg.CLEAT0.VAULT_STATE = 3 ∧ t.cleat = s.cleat))
    ∧ (s.reg Reg.CLEAT0.VAULT_STATE ≠ 1 → s.reg Reg.CLEAT0.VAULT_STATE ≠ 3 → exec .vaultReload s = .next s))
  ∧ (∀ (i : Nat) (recs : List VaultRec) (s : State), s.cleat.vaultProg = some (i, recs) →
    (∀ x, s.cleat.cmd ≠ some (4, x)) →
    (∃ t, exec (.vaultReadback true) s = .next t
        ∧ t = { s with cleat := { s.cleat with vaultProg := none, vaultImg := [], vaultDone := 0, vaultNext := (i + 1) % 4086, ents := t.cleat.ents }, flash := t.flash, hdr := t.hdr }
        ∧ (∀ h g v e, (recs.filter fun r => r.head == h) = [.entry h g v] → s.entry h = some e → s.rowGen h = g →
          t.entry h = some { e with vaulted := true, ckpt := if v.useLimit = 0 then none else some v.useCount, ckptPend := if e.ckptPend = some v.useCount then none else e.ckptPend })
        ∧ (∀ h, (recs.filter fun r => r.head == h) = [] → t.entry h = s.entry h)))
  ∧ (∀ (i x : Nat) (recs : List VaultRec) (s : State), s.cleat.vaultProg = some (i, recs) → s.cleat.cmd = some (4, x) → s.cleat.vaultOpen = [] →
      ∃ t, exec (.vaultReadback true) s = .next t ∧ t.cleat.cmd = none ∧ t.reg Reg.CLEAT1.DONE = 1 ∧ t.reg Reg.CLEAT1.BUSY = 0)
  ∧ (∀ (i : Nat) (recs : List VaultRec) (s : State), s.cleat.vaultProg = some (i, recs) →
    ∃ t, exec (.vaultReadback false) s = .next t ∧ t.cleat.vaultProg = none
      ∧ t.cleat.vaultOpen = (recs.filter fun r => !s.cleat.vaultOpen.contains r) ++ s.cleat.vaultOpen ∧ t.cleat.ents = s.cleat.ents
      ∧ (∀ j, s.freeSpare (vaultAddr i / 0x800000) = some j →
          SMap.get 0 t.flash.remap (vaultAddr i / 0x800000 * 64 + j) = vaultAddr i % 0x800000 / 4096 + 1)
      ∧ (s.freeSpare (vaultAddr i / 0x800000) = none → t.flash.remap = s.flash.remap ∧ t.cleat.vaultNext = (i + 1) % 4086))
  ∧ (∀ s : State, s.cleat.vaultKey = none → exec .vaultSectorProgram s = .next s ∧ exec .vaultReload s = .next s)
  ∧ (∀ (b : Bool) (s : State), s.cleat.vaultProg = none → exec (.vaultReadback b) s = .next s)

/-- On a range that the manager may use: PROGRAM and ERASE of FLEN 16 to 256 start and show BUSY, ERASE after an ERASE_BEGIN of its sector; FLASH_OP_DONE then programs the units that were erased with the buffer's bytes, or erases the sector to 0xFF and journals ERASE_DONE, with RESULT 0. FLASH_READ without a failing unit fills RBUF and ends with RESULT 0; FLASH_CHECK gives the CRC-32C, MATCH or MISMATCH; REMAP maps the sector to the free spare. A write while one runs is refused with 0xA0, a manager's command on bank 2 or above with 0xA2, a write outside MAINTENANCE with 0xA3. A command on the running image's bank waits until ROM_FLASH_SERVICE starts it. OPTION_GENERATION_WRITE puts what has fallen due into the copy not in effect under the next GEN, and leaves it due where the read-back fails. -/
def Obligations.FlashCommandsRunAndEnd : Prop :=
  (∀ s : State,
    let fa := s.reg Reg.FLASH.FADDR
    let n := s.reg Reg.FLASH.FLEN
    let area := fa / 0x800000
    let started (i : Instr) (o : FlashOp) : Prop := ∃ t, exec i s = .next t
      ∧ t = { s with flash := t.flash, rig := t.rig, rf := t.rf, hdr := t.hdr } ∧ t.flash.op = some o ∧ t.flash.mem = s.flash.mem
      ∧ t.reg Reg.FLASH.BUSY = 1 ∧ t.reg Reg.FLASH.DONE = 0
    let op0 : FlashOp := { op := 2, addr := fa, len := n }
    (FlashFree s n → started (.program false) { op0 with data := s.wbuf n })
    ∧ (FlashFree s 16 → n % 16 = 0 → started (.erase false false) { op0 with op := 3 })
    ∧ (FlashFree s 16 → n % 16 = 0 → SMap.get 0 s.flash.remap (area * 64 + s.reg Reg.FLASH.REMAP_SPARE) = 0 → s.flash.shipped = false → s.reg Reg.FLASH.REMAP_SPARE < 64 →
      ∃ t, exec (.remap false) s = .next t ∧ SMap.get 0 t.flash.remap (area * 64 + s.reg Reg.FLASH.REMAP_SPARE) = fa % 0x800000 / 4096 + 1
        ∧ t.flash.optWrite.map OptArea.remap = some t.flash.remap ∧ t.flash.mem = s.flash.mem)
    ∧ (FlashFree s n → s.badUnits fa n = [] → s.flash.shipped = false →
      (∃ t, exec (.flashRead false none none) s = .next t ∧ Shown s t ∧ t.reg Reg.FLASH.RESULT = 0 ∧ t.reg Reg.FLASH.DONE = 1
        ∧ ∀ k, 4 * k < n → t.reg (Reg.FLASH.RBUF k) = leNat (((s.rangeBytes fa n).drop (4 * k)).take 4) % 2 ^ 32)
      ∧ (let v := if s.reg Reg.FLASH.CHECK_FOLD = 1 then crcFold crc32cPar (s.rangeBytes fa n) fa else crc crc32cPar (s.rangeBytes fa n)
        ∃ t, exec (.flashCheck false) s = .next t ∧ Shown s t ∧ t.reg Reg.FLASH.CHECK_RES = v % 2 ^ 32
          ∧ t.reg Reg.FLASH.RESULT = (if v = s.reg Reg.FLASH.CHECK_EXP then 1 else 2)))
    ∧ (s.flash.ready = true → s.flash.op.isSome = true → fa < 0x2000000 →
        Refused (.program false) s pgFlash 0xA0 (fa % 2 ^ 32) ∧ Refused (.erase false false) s pgFlash 0xA0 (fa % 2 ^ 32) ∧ Refused (.remap false) s pgFlash 0xA0 (fa % 2 ^ 32))
    ∧ (s.flash.ready = true → s.flash.op = none → fa % 16 = 0 → n = 16 → 0x1000000 ≤ fa → fa < 0x2000000 →
        Refused (.program false) s pgFlash 0xA2 fa ∧ Refused (.erase false false) s pgFlash 0xA2 fa ∧ Refused (.flashRead false none none) s pgFlash 0xA2 fa)
    ∧ (s.flash.ready = true → s.flash.op = none → fa % 16 = 0 → n = 16 → fa < 0x1000000 → s.mode ≠ .maintenance → s.reg Reg.GLOBAL.BOOT_HOLD ≠ 1 →
        Refused (.program false) s pgFlash 0xA3 fa ∧ Refused (.erase false false) s pgFlash 0xA3 fa))
  ∧ (∀ (o : FlashOp) (us : Fin 65536) (s : State), s.flash.op = some o → s.flash.shipped = false → s.flash.waits = [] → s.naris.load = none → o.addr < 0x2000000 →
    (o.op = 2 → o.started = true → o.data.length % 16 = 0 → o.addr % 16 = 0 → o.addr % 0x800000 + o.data.length ≤ 0x800000 →
      (∀ k, k < o.data.length → SMap.get false s.flash.progd (s.flashKey (o.addr + k) / 16) = false) →
      ∃ t, exec (.flashOpDone us) s = .next t ∧ t.flash.op = none ∧ t.reg Reg.FLASH.RESULT = 0 ∧ t.reg Reg.FLASH.DONE = 1 ∧ t.reg Reg.FLASH.OP_US = us.val
        ∧ ∀ k, k < o.data.length → SMap.get 0xFF t.flash.mem (s.flashKey (o.addr + k)) = o.data.getD k 0)
    ∧ (o.op = 3 → o.started = true → let area := o.addr / 0x800000
      let phys := s.sector area (o.addr % 0x800000 / 4096)
      ∃ t, exec (.flashOpDone us) s = .next t ∧ t.flash.op = none ∧ t.reg Reg.FLASH.RESULT = 0
        ∧ (∀ k, k < 4096 → SMap.get 0xFF t.flash.mem ((area * 2112 + phys) * 4096 + k) = 0xFF) ∧ t.incomplete area phys = false
        ∧ ∀ k, k < (area * 2112 + phys) * 4096 → SMap.get 0xFF t.flash.mem k = SMap.get 0xFF s.flash.mem k)
    ∧ (o.rom = true → o.started = false → o.op = 2 → exec .romFlashService s
        = .next ({ s with flash := { s.flash with op := some { o with started := true } } }.setReg Reg.NARIS.NSTATE 2)))
  ∧ (∀ (o : OptArea) (s : State), s.flash.optWrite = some o → s.flash.optState = 1 ∨ s.flash.optState = 2 → s.flash.op = none →
    (∃ t, exec (.optionGenerationWrite true) s = .next t ∧ t.flash.opt = { o with gen := (s.flash.opt.gen + 1) % 2 ^ 32, writeFrame := s.frame.no }
      ∧ t.flash.optWrite = none ∧ t.flash.optState = 3 - s.flash.optState
      ∧ (s.flash.optState = 1 → t.flash.optA = s.flash.optA ∧ t.flash.optB = some t.flash.opt)
      ∧ (s.flash.optState = 2 → t.flash.optB = s.flash.optB ∧ t.flash.optA = some t.flash.opt))
    ∧ (∃ t, exec (.optionGenerationWrite false) s = .next t ∧ t.flash.opt = s.flash.opt ∧ t.flash.optWrite = some o ∧ t.flash.optState = s.flash.optState))

/-- A retired cell's failure changes nothing. A cell that fails without a spare stops feeding and is suspended with its count of failures raised, and HEALTH_FAIL is set with the reserve discarded where fewer than eight cells then feed; with a spare (no recovery window open, room in the retirement list) it is retired, the spare feeds, the retirement list gains it and CELL_RETIRED is set. An estimator alarm with EST_ACTION 0 is only reported. ESTIMATOR_WINDOW puts BIAS as the count of ones, at most 65,535, and CORR as the nearest 1.15 value of the lag-1 autocorrelation, 0 for a window of equal bits. With EST_ACTION 1 a BIAS out of its limits stops the cell. A suspended cell feeds again after its fourth pass in a row where fewer than eight feed, and stands by as a spare otherwise; a failed test starts the count again. TESTPAT_EN does nothing outside FACTORY; there EN with its pattern discards seeds and rills. -/
def Obligations.SpringCellsFeedAndFail : Prop :=
  (∀ (c : Fin 10) (test : CellTest) (s : State),
    let v := s.cell c
    let others := s.spareCells.filter (· ≠ c.val)
    let failed : Cell := match test with
      | .rct => { v with rct := min 65535 (v.rct + 1) }
      | .apt => { v with apt := min 65535 (v.apt + 1) }
      | .est => v
    (v.retired = true → exec (.cellFail c test) s = .next s)
    ∧ (v.retired = false → s.reg Reg.SPRING.EST_ACTION = 0 → ∃ t, exec (.cellFail c .est) s = .next t ∧ Shown s t ∧ IntSet t pgSpring 2)
    ∧ (v.retired = false → test = .est → s.reg Reg.SPRING.EST_ACTION = 0 → ∃ t, exec (.cellFail c test) s = .next t ∧ t.cell c = v)
    ∧ (v.retired = false → test ≠ .est ∨ s.reg Reg.SPRING.EST_ACTION = 1 → others = [] → ∃ t, exec (.cellFail c test) s = .next t
      ∧ t.cell c = { failed with feeding := false, suspended := true, passes := 0 } ∧ (∀ k, k ≠ c.val → t.cell k = s.cell k)
      ∧ IntSet t pgSpring (if test = .est then 2 else 0)
      ∧ (s.spring.startupDone = true → s.spring.healthFail = false → (s.feeding.filter (· ≠ c.val)).length < 8 →
          t.spring.healthFail = true ∧ t.spring.reserve = 0 ∧ t.spring.bits = 0 ∧ IntSet t pgSpring 3))
    ∧ (∀ sp rest, v.retired = false → test ≠ .est ∨ s.reg Reg.SPRING.EST_ACTION = 1 → others = sp :: rest → s.glob.window = none →
      s.optNext.retired.length < 512 → ∃ t, exec (.cellFail c test) s = .next t
        ∧ t.cell c = { failed with feeding := false, suspended := false, retired := true, passes := 0 }
        ∧ t.cell sp = (if v.feeding then { s.cell sp with feeding := true } else s.cell sp) ∧ (∀ k, k ≠ c.val → k ≠ sp → t.cell k = s.cell k)
        ∧ t.flash.optWrite = some { s.optNext with retired := s.optNext.retired ++ [{ kind := 10, yard := 0, unit := c }] }
        ∧ IntSet t pgSpring 1 ∧ t.reg Reg.SPARES.LR_KIND = 10 ∧ t.reg Reg.SPARES.LR_PHYS = c.val ∧ t.glob.window.isSome = true)
    ∧ (v.suspended = false → ∀ p, exec (.suspendedCellTest c p) s = .next s)
    ∧ (v.suspended = true → exec (.suspendedCellTest c false) s = .next (s.setCell c { v with passes := 0 })
        ∧ (v.passes < 3 → exec (.suspendedCellTest c true) s = .next (s.setCell c { v with passes := v.passes + 1 }))
        ∧ (3 ≤ v.passes → exec (.suspendedCellTest c true) s = .next (s.setCell c { v with passes := 0, suspended := false, feeding := decide (s.feeding.length < 8) }))))
  ∧ (∀ (c : Fin 10) (n1 n11 : Fin 65537) (s : State), s.reg Reg.SPRING.EST_ACTION = 0 →
    let d : Int := n1.val * (65536 - n1.val)
    ∃ t r, exec (.estimatorWindow c n1 n11) s = .next t ∧ t.cell c = { s.cell c with estValid := true, bias := min 65535 n1.val, corr := r }
      ∧ (∀ k, k ≠ c.val → t.cell k = s.cell k)
      ∧ (n1.val = 0 ∨ n1.val = 65536 → r = 0) ∧ -32768 ≤ r ∧ r ≤ 32767
      ∧ (d ≠ 0 → -32768 < r → r < 32767 → 2 * (r * d - 32768 * (65536 * n11.val - n1.val * n1.val)).natAbs ≤ d.natAbs)
      ∧ ((s.cell c).retired = false → n1.val < s.reg Reg.SPRING.BIAS_LO ∨ s.reg Reg.SPRING.BIAS_HI < min 65535 n1.val ∨ s.reg Reg.SPRING.CORR_LIMIT < r.natAbs →
          IntSet t pgSpring 2))
  ∧ (∀ (c : Fin 10) (n1 n11 : Fin 65537) (s : State), s.reg Reg.SPRING.EST_ACTION = 1 → (s.cell c).retired = false →
    n1.val < s.reg Reg.SPRING.BIAS_LO ∨ s.reg Reg.SPRING.BIAS_HI < min 65535 n1.val →
    ∃ t, exec (.estimatorWindow c n1 n11) s = .next t ∧ (t.cell c).bias = min 65535 n1.val ∧ (t.cell c).feeding = false ∧ IntSet t pgSpring 2)
  ∧ (∀ (en : Bool) (pat : Fin 65536) (s : State),
    (s.mode ≠ .factory → exec (.testpatEn en pat) s = .next s)
    ∧ (s.mode = .factory → ∃ t, exec (.testpatEn true pat) s = .next t ∧ t.reg Reg.SPRING.EN = 1 ∧ t.reg Reg.SPRING.PATTERN = pat.val
      ∧ t = { s with rf := t.rf, spring := { s.spring with testpat := true, seedReady := false, reserve := 0, bits := 0, rills := [], queue := [] } })
    ∧ (s.mode = .factory → s.spring.testpat = false → ∃ t, exec (.testpatEn false pat) s = .next t ∧ t = { s with rf := t.rf } ∧ t.reg Reg.SPRING.PATTERN = pat.val)
    ∧ (s.mode = .factory → s.spring.testpat = true → ∃ t, exec (.testpatEn false pat) s = .next t ∧ t.reg Reg.SPRING.EN = 0
      ∧ t = { s with rf := t.rf, spring := { s.spring with testpat := false, startupDone := false } }))

/-- With eight cells feeding and the Spring on, CONDITIONING_CALL adds 256 bits toward seeds of 384 for a reserve of at most 64; a spoiled call is discarded, a failed state check sets HEALTH_FAIL and discards the reserve, and under the test pattern the output only reaches TEST_OUT. The seed at the head of the queue goes to its rill from the reserve and starts its counts again. RILL_RESEED takes a seed from the reserve at the 65,536th call or the 1,024th tick, and otherwise queues the rill, which keeps serving. RILL_REFUSING reports a yard or wire rill past 2^20 calls during a health failure. A refill adds 16 bytes of the yard rill to a Sheave's buffer below 64. HEALTH_CLEAR with eight cells feeding clears the failure, and every rill waits for a seed: wire rills 0 to 3, then living partitions, then yard rills. At the 64th tick of a failure the fault is F3, which takes an OPERATIONAL device toward DEGRADED. -/
def Obligations.RillsServeReseedAndRefuse : Prop :=
  (∀ (ok spoiled : Bool) (s : State),
    (s.feeding.length < 8 ∨ (s.hd pgSpring).enable = false → exec (.conditioningCall ok spoiled) s = .next s)
    ∧ (8 ≤ s.feeding.length → (s.hd pgSpring).enable = true → exec (.conditioningCall ok true) s = .next s
      ∧ (s.spring.healthFail = false → ∃ t, exec (.conditioningCall false false) s = .next t ∧ Shown { s with spring := t.spring } t
          ∧ t.spring = { s.spring with healthFail := true, hfTicks := 0, reserve := 0, bits := 0 } ∧ IntSet t pgSpring 3
          ∧ t.reg Reg.SPRING.HF_CNT = (s.reg Reg.SPRING.HF_CNT + 1) % 2 ^ Reg.SPRING.HF_CNT.width)
      ∧ (s.spring.testpat = false → s.spring.healthFail = false → exec (.conditioningCall true false) s = .next { s.inc Reg.SPRING.COND_CNT with
          spring := { s.spring with reserve := min 64 (s.spring.reserve + (s.spring.bits + 256) / 384), bits := (s.spring.bits + 256) % 384 } })
      ∧ (s.spring.testpat = true → ∃ t, exec (.conditioningCall true false) s = .next t ∧ t = { s with rf := t.rf, free := s.free + 1 }
          ∧ t.reg Reg.SPRING.COND_CNT = (s.reg Reg.SPRING.COND_CNT + 1) % 2 ^ 32
          ∧ ∀ k, k < 8 → t.reg (Reg.SPRING.TEST_OUT k) = leNat (((randBytes s.free 32).drop (4 * k)).take 4))
      ∧ (s.spring.testpat = false → s.spring.healthFail = true → exec (.conditioningCall true false) s = .next (s.inc Reg.SPRING.COND_CNT))))
  ∧ (∀ (r : Fin 324) (s : State),
    let fresh : Rill := { seeded := true, due := false, calls := 0, ticks := 0 }
    let v := s.rill r
    (∀ q, s.spring.queue = r.val :: q → 0 < s.spring.reserve → s.spring.healthFail = false → ∃ t, exec (.seedArrival r) s = .next t
      ∧ t = { s with rf := t.rf, spring := { s.spring with reserve := s.spring.reserve - 1, queue := q, rills := t.spring.rills } }
      ∧ t.rill r = fresh ∧ ∀ k, k ≠ r.val → t.rill k = s.rill k)
    ∧ (s.spring.queue.head? ≠ some r.val ∨ s.spring.reserve = 0 ∨ s.spring.healthFail = true → exec (.seedArrival r) s = .next s)
    ∧ (v.seeded = true → 65536 ≤ v.calls ∨ 1024 ≤ v.ticks →
      (0 < s.spring.reserve → s.spring.healthFail = false → s.spring.queue = [] → ∃ t, exec (.rillReseed r) s = .next t
        ∧ t.spring.reserve = s.spring.reserve - 1 ∧ t.rill r = fresh ∧ t.rillServes r = true ∧ ∀ k, k ≠ r.val → t.rill k = s.rill k)
      ∧ (s.spring.reserve = 0 ∨ s.spring.healthFail = true ∨ s.spring.queue ≠ [] → ∃ t, exec (.rillReseed r) s = .next t
        ∧ t = { s with spring := { s.spring with rills := t.spring.rills, queue := if r.val ∈ s.spring.queue then s.spring.queue else s.spring.queue ++ [r.val] } }
        ∧ t.rill r = { v with due := true } ∧ (∀ k, k ≠ r.val → t.rill k = s.rill k) ∧ t.rillServes r = s.rillServes r))
    ∧ (v.seeded = false → exec (.rillReseed r) s = .next s)
    ∧ (v.calls < 65536 → v.ticks < 1024 → v.due = false → exec (.rillReseed r) s = .next s)
    ∧ (256 ≤ r.val → s.spring.healthFail = true → 2 ^ 20 ≤ v.calls →
      ∃ t, exec (.rillRefusing r) s = .next t ∧ Shown s t ∧ IntSet t pgRill1 (if r.val < 320 then 0 else 1)
        ∧ (r.val = 320 → t.reg Reg.CIPHER.MASK_EXHAUSTED = 1) ∧ (r.val = 321 → t.reg Reg.BNE.BLIND_EXHAUSTED = 1))
    ∧ (s.spring.healthFail = false → 256 ≤ r.val → exec (.rillRefusing r) s = .next s))
  ∧ (∀ (y : Fin 64) (l : Fin 16) (s : State),
    let b := SMap.get [] s.spring.rillBuf (y.val * 16 + l.val)
    (64 ≤ b.length ∨ s.rillServes (256 + y.val) = false → exec (.rillBufferRefill y l) s = .next s)
    ∧ (b.length < 64 → s.rillServes (256 + y.val) = true → ∃ t, exec (.rillBufferRefill y l) s = .next t
      ∧ t = { s with free := s.free + 1, spring := { s.spring with rillBuf := t.spring.rillBuf, blockCnt := t.spring.blockCnt, rills := t.spring.rills } }
      ∧ SMap.get [] t.spring.rillBuf (y.val * 16 + l.val) = b ++ randBytes s.free 16
      ∧ (∀ k, k ≠ y.val * 16 + l.val → SMap.get [] t.spring.rillBuf k = SMap.get [] s.spring.rillBuf k)))
  ∧ (∀ s : State,
    (s.spring.healthFail = true → 8 ≤ s.feeding.length → ∃ t, exec .healthClear s = .next t ∧ Shown { s with spring := t.spring } t ∧ t.spring.healthFail = false
      ∧ t.spring.queue = (([320, 321, 322, 323] ++ s.livingParts ++ (List.range 64).map (256 + ·)).filter fun r => (decide (r < 256) && s.spring.seedReady) || (s.rill r).seeded)
      ∧ (∀ r, t.rill r = { s.rill r with seeded := false, due := (s.rill r).seeded || (s.rill r).due }) ∧ IntSet t pgSpring 4)
    ∧ (s.spring.healthFail = false ∨ s.feeding.length < 8 → exec .healthClear s = .next s)
    ∧ (s.spring.healthFail = false ∨ s.spring.hfTicks ≠ 64 → exec .healthFailTimeout s = .next s)
    ∧ (s.spring.healthFail = true → s.spring.hfTicks = 64 → s.glob.booted = true → s.mode = .operational → s.glob.change = none →
      ∃ t, exec .healthFailTimeout s = .next t ∧ t.glob.change = some { target := .degraded, cause := .f3, orderly := false }
        ∧ t.reg Reg.GLOBAL.CHANGING = 1 ∧ t.reg (Reg.FAULT.F_CNT 3) = min (2 ^ (Reg.FAULT.F_CNT 3).width - 1) (s.reg (Reg.FAULT.F_CNT 3) + 1) ∧ IntSet t pgFault 1))

/-- A doorbell write that names a ring takes the low 16 bits of its value. SQ_TAIL below the ring size, with no withdrawal pending, sets the tail; CQ_HEAD that does not pass the tail sets the head; REVOKE of an active ring to another index than its tail, with room for its completion once what it withdraws has freed its reservations, is recorded as the pending withdrawal. Otherwise nothing changes but the host error FIFO: cause 0x01 for an index outside the ring, 0x02 for a head that passes the tail, 0x04 for a tail while a withdrawal is pending, 0x05 for a withdrawal not accepted, 0x03 for a register that no ring has. The reserved register of a slot in use ignores its write. -/
def Obligations.DoorbellsMoveTheRings : Prop :=
  ∀ (p : Fin 256) (j : Fin 64) (v : Word) (s : State),
    let x := v.toNat % 65536
    (∀ r, s.ringAt p j = some r →
      let g := s.ring r
      (x < 2 ^ g.sqLog2 → g.revoke = none → exec (.sqTail p j v) s = .next (s.setRing r { g with sqTail := x }))
      ∧ (x < 2 ^ g.sqLog2 → g.revoke.isSome = true → HostLogged (.sqTail p j v) s 0x04 r p x)
      ∧ (2 ^ g.sqLog2 ≤ x → HostLogged (.sqTail p j v) s 0x01 r p x ∧ HostLogged (.revoke p j v) s 0x01 r p x)
      ∧ (2 ^ g.cqLog2 ≤ x → HostLogged (.cqHead p j v) s 0x01 r p x)
      ∧ (x < 2 ^ g.cqLog2 → ringDist g.m g.cqHead x ≤ ringDist g.m g.cqHead g.cqTail → exec (.cqHead p j v) s = .next (s.setRing r { g with cqHead := x }))
      ∧ (x < 2 ^ g.cqLog2 → ringDist g.m g.cqHead g.cqTail < ringDist g.m g.cqHead x → HostLogged (.cqHead p j v) s 0x02 r p x)
      ∧ (let d := ringDist g.n x g.sqTail
        let freed := (s.adm.items.filter (s.inRun r g x d)).length + g.readsIn x d
        let room := g.unread + (g.cqRsv - freed) + 2 ≤ 2 ^ g.cqLog2
        (x < 2 ^ g.sqLog2 → g.st = .active → g.revoke = none → g.sqTail % 2 ^ g.sqLog2 ≠ x → room →
          exec (.revoke p j v) s = .next (s.setRing r { g with revoke := some x }))
        ∧ (x < 2 ^ g.sqLog2 → g.st ≠ .active ∨ g.revoke.isSome = true ∨ g.sqTail % 2 ^ g.sqLog2 = x ∨ ¬ room → HostLogged (.revoke p j v) s 0x05 r p x))
      ∧ (∀ o : Fin 4096, o.val / 16 = j.val → exec (.dbUnassigned p o) s = .next s))
    ∧ (s.ringAt p j = none → HostLogged (.sqTail p j v) s 0x03 0 p (16 * j.val) ∧ HostLogged (.cqHead p j v) s 0x03 0 p (16 * j.val)
      ∧ HostLogged (.revoke p j v) s 0x03 0 p (16 * j.val) ∧ ∀ o : Fin 4096, o.val / 16 = j.val → HostLogged (.dbUnassigned p o) s 0x03 0 p (o.val / 16 * 16))
    ∧ (∀ o : Fin 4096, 0x400 ≤ o.val → HostLogged (.dbUnassigned p o) s 0x03 0 p (o.val / 16 * 16))

/-- RING_CREATE of a ring that does not exist, with sizes and interrupt values in range, an existing partition, a free doorbell slot, a vector of the partition and room in its quota, makes the selected ring active with the staged values and nothing else; it is refused with BAD_VALUE, 0x60, 0x64, 0x65, 0x66 or 0x67, in this order. The other ring commands are refused with 0x61 for a ring that does not exist. RING_DELETE frees a ring with nothing in flight and no binding, and is refused with 0x62 or 0x63. RING_STOP stops an active ring with cause 4; RING_RESET starts a stopped one with nothing in flight anew. SETINT takes the staged mode, count and vector. INT_CYCLE_MESSAGE sends, where MSI-X is enabled, one message for the vector of each ring with completions since the last one, or sets its pending bit where it is masked, and behind writes that wait it waits too; MSIX_UNMASK sends a pending message. HERR_FRAME_READ answers and removes the oldest entry of the FIFO. -/
def Obligations.RingCommandsFollowTheStagedValues : Prop :=
  (∀ s : State,
    let r := s.reg Reg.HOSTIF.RING_SEL
    let p := s.reg Reg.HOSTIF.RING_PART
    let g := s.ring r
    let sq := s.reg Reg.HOSTIF.SQ_LOG2
    let cq := s.reg Reg.HOSTIF.CQ_LOG2
    let ic := s.reg Reg.HOSTIF.ICOUNT
    let x := s.reg Reg.HOSTIF.VECTOR
    let goodInt := ic ≤ 256 ∧ (s.reg Reg.HOSTIF.IMODE = 3 → ic ≠ 0)
    let good := goodInt ∧ 4 ≤ sq ∧ sq ≤ 16 ∧ 4 ≤ cq ∧ cq ≤ 16
    let inRange (q : Nat) := (s.part q).vecBase ≤ x ∧ x < (s.part q).vecBase + (s.part q).vecCount
    (good → g.st = .none → (s.part p).st ≠ .none → s.ringAt p (s.reg Reg.HOSTIF.DB_SLOT) = none → inRange p → s.ringCount p < (s.part p).ringQuota →
      exec .ringCreate s = .next (s.setRing r {
        st := .active, part := p, slot := s.reg Reg.HOSTIF.DB_SLOT,
        sqBase := s.reg Reg.HOSTIF.SQ_BASE_LO * 4096 + 2 ^ 32 * s.reg Reg.HOSTIF.SQ_BASE_HI,
        cqBase := s.reg Reg.HOSTIF.CQ_BASE_LO * 4096 + 2 ^ 32 * s.reg Reg.HOSTIF.CQ_BASE_HI,
        sqLog2 := sq, cqLog2 := cq, imode := s.reg Reg.HOSTIF.IMODE, vector := x, icount := ic }))
    ∧ (¬ good → Refused .ringCreate s pgHost 0x01)
    ∧ (good → g.st ≠ .none → Refused .ringCreate s pgHost 0x60)
    ∧ (good → g.st = .none → (s.part p).st = .none → Refused .ringCreate s pgHost 0x64)
    ∧ (good → g.st = .none → (s.part p).st ≠ .none → (s.ringAt p (s.reg Reg.HOSTIF.DB_SLOT)).isSome = true → Refused .ringCreate s pgHost 0x65)
    ∧ (good → g.st = .none → (s.part p).st ≠ .none → s.ringAt p (s.reg Reg.HOSTIF.DB_SLOT) = none → ¬ inRange p → Refused .ringCreate s pgHost 0x66)
    ∧ (good → g.st = .none → (s.part p).st ≠ .none → s.ringAt p (s.reg Reg.HOSTIF.DB_SLOT) = none → inRange p → (s.part p).ringQuota ≤ s.ringCount p →
        Refused .ringCreate s pgHost 0x67)
    ∧ (g.st = .none → Refused .ringDelete s pgHost 0x61 ∧ Refused .ringStop s pgHost 0x61 ∧ Refused .ringReset s pgHost 0x61 ∧ Refused .setint s pgHost 0x61)
    ∧ (g.st ≠ .none →
      (s.ringInFlight r = 0 → (∀ e ∈ s.adm.binding, e.2 ≠ r + 1) → exec .ringDelete s = .next (s.setRing r {}))
      ∧ (s.ringInFlight r ≠ 0 → Refused .ringDelete s pgHost 0x62)
      ∧ (∀ e ∈ s.adm.binding, e.2 = r + 1 → s.ringInFlight r = 0 → Refused .ringDelete s pgHost 0x63)
      ∧ (g.st = .active → ∃ t, exec .ringStop s = .next t ∧ t.ring r = { g with st := .stopped, cause := 4, reqs := [], cqRsv := g.cqRsv - g.reads }
          ∧ (∀ k, k ≠ r → t.ring k = s.ring k) ∧ IntSet t pgHost 2 ∧ t.adm = s.adm)
      ∧ (g.st = .stopped → Refused .ringStop s pgHost 0x62)
      ∧ (g.st = .stopped → s.ringInFlight r = 0 → exec .ringReset s = .next (s.setRing r {
          st := .active, part := g.part, slot := g.slot,
          sqBase := g.sqBase, cqBase := g.cqBase, sqLog2 := g.sqLog2, cqLog2 := g.cqLog2, imode := g.imode, vector := g.vector, icount := g.icount }))
      ∧ (g.st = .active ∨ s.ringInFlight r ≠ 0 → Refused .ringReset s pgHost 0x62)
      ∧ (goodInt → inRange g.part → exec .setint s = .next (s.setRing r { g with imode := s.reg Reg.HOSTIF.IMODE, vector := x, icount := ic }))
      ∧ (¬ goodInt → Refused .setint s pgHost 0x01) ∧ (goodInt → ¬ inRange g.part → Refused .setint s pgHost 0x66)))
  ∧ (∀ s : State, ∃ t, exec .intCycleMessage s = .next t
    ∧ (∀ r, t.ring r = if (s.ring r).imode = 2 ∨ (s.ring r).imode = 3 then (if (s.ring r).fresh = true then { s.ring r with fresh := false, since := 0 } else s.ring r) else s.ring r)
    ∧ ∀ r, ((s.ring r).imode = 2 ∨ (s.ring r).imode = 3) → (s.ring r).fresh = true →
      let m := SMap.get {} s.host.msix (s.ring r).vector
      let behind := s.parts.waitWrites.any fun w => w.part == (s.ring r).part
      let open' := s.hostUp = true ∧ m.masked = false ∧ s.host.cfg.msixMask = false
      (behind = false → s.host.cfg.msixEn = true → open' → .msix (s.ring r).vector m.addr m.data ∈ t.outbound)
      ∧ (behind = false → s.host.cfg.msixEn = true → ¬ open' → (SMap.get {} t.host.msix (s.ring r).vector).pending = true)
      ∧ (behind = true → .msix (s.ring r).part (s.ring r).vector ∈ t.parts.waitWrites))
  ∧ (∀ (v : Fin 2048) (s : State),
    let m := SMap.get {} s.host.msix v
    let open' := s.hostUp = true ∧ s.host.cfg.msixEn = true ∧ s.host.cfg.msixMask = false
    (m.pending = true → open' → ∃ t, exec (.msixUnmask v) s = .next t ∧ t.outbound = s.outbound ++ [.msix v m.addr m.data]
      ∧ SMap.get {} t.host.msix v = { m with masked := false, pending := false } ∧ t.reg Reg.HOSTIF.MSI_CNT = (s.reg Reg.HOSTIF.MSI_CNT + 1) % 2 ^ 32)
    ∧ (m.pending = false ∨ ¬ open' → exec (.msixUnmask v) s
        = .next { s with host := { s.host with msix := SMap.put {} s.host.msix v { m with masked := false } } }))
  ∧ (∀ (b : Bool) (s : State),
    let here := s.reg Reg.GLOBAL.BOOT_HOLD ≠ 1 ∧ (b = true ∨ s.glob.booted = true)
    (¬ here → exec (.herrFrameRead b) s = .next s)
    ∧ (here → exec (.herrFrameRead b) s = .next { s with
        host := { s.host with herr := s.host.herr.tail }
        outbound := s.outbound ++ [.regRead (if b then 1 else 0) Reg.HOSTIF.HERR_FRAME.off ((s.host.herr.head?.map HErr.frame).getD 0)] }))

/-- ENTRY_FETCH reads consecutive posted entries of an active ring, up to 64, within the ring, a 4 KB page and Max_Read_Request_Size, where admission is on, the link is up, nothing is withdrawn or quiesced, the in-flight table has room, fewer than 256 reads are out and completion entries are free, which it reserves. ENTRY_ARRIVAL takes the oldest read: an entry whose phase, CHECK and fields pass becomes an item with its ring, index, class and the tick count; a wrong phase stops the ring with cause 1 and is logged; a failing check ends the entry and accepts no item, and the completion that is written carries its status. INPUT_READ_COMPLETE puts the input into the message buffer of a bound item. A read error on an entry stops the ring with cause 2; on an input it ends the item. LINK_LOST leaves every ring stopped with cause 3 and ends what is not admitted. LINK_UP at x1 to x8 and 2.5 to 32 GT/s shows the configuration and lets requests go out again. A BAR access that is not supported is answered so, and AER keeps the first write of one. -/
def Obligations.EntriesAreFetchedCheckedAndAccepted : Prop :=
  (∀ (r : Fin 4096) (s : State),
    let g := s.ring r
    let left := ringDist g.n g.sqFetch g.sqTail - g.reads
    let serves := (s.mode = .operational ∨ s.mode = .degraded) ∧ (s.hd pgAdmit).st = 2 ∧ s.hostUp = true ∧ g.st = .active ∧ g.revoke = none ∧ (s.part g.part).quiesce = false
    let room := s.inFlightBound < 16384 ∧ s.entryReqs < 256 ∧ 0 < left ∧ g.unread + g.cqRsv + 2 ≤ 2 ^ g.cqLog2
    let a := g.sqBase + 64 * g.nextRead
    (serves → room → g.sqBase % 64 = 0 →
      ∃ t n, exec (.entryFetch r) s = .next t ∧ t.ring r = { g with reqs := g.reqs ++ [(g.nextRead, n)], cqRsv := g.cqRsv + n } ∧ (∀ k, k ≠ r.val → t.ring k = s.ring k)
        ∧ 1 ≤ n ∧ n ≤ 64 ∧ n ≤ left ∧ g.nextRead + n ≤ 2 ^ g.sqLog2 ∧ a % 4096 + 64 * n ≤ 4096 ∧ 64 * n ≤ 128 * 2 ^ s.host.cfg.mrrs.val
        ∧ g.unread + g.cqRsv + n + 1 ≤ 2 ^ g.cqLog2 ∧ s.inFlightBound + n ≤ 16384
        ∧ (s.artHost g.part .read = true → t.outbound = s.outbound ++ [.hostRead (s.part g.part).pasid a (64 * n)] ∧ t.art = s.art))
    ∧ (¬ serves ∨ ¬ room → exec (.entryFetch r) s = .next s))
  ∧ (∀ (r : Fin 4096) (dw : Vector Word 16) (s : State),
    let g := s.ring r
    let w0 := dw[0].toNat
    let nx := (g.sqFetch + 1) % 2 ^ g.sqLog2
    let ck := crc32c ((dw.toList.flatMap fun w => leBytes 4 w.toNat).take 60) (r.val * 65536 + g.sqFetch)
    (g.st ≠ .active ∨ g.reads = 0 → exec (.entryArrival r dw) s = .next s)
    ∧ (g.st = .active → g.reads ≠ 0 → w0.testBit 31 ≠ g.sqPhase → ∃ t, exec (.entryArrival r dw) s = .next t
      ∧ (t.ring r).st = .stopped ∧ (t.ring r).cause = 1 ∧ t.adm = s.adm
      ∧ (s.host.herr.length < 64 → t.host.herr = s.host.herr ++ [{ cause := 0x06, ring := r, part := g.part, index := g.sqFetch % 65536, frame := s.frame.no % 2 ^ 32 }]))
    ∧ (g.st = .active → g.reads ≠ 0 → w0.testBit 31 = g.sqPhase → ck ≠ dw[15].toNat → ∃ t, exec (.entryArrival r dw) s = .next t
      ∧ t.adm = s.adm ∧ (t.ring r).sqFetch = nx ∧ t.reg (Reg.CVU.FIX_MM 0) = (s.reg (Reg.CVU.FIX_MM 0) + 1) % 2 ^ (Reg.CVU.FIX_MM 0).width)
    ∧ (∀ e, g.st = .active → g.reads ≠ 0 → w0.testBit 31 = g.sqPhase → ck = dw[15].toNat → s.entryCheck r g.part dw.toList = some e →
      ∃ t, exec (.entryArrival r dw) s = .next t ∧ t.adm = s.adm ∧ (t.ring r).sqFetch = nx
        ∧ (g.batches = [] → w0 / 2 ^ 29 % 4 ≠ 2 → s.hostUp = true → s.artHost g.part .write = true → (s.part g.part).dirtyOn = false →
            ∃ b : List Byte, .hostWrite (s.part g.part).pasid (g.cqBase + 32 * g.cqTail) b ∈ t.outbound ∧ b.length = 32 ∧ (b.getD 2 0).toNat = e.status % 256))
    ∧ (g.st = .active → g.reads ≠ 0 → w0.testBit 31 = g.sqPhase → ck = dw[15].toNat → s.entryCheck r g.part dw.toList = none →
      ∃ t, exec (.entryArrival r dw) s = .next t ∧ t.adm.nextId = s.adm.nextId + 1 ∧ (g.batches = [] → w0 / 2 ^ 29 % 4 ≠ 2 → (t.ring r).batches = [])
        ∧ t.ring r = { g with reqs := arriveReq g.reqs, batches := (t.ring r).batches, sqFetch := nx, sqPhase := if nx = 0 then !g.sqPhase else g.sqPhase, ends := g.ends.filter (· ≠ nx) }
        ∧ ∃ i ∈ t.adm.items, i.id = s.adm.nextId + 1 ∧ i.part = g.part ∧ i.ring = r.val ∧ i.index = g.sqFetch ∧ i.cls = w0 / 65536 % 256
          ∧ i.desc = dw.toList ∧ i.f = s.frame.ticks ∧ i.place.unadmitted = true))
  ∧ (∀ (id : Nat) (data : List Byte) (i : Item) (k : Nat) (b : Bool) (s : State), s.item id = some i → i.place = .bound k b → i.inDone = false →
    (∀ e, s.slotEnt k = some e → ∃ t, exec (.inputReadComplete id data) s = .next t ∧ t = { s with ymem := t.ymem, adm := t.adm }
      ∧ t.item id = some { i with inDone := true }
      ∧ (let a := k / 64 * 0x40000 + 64 * (if b then e.bufB else e.bufA)
        (∀ n, n < i.inLen → SMap.get 0 t.ymem (a + n) = data.getD n 0) ∧ ∀ n, n < a ∨ a + i.inLen ≤ n → SMap.get 0 t.ymem n = SMap.get 0 s.ymem n))
    ∧ ∃ t, exec (.hostReadError (.input id)) s = .next t ∧ ∀ x ∈ t.adm.items, x.id ≠ id)
  ∧ (∀ (r : Fin 4096) (s : State), (s.ring r).st = .active → (s.ring r).reads ≠ 0 → ∃ t, exec (.hostReadError (.entry r)) s = .next t
    ∧ t.ring r = { s.ring r with st := .stopped, cause := 2, reqs := [], cqRsv := (s.ring r).cqRsv - (s.ring r).reads } ∧ IntSet t pgHost 2)
  ∧ (∀ (c : LinkLoss) (s : State), ∃ t, exec (.linkLost c) s = .next t ∧ t.hostUp = false
    ∧ (∀ r, (s.ring r).st ≠ .none → (t.ring r).st = .stopped ∧ (t.ring r).cause = 3) ∧ ∀ x ∈ t.adm.items, x.place.unadmitted = false)
  ∧ (∀ (w sp : Fin 16) (c : PcieCfg) (b : PcieBars) (s : State),
    let fine := (w.val = 1 ∨ w.val = 2 ∨ w.val = 4 ∨ w.val = 8) ∧ 1 ≤ sp.val ∧ sp.val ≤ 5
    (fine → ∃ t, exec (.linkUp w sp c b) s = .next t ∧ t.hostUp = true ∧ t.reg Reg.HOSTIF.DL_UP = 1
      ∧ t.reg Reg.HOSTIF.WIDTH = w ∧ t.reg Reg.HOSTIF.SPEED = sp ∧ t.reg Reg.HOSTIF.MPS = c.mps ∧ t.reg Reg.HOSTIF.MRRS = c.mrrs ∧ IntSet t pgHost 0
      ∧ Shown { s with host := { s.host with linkUp := true, bme := true, d3hot := false, cfg := c, bars := b } } t)
    ∧ (¬ fine → exec (.linkUp w sp c b) s = .next s))
  ∧ (∀ (bar off size : Nat) (wr : Bool) (s : State),
    let fine := (bar = 0 ∧ (size = 4 ∨ size = 8) ∧ off % size = 0) ∨ (bar = 2 ∧ size = 4 ∧ off % 4 = 0)
    (fine → exec (.barUnsupportedAccess bar off size wr) s = .next s)
    ∧ (¬ fine → exec (.barUnsupportedAccess bar off size wr) s = .next { s with
        host := { s.host with aer := if wr = true ∧ s.host.aer = none then some { bar := bar, off := off, size := size } else s.host.aer }, outbound := s.outbound ++ [.unsupported bar off wr] }))

/-- With no command in progress, a command of the PART page for a partition in a state that allows it becomes the command in progress: BUSY is set and DONE clear, its kind, partition, values and the tick are kept for its guard, no other partition changes, and with the pair PAIRED the first five are put into a configuration message for the guard of the frame after next. CREATE of an absent partition with values that pass the checks takes its resources at once as PENDING; QUIESCE makes an active partition QUIESCING; RESET of a QUIESCED partition and DESTROY of a QUIESCED or EXPORTED one make it CLEARING. A command in progress refuses every other with 0x77. CREATE is refused with the first cause of its checks; QUIESCE, RESUME and the dirty commands of a partition that does not serve with 0x71, RESUME of a QUIESCING one with 0x02, RESET and DESTROY with 0x70, and a dirty span of 0 or not a multiple of 64 with 0x01. -/
def Obligations.PartitionCommandsAreAccepted : Prop :=
  ∀ s : State,
    let p := s.reg Reg.PART.PART_SEL
    let v := s.part p
    let accepted (i : Instr) (op : Nat) (q mir : Bool) (res : List Nat) (w : Part) : Prop := ∃ t, exec i s = .next t
      ∧ t.part p = w ∧ (∀ k, k ≠ p → t.part k = s.part k) ∧ t.reg Reg.PART.BUSY = 1 ∧ t.reg Reg.PART.DONE = 0
      ∧ t.parts.cmd = some { op := op, part := p, tick := s.frame.ticks, q := q, res := res, mirrored := mir && s.stay.pstate == 1 }
      ∧ (mir = false ∨ s.stay.pstate ≠ 1 → t = { s with parts := t.parts, rf := t.rf, hdr := t.hdr })
      ∧ (mir = true → s.stay.pstate = 1 → ∃ m, t.stay.cfg = s.stay.cfg ++ [m] ∧ m.atTick = s.frame.ticks + 2 ∧ m.cmd = .part op p q res)
    let res := [s.reg Reg.PART.PASID, s.reg Reg.PART.RING_QUOTA, s.reg Reg.PART.CLEAT_QUOTA, s.reg Reg.PART.OPM_BASE, s.reg Reg.PART.OPM_SLOT_LEN,
      s.reg Reg.PART.OPM_SLOTS, s.reg Reg.PART.VEC_BASE, s.reg Reg.PART.VEC_COUNT]
    let new : Part := Part.ofRes .pending res
    let span := s.reg Reg.PART.DIRTY_SPAN
    let live := v.st = .active ∨ v.st = .quiescing ∨ v.st = .quiesced
    let addr (lo hi : Field) := s.reg lo * 4096 + s.reg hi * 2 ^ 32
    (s.parts.cmd.isSome = true → ∀ i ∈ ([.partCreate true, .partCreate false, .quiesce, .resume, .partReset, .destroy, .dirtyStart, .dirtySwap, .dirtySync, .dirtyStop] : List Instr),
      Refused i s pgPart 0x77)
    ∧ (s.parts.cmd = none → ∀ q,
      (s.createErr p new = none → accepted (.partCreate q) 1 q true res new)
      ∧ (∀ e, s.createErr p new = some e → Refused (.partCreate q) s pgPart e)
      ∧ (s.mode ≠ .operational → s.mode ≠ .maintenance → Refused (.partCreate q) s pgPart 0x72)
      ∧ (s.mode = .operational → v.st ≠ .none → Refused (.partCreate q) s pgPart 0x71)
      ∧ (s.mode = .operational → v.st = .none → 64 < s.reg Reg.PART.RING_QUOTA ∨ s.reg Reg.PART.VEC_COUNT = 0 ∨ s.reg Reg.PART.OPM_SLOT_LEN < 4 → Refused (.partCreate q) s pgPart 0x01))
    ∧ (s.parts.cmd = none →
      (v.st = .active → accepted .quiesce 2 false true [] { v with st := .quiescing })
      ∧ (v.st = .quiescing ∨ v.st = .quiesced → accepted .quiesce 2 false true [] v)
      ∧ (v.st = .quiesced ∨ v.st = .active → accepted .resume 3 false true [] v)
      ∧ (v.st = .quiescing → Refused .resume s pgPart 0x02)
      ∧ (v.st = .quiesced → accepted .partReset 4 false true [] { v with st := .clearing })
      ∧ (v.st = .quiesced ∨ v.st = .exported → accepted .destroy 5 false true [] { v with st := .clearing })
      ∧ (¬ live → Refused .quiesce s pgPart 0x71 ∧ Refused .resume s pgPart 0x71 ∧ Refused .dirtyStart s pgPart 0x71 ∧ Refused .dirtySwap s pgPart 0x71
          ∧ Refused .dirtySync s pgPart 0x71 ∧ Refused .dirtyStop s pgPart 0x71)
      ∧ (v.st ≠ .quiesced → Refused .partReset s pgPart 0x70 ∧ (v.st ≠ .exported → Refused .destroy s pgPart 0x70))
      ∧ (live → (span = 0 ∨ span % 64 ≠ 0 → Refused .dirtyStart s pgPart 0x01)
        ∧ (span ≠ 0 → span % 64 = 0 → accepted .dirtyStart 6 false false
            [addr Reg.PART.DIRTY_A_LO Reg.PART.DIRTY_A_HI, addr Reg.PART.DIRTY_B_LO Reg.PART.DIRTY_B_HI, span] v)
        ∧ accepted .dirtySwap 7 false false [] v ∧ accepted .dirtySync 8 false false [] v ∧ accepted .dirtyStop 9 false false [] v))

/-- EXPORT of a QUIESCED partition with no dirty logging and no pending write, with room for the blob and wire rill 3 serving, writes header, sealed body and signature to the host and leaves the partition EXPORTED with the command done, or PAIRED puts the change into a configuration message and stays in progress; with too little room it fails with 0x78, where the host write fails with 0x7D, where the rill refuses under 0xB6 of NARIS. IMPORT into a QUIESCED partition without rows fails with 0x7D where the blob cannot be read and with the code of the first failing check; where they pass, each recorded ring takes its indices and each entry is queued for the next guard at its recorded row, as Naris writes it. Both are refused with 0x77 while a command is in progress, EXPORT with 0x70 and IMPORT with 0x71 in another state. DIRTY_MERGE takes the oldest word of the record and, where the host may be reached, writes it back ORed into what it read. -/
def Obligations.BlobsAndDirtyPagesMove : Prop :=
  (∀ (ok : Bool) (s : State),
    let p := s.reg Reg.PART.PART_SEL
    let v := s.part p
    let failed (t : State) (c : Nat) := t.part p = v ∧ t.parts.cmd = none ∧ (t.hd pgPart).errCode = c ∧ IntSet t pgPart 4 ∧ t.reg Reg.PART.DONE = 1
    let blob := s.blobBytes p (randBytes s.free 12)
    let n := blob.length + 2420
    (s.parts.cmd.isSome = true → Refused (.exportBlob ok) s pgPart 0x77)
    ∧ (s.parts.cmd = none → v.st ≠ .quiesced ∨ v.dirtyOn = true ∨ s.writePendingOf p = true → Refused (.exportBlob ok) s pgPart 0x70)
    ∧ (s.parts.cmd = none → v.st = .quiesced → v.dirtyOn = false → s.writePendingOf p = false →
      (s.reg Reg.PART.BLOB_LEN < n → ∃ t, exec (.exportBlob ok) s = .next t ∧ failed t 0x78)
      ∧ (n ≤ s.reg Reg.PART.BLOB_LEN → s.rillServes 323 = false → ∃ t, exec (.exportBlob ok) s = .next t ∧ t.part p = v ∧ t.parts.cmd = none
          ∧ t.reg Reg.PART.DONE = 1 ∧ IntSet t pgPart 4 ∧ (t.hd pgNaris).errCode = 0xB6)
      ∧ (n ≤ s.reg Reg.PART.BLOB_LEN → s.rillServes 323 = true → ∃ t, exec (.exportBlob ok) s = .next t ∧ match identitySign "OXBLOB" (sha3_256 blob) with
        | none => t.part p = v ∧ t.parts.cmd = none ∧ IntSet t pgPart 4
        | some g =>
          (ok = false ∨ s.hostUp = false ∨ s.artHost p .write = false → failed t 0x7D)
          ∧ (ok = true → s.hostUp = true → s.artHost p .write = true →
            (s.stay.pstate ≠ 1 → t.part p = { v with st := .exported } ∧ t.parts.cmd = none ∧ t.reg Reg.PART.DONE = 1)
            ∧ (s.stay.pstate = 1 → t.part p = v ∧ t.parts.cmd = some { op := 10, part := p, tick := s.frame.ticks, mirrored := true } ∧ t.reg Reg.PART.BUSY = 1
              ∧ t.stay.cfg = s.stay.cfg ++ [{ atTick := s.frame.ticks + 2, lower := s.lowerTwin, cmd := .exported p }])
            ∧ t.reg Reg.PART.BLOB_OUT_LEN = n % 2 ^ Reg.PART.BLOB_OUT_LEN.width
            ∧ .hostWrite v.pasid (s.reg Reg.PART.BLOB_ADDR_LO + 2 ^ 32 * s.reg Reg.PART.BLOB_ADDR_HI) (blob ++ g) ∈ t.outbound))))
  ∧ (∀ (blob : Option (List Byte)) (s : State),
    let p := s.reg Reg.PART.PART_SEL
    let v := s.part p
    let failed (t : State) (c : Nat) := t.part p = v ∧ t.parts.cmd = none ∧ (t.hd pgPart).errCode = c % 256 ∧ IntSet t pgPart 4 ∧ t.reg Reg.PART.DONE = 1
    (s.parts.cmd.isSome = true → Refused (.importBlob blob) s pgPart 0x77)
    ∧ (s.parts.cmd = none → v.st ≠ .quiesced ∨ s.partRows p ≠ 0 → Refused (.importBlob blob) s pgPart 0x71)
    ∧ (s.parts.cmd = none → v.st = .quiesced → s.partRows p = 0 →
      (blob = none ∨ s.hostUp = false ∨ s.artHost p .read = false → ∃ t, exec (.importBlob blob) s = .next t ∧ failed t 0x7D)
      ∧ (∀ b, blob = some b → s.hostUp = true → s.artHost p .read = true →
        let d := s.blobCheck p (fitBytes (s.reg Reg.PART.BLOB_LEN) b) (randBytes s.free 16)
        (∀ c, d = .error c → ∃ t, exec (.importBlob blob) s = .next t ∧ failed t c)
        ∧ (∀ rs es, d = .ok (rs, es) → ∃ t, exec (.importBlob blob) s = .next t
          ∧ t.part p = v ∧ t.parts.cmd = some { op := 11, part := p, tick := s.frame.ticks } ∧ t.reg Reg.PART.BUSY = 1
          ∧ t.cleat.pending = s.cleat.pending ++ (es.map fun x => ({
              head := x.1, rows := x.2.2.rows, writer := .naris,
              op := .create { x.2.2 with mirror := if s.paired then 2 else 0, vaulted := false, ckpt := none, ckptPend := none } } : CleatWrite))
          ∧ (∀ k, k ∉ rs.map (·.ring) → t.ring k = s.ring k)
          ∧ ((rs.map (·.ring)).Nodup → ∀ r ∈ rs, t.ring r.ring = { s.ring r.ring with
              sqFetch := r.sqFetch, sqTail := r.sqTail, cqTail := r.cqTail, cqHead := r.cqHead, cqPhase := r.cqPhase, sqPhase := r.sqPhase })))))
  ∧ (∀ (old : BitVec 64) (s : State),
    (s.parts.merge = [] → exec (.dirtyMerge old) s = .next s)
    ∧ (∀ w rest, s.parts.merge = w :: rest →
      let v := s.part w.part
      let addr := (if w.inB then v.dirtyAddrB else v.dirtyAddrA) + 8 * w.word
      let back := Out.hostWrite v.pasid addr (leBytes 8 (old.toNat ||| w.bits))
      let may := s.hostUp = true ∧ s.artHost w.part .read = true ∧ s.artHost w.part .write = true
      ∃ t, exec (.dirtyMerge old) s = .next t ∧ t.parts.merge = rest ∧ t.parts.tab = s.parts.tab ∧ (may → back ∈ t.outbound)
        ∧ (s.parts.waitWrites = [] → t.parts.acc = s.parts.acc ∧ t.outbound = s.outbound ++ (if may then [back] else []))))

/-- FRAME_TICK does nothing before the frame timer runs. Then it numbers the frame one higher modulo 2^48, or as loaded, keeps FRAME_HWM more than 2^16 above it, counts the tick, starts the cycle count, reports TICK, and puts in effect a committed rule table, committed owner and binding tables (with no other configuration waiting) and a loaded rig whose TAKE_FRAME has come, with its frame length. LOAD takes a number above FRAME_NO for the next tick and raises FRAME_HWM; it is refused with 0x20 for a lower one and 0x21 while the twin is the source. FSYNC_IN_EDGE counts only with source 1 and sets LOCKED by the phase less FSYNC_SKEW; the trim stays within 100 ppm (the model's choice, log entry 29). ALIGN_LOST after three frames without an edge, or with the twin lost, clears LOCKED and leaves slewing only. TICK_STEP works once, before the first rig takes effect. -/
def Obligations.TicksNumberFramesAndSwapTables : Prop :=
  (∀ s : State, (s.frame.running = false → exec .frameTick s = .next s)
    ∧ (s.frame.running = true → ∃ t, exec .frameTick s = .next t ∧ t.frame.ticks = s.frame.ticks + 1 ∧ t.frame.cycle = 100 ∧ t.frame.first = false ∧ t.frame.load = none ∧ t.frame.prev = s.frame.no ∧ t.pins.fsyncOut = false
      ∧ (∀ v, s.frame.load = some v → t.frame.no = v)
      ∧ (s.frame.load = none → s.frame.first = false → t.frame.no = (s.frame.no + 1) % 2 ^ 48)
      ∧ t.frame.no + 2 ^ 16 < t.frame.hwm ∧ s.frame.hwm ≤ t.frame.hwm ∧ IntSet t pgFrame 0
      ∧ (s.art.commit = true → t.art.act = s.art.sh ∧ t.art.commit = false)
      ∧ (s.adm.commit = true → s.stay.cfg = [] → s.parts.cmd = none → s.stay.twinCfg = none →
          t.adm.owner = s.adm.ownerSh ∧ t.adm.binding = s.adm.bindingSh ∧ t.adm.commit = false)
      ∧ (∀ src r, s.rig.ready = some (src, r) → s.takeFrame ≤ t.frame.no → t.rig.eff = some r ∧ t.rig.ready = none ∧ t.frame.len = r.frameLen ∧ IntSet t pgFrame 4)))
  ∧ (∀ s : State,
    let v := s.reg Reg.FRAME.FRAME_LOAD_LO + 2 ^ 32 * s.reg Reg.FRAME.FRAME_LOAD_HI
    let src := s.reg Reg.FRAME.SOURCE
    (v ≤ s.frame.no → Refused .load s pgFrame 0x20) ∧ (s.frame.no < v → src = 2 → Refused .load s pgFrame 0x21)
    ∧ (s.frame.no < v → src ≠ 2 → exec .load s = .next { s with frame := { s.frame with load := some v, hwm := max s.frame.hwm (v + 2 ^ 17) } })
    ∧ (src = 0 ∨ s.frame.stepped = true ∨ s.rig.eff.isSome = true → exec .tickStep s = .next s)
    ∧ (src ≠ 0 → s.frame.stepped = false → s.rig.eff = none → ∃ t, exec .tickStep s = .next t ∧ t = { s with frame := { s.frame with stepped := true }, rf := t.rf, hdr := t.hdr }
        ∧ t.reg Reg.FRAME.LOCKED = 1 ∧ t.reg Reg.FRAME.PHASE_ERR = 0)
    ∧ (src = 1 → 3 ≤ s.frame.noRef → ∃ t, exec (.alignLost false) s = .next t ∧ Shown { s with frame := { s.frame with stepped := true } } t ∧ t.reg Reg.FRAME.LOCKED = 0 ∧ IntSet t pgFrame 3)
    ∧ (src = 2 → s.stay.pstate = 3 → ∃ t, exec (.alignLost true) s = .next t ∧ Shown { s with frame := { s.frame with stepped := true } } t ∧ t.reg Reg.FRAME.LOCKED = 0 ∧ IntSet t pgFrame 3)
    ∧ (src ≠ 1 ∨ s.frame.noRef < 3 → exec (.alignLost false) s = .next s) ∧ (src ≠ 2 ∨ s.stay.pstate ≠ 3 → exec (.alignLost true) s = .next s))
  ∧ (∀ (phase : Int) (s : State), (s.reg Reg.FRAME.SOURCE ≠ 1 → exec (.fsyncInEdge phase) s = .next s)
    ∧ (s.reg Reg.FRAME.SOURCE = 1 → ∃ t, exec (.fsyncInEdge phase) s = .next t
      ∧ t = { s with frame := { s.frame with noRef := 0 }, free := s.free + 1, rf := t.rf, hdr := t.hdr }
      ∧ (let e := phase - fieldInt 16 (s.reg Reg.FRAME.FSYNC_SKEW)
        (t.reg Reg.FRAME.LOCKED = if e.natAbs ≤ s.reg Reg.FRAME.ALIGN_LIMIT then 1 else 0)
        ∧ (-32768 ≤ e → e ≤ 32767 → fieldInt 16 (t.reg Reg.FRAME.PHASE_ERR) = e))
      ∧ -100 ≤ fieldInt 8 (t.reg Reg.FRAME.TRIM) ∧ fieldInt 8 (t.reg Reg.FRAME.TRIM) ≤ 100))

/-- SLOT_START of an admitted item on an idle Sheave runs it from the slot's start: a new item at ENTRY with the message buffer in A0, IN_LEN in D0, A7 at 0x18000 and the other registers 0, a carried one with the registers it had. At the EGRESS window an item that carries within its limit parks and keeps its slot; otherwise it leaves: with the status and output it posted, with status 0x14 and the earliest fault's result if it faulted, with 0x12 where it carries in its last frame, or with 0x03 where it posted nothing. HELD_COMPLETION_RELEASE writes a held completion once nothing is waited for. AUDIT_FOLD folds the links of ended frames into the head of a chain. COMMIT is refused with 0x03 while one is pending, with 0x04 for a partition that does not exist and 0x05 for a ring of another; otherwise it waits for its guard. ADMIT_ENABLE starts admission, which waits for mode, rig and store, or stops it, and is refused with 0x02 while it stops. -/
def Obligations.ItemsStartEndAndCommit : Prop :=
  (∀ (y n : Fin 64) (i : Item) (e : SlotEnt) (c : ClassEnt) (s : State),
    let k := y.val * 64 + n.val
    let sh := s.sheave y e.lsheave
    s.runner k = some i → s.slotEnt k = some e → s.classEnt i.cls = some c →
    (sh.run ≠ .idle → exec (.slotStart y n) s = .next s)
    ∧ (sh.run = .idle → ∃ t, exec (.slotStart y n) s = .next t ∧ t = { s with frame := { s.frame with cycle := max s.frame.cycle e.start }, sheaves := t.sheaves }
      ∧ (∀ z l, z * 16 + l ≠ y.val * 16 + e.lsheave → t.sheave z l = s.sheave z l)
      ∧ (let v := t.sheave y e.lsheave
        v.run = .running ∧ v.slot = k ∧ v.item = i.id ∧ v.cpu.cyc = (4 * e.start + 4) / 5 ∧ v.stop = (4 * s.egressAt k + 4) / 5
        ∧ (i.frames ≤ 1 → v.port = {} ∧ v.cpu = {
            pc := BitVec.ofNat 32 c.entry, cyc := v.cpu.cyc, d := (Vector.replicate 16 0).set 0 (BitVec.ofNat 32 i.inLen),
            a := ((Vector.replicate 8 0).set 0 (BitVec.ofNat 32 (0x100000 + 64 * (if i.place.bufB then e.bufB else e.bufA)))).set 7 0x18000 })
        ∧ (1 < i.frames → v.port = sh.port ∧ v.cpu = { sh.cpu with cyc := v.cpu.cyc }))))
  ∧ (∀ (y n : Fin 64) (err : SeqErr) (s : State), s.runner (y.val * 64 + n.val) = none ∨ s.slotEnt (y.val * 64 + n.val) = none →
      exec (.slotStart y n) s = .next s ∧ exec (.egressStart y n err) s = .next s)
  ∧ (∀ (y n : Fin 64) (err : SeqErr) (i : Item) (e : SlotEnt) (c : ClassEnt) (s : State),
    let k := y.val * 64 + n.val
    let g := s.ring i.ring
    let done (status : Nat) (result : List Byte → Prop) : Prop := ∃ t b, exec (.egressStart y n err) s = .next t
      ∧ .hostWrite (s.part g.part).pasid (g.cqBase + 32 * g.cqTail) b ∈ t.outbound
      ∧ b.length = 32 ∧ (b.getD 2 0).toNat = status % 256 ∧ result ((b.drop 20).take 8)
    let ends := i.outstanding = true ∨ i.carriedNow = false ∨ c.carryLimit ≤ i.frames ∨ i.sfault ≠ none ∨ i.ufault ≠ none
    s.runner k = some i → s.slotEnt k = some e → s.classEnt i.cls = some c →
    (¬ ends → ∃ t, exec (.egressStart y n err) s = .next t ∧ (t.sheave y e.lsheave).run = .idle
        ∧ ∃ x ∈ t.adm.items, x.id = i.id ∧ x.carriedEver = true ∧ x.place = .parked k i.place.bufB)
    ∧ (ends → ∃ t, exec (.egressStart y n err) s = .next t ∧ (t.sheave y e.lsheave).run = .idle ∧ ∀ x ∈ t.adm.items, x.id ≠ i.id)
    ∧ (s.hostUp = true → g.st = .active → g.batches = [] → s.waitsOf i = [] → g.part = i.part → s.artHost i.part .write = true → (s.part i.part).dirtyOn = false →
      (ends → err = .unit → done 0x14 fun _ => True)
      ∧ (err ≠ .unit →
        (∀ f, i.sfault = some f → (∀ u ∈ i.ufault, f.1 ≤ u.1) → done 0x14 fun r => r = fitBytes 8 f.2)
        ∧ (∀ u, i.ufault = some u → (∀ f ∈ i.sfault, u.1 < f.1) → done 0x14 fun r => r = fitBytes 8 u.2)
        ∧ (i.sfault = none → i.ufault = none →
          (i.outstanding = true → done 0x14 fun _ => True)
          ∧ (i.outstanding = false →
            (i.carriedNow = true → c.carryLimit ≤ i.frames → done 0x12 fun _ => True)
            ∧ (i.carriedNow = false → i.posted = none → done 0x03 fun _ => True)
            ∧ (∀ p l, i.carriedNow = false → i.posted = some p → i.latch = some l → done l.2 fun r => r = List.replicate 8 0)
            ∧ (∀ p, i.carriedNow = false → i.posted = some p → i.latch = none →
              let reads := 0 < p.len ∨ 2 ^ 31 ≤ c.service
              (err = .ue → reads → done 0x14 fun r => r = [0x24, 2, BitVec.ofNat 8 (s.physSheave y e.lsheave), BitVec.ofNat 8 y.val] ++ List.replicate 4 0)
              ∧ (err ≠ .ue ∨ ¬ reads → done p.status (fun r => r = fitBytes 8 p.result)
                ∧ ∃ t, exec (.egressStart y n err) s = .next t ∧ (0 < p.len →
                  .hostWrite (s.part i.part).pasid i.outAddr (s.ymemRead y (64 * (if i.place.bufB then e.bufB else e.bufA) + c.maxIn) p.len) s.host.cfg.relaxed
                    ∈ t.outbound))))))))
  ∧ (∀ (id : Nat) (s : State),
    (∀ h, (s.host.held.find? fun x => x.item == id) = some h → (h.waits ≠ [] → exec (.heldCompletionRelease id) s = .next s)
      ∧ (h.waits = [] → ∃ t, exec (.heldCompletionRelease id) s = .next t ∧ t.host.held = (s.host.held.filter fun x => x.item ≠ id)
        ∧ (let g := s.ring h.ring
          s.hostUp = true → g.st = .active → g.batches = [] → s.artHost g.part .write = true → (s.part g.part).dirtyOn = false →
            ∃ b : List Byte, .hostWrite (s.part g.part).pasid (g.cqBase + 32 * g.cqTail) b ∈ t.outbound ∧ b.length = 32 ∧ (b.getD 2 0).toNat = h.ended.status % 256)))
    ∧ ((∀ h ∈ s.host.held, h.item ≠ id) → exec (.heldCompletionRelease id) s = .next s))
  ∧ (∀ s : State, ∃ t, exec .auditFold s = .next t ∧ t.adm = s.adm ∧ t.host.rings = s.host.rings
    ∧ (SMap.wf {} s.parts.tab = true → ∀ p, ∀ l ∈ (t.part p).links, l.frame = s.frame.no)
    ∧ (∀ p l, SMap.wf {} s.parts.tab = true → (s.part p).links = [l] → l.frame ≠ s.frame.no → t.part p = { s.part p with
        links := [], headFrame := l.frame, head := sha3_256 (ascii "OXFOLD" ++ (s.part p).head ++ leBytes 8 l.frame ++ leBytes 2 1 ++ l.link) }))
  ∧ (∀ s : State,
    let a := s.adm
    let h := s.hd pgAdmit
    let here (p : Nat) := (s.part p).st ≠ .none
    (a.commit = true → Refused .commit s pgAdmit 0x03)
    ∧ (∀ x ∈ a.ownerSh, a.commit = false → ¬ here (x.2 - 1) → Refused .commit s pgAdmit 0x04)
    ∧ (∀ x ∈ a.bindingSh, a.commit = false → ¬ here (x.1 / 256) → Refused .commit s pgAdmit 0x04)
    ∧ (a.commit = false → (∀ x ∈ a.ownerSh, here (x.2 - 1)) → (∀ x ∈ a.bindingSh, here (x.1 / 256)) →
      (∀ x ∈ a.bindingSh, (s.ring (x.2 - 1)).st = .none ∨ (s.ring (x.2 - 1)).part ≠ x.1 / 256 → Refused .commit s pgAdmit 0x05)
      ∧ ((∀ x ∈ a.bindingSh, (s.ring (x.2 - 1)).st ≠ .none ∧ (s.ring (x.2 - 1)).part = x.1 / 256) → s.stay.pstate ≠ 1 →
          exec .commit s = .next ({ s with adm := { a with commit := true } }.setReg Reg.ADMIT.PENDING 1))
      ∧ ((∀ x ∈ a.bindingSh, (s.ring (x.2 - 1)).st ≠ .none ∧ (s.ring (x.2 - 1)).part = x.1 / 256) → s.stay.pstate = 1 →
          ∃ t, exec .commit s = .next t ∧ t.adm = { a with commit := true } ∧ t.reg Reg.ADMIT.PENDING = 1
            ∧ t.stay.cfg = s.stay.cfg ++ [{ atTick := s.frame.ticks + 2, lower := s.lowerTwin, cmd := .commit a.ownerSh a.bindingSh }]))
    ∧ (h.st = 3 → Refused (.admitEnable true) s pgAdmit 0x02)
    ∧ (let ready := (s.mode = .operational ∨ s.mode = .degraded) ∧ s.rig.eff ≠ none ∧ s.cleat.ready = true
      h.st = 0 → exec (.admitEnable true) s = .next (s.setHd pgAdmit { h with enable := true, st := if ready then 2 else 1 }))
    ∧ (h.st ≠ 0 → h.st ≠ 3 → exec (.admitEnable true) s = .next s)
    ∧ (h.st ≠ 1 → h.st ≠ 2 → exec (.admitEnable false) s = .next s)
    ∧ (h.st = 1 ∨ h.st = 2 → (∀ i ∈ a.items, i.place.unadmitted = true) → exec (.admitEnable false) s = .next (s.setHd pgAdmit { h with enable := false, st := 0 }))
    ∧ (∀ i ∈ a.items, h.st = 1 ∨ h.st = 2 → i.place.unadmitted = false → exec (.admitEnable false) s = .next (s.setHd pgAdmit { h with enable := false, st := 3 })))

/-- STAGE is refused with 0x18 outside MAINTENANCE; there the slot is checked against STAGE_HASH and STAGE_STATE becomes VERIFYING. RIG_STAGE_DONE shows STAGED with the load frames, or FAILED with the code and the place of the failing check. ACTIVATE of a staged rig makes its slot and hash the active ones of the next option generation and keeps the previous active ones as the fallback; it is refused with 0x19. RIG_LOAD, once it may start, loads the active slot if it passes its checks, else the fallback, which RIG_FALLBACK_USED shows; ERR_CODE and ERR_INFO keep the failing check of the active slot; if neither passes, a boot holds in MAINTENANCE with NO_RIG. RIG_LOAD_DONE fills every Sheave's instruction memory with its code image, the data memory with its table bytes and zeros elsewhere, loads both units' microprograms, switches the yards on, and leaves the rig ready for its guard. -/
def Obligations.RigsAreStagedAndLoaded : Prop :=
  (∀ (src : Fin 2) (s : State),
    (s.mode ≠ .maintenance → Refused (.stage src) s pgFrame 0x18 ∧ Refused (.activate src) s pgFrame 0x19)
    ∧ (s.mode = .maintenance → ∃ t, exec (.stage src) s = .next t ∧ t.reg Reg.FRAME.STAGE_STATE = 1 ∧ t = { s with rf := t.rf, rig := { s.rig with staged := none, staging :=
        (match s.checkSlot src ((List.range 8).flatMap fun i => leBytes 4 (s.reg (Reg.FRAME.STAGE_HASH i))) with
          | .ok r => some (src.val, some r, 0, 0)
          | .error e => some (src.val, none, e.1, e.2)) } })
    ∧ (s.rig.staged = none → Refused (.activate src) s pgFrame 0x19)
    ∧ (∀ slot r, s.mode = .maintenance → s.rig.staged = some (slot, r) → let o := s.optNext
        exec (.activate src) s = .next { s with flash := { s.flash with optWrite := some { o with
          rigActive := slot, rigActiveHash := r.hash, rigFallback := o.rigActive, rigFallbackHash := o.rigActiveHash } } }))
  ∧ (∀ s : State,
    (s.rig.staging = none → exec .rigStageDone s = .next s)
    ∧ (∀ src r a b, s.rig.staging = some (src, some r, a, b) → src < 2 → ∃ t, exec .rigStageDone s = .next t
      ∧ Shown { s with rig := { s.rig with staging := none, staged := some (src, r) } } t ∧ t.reg Reg.FRAME.STAGE_STATE = 2
      ∧ t.reg Reg.FRAME.STAGE_SRC = src ∧ IntSet t pgFrame 1)
    ∧ (∀ src a b, s.rig.staging = some (src, none, a, b) → src < 2 → ∃ t, exec .rigStageDone s = .next t
      ∧ Shown { s with rig := { s.rig with staging := none } } t ∧ t.reg Reg.FRAME.STAGE_STATE = 3 ∧ t.reg Reg.FRAME.STAGE_SRC = s.reg Reg.FRAME.STAGE_SRC
      ∧ (t.hd pgFrame).errCode = a % 256 ∧ (t.hd pgFrame).errInfo = b % 2 ^ 32 ∧ IntSet t pgFrame 2)
    ∧ (s.rigMayLoad = false → exec .rigLoad s = .next s)
    ∧ (s.rigMayLoad = true → ∃ t, exec .rigLoad s = .next t ∧
      let o := s.flash.opt
      let check (n : Nat) (h : List Byte) := if n < 2 then (s.checkSlot n h).toOption else none
      let loads (slot : Nat) (r : Rig) := t.rig = { s.rig with due := false, loading := some (slot, r) }
        ∧ (s.paired = false → t = { s with rf := t.rf, hdr := t.hdr, rig := t.rig })
        ∧ (s.paired = true → t.stay.rigOwn = some (s.frame.no + r.loadFrames + 1))
      match check o.rigActive o.rigActiveHash with
      | some r => loads o.rigActive r
      | none =>
        (∀ e, o.rigActive < 2 → s.checkSlot o.rigActive o.rigActiveHash = .error e →
          (t.hd pgFrame).errCode = e.1 % 256 ∧ (t.hd pgFrame).errInfo = e.2 % 2 ^ 32)
        ∧ match check o.rigFallback o.rigFallbackHash with
        | some r => loads o.rigFallback r ∧ t.reg Reg.GLOBAL.RIG_FALLBACK_USED = 1
        | none => t.rig = { s.rig with due := false } ∧ (s.glob.booted = false → t.mode = .maintenance ∧ t.reg Reg.GLOBAL.BOOT_HOLD = 4)
            ∧ (s.glob.booted = true → t.glob.change = some { target := .maintenance, cause := .device, orderly := false, failed := true }))
    ∧ (s.rig.loading = none → exec .rigLoadDone s = .next s)
    ∧ (∀ src r, s.rig.loading = some (src, r) →
      ∃ t, exec .rigLoadDone s = .next t ∧ t.rig = { s.rig with loading := none, ready := some (src, r) } ∧ t.bne.micro = r.bneMicro ∧ t.pu.micro = r.puMicro
        ∧ (∀ y, y < 64 → (t.hd (pgYard y)).st = 2) ∧ ((∀ z ∈ r.tables, 1 < z.kind) → t.ymem = s.ymem)
        ∧ ((∀ y l p, y < 64 → l < 16 → (s.yard y).phys l = some p → p < 17 ∧ ∀ m, m < 16 → (s.yard y).phys m = some p → m = l) →
          (∀ y l, (r.image y l).length ≤ 0x8000) → (∀ z ∈ r.tables, z.kind = 2 → z.off + z.data.length ≤ 0x8000) →
          ∀ y l p k, y < 64 → l < 16 → (s.yard y).phys l = some p → k < 0x8000 →
            let hit (z : TableRec) := z.kind = 2 ∧ z.off ≤ k ∧ k < z.off + z.data.length
            SMap.get 0 t.iram (ramBase y p + k) = (r.image y l).getD k 0
            ∧ ((∀ z ∈ r.tables, ¬ hit z) → SMap.get 0 t.dram (ramBase y p + k) = 0)
            ∧ (∀ x ∈ r.tables, hit x → (∀ z ∈ r.tables, hit z → z = x) → SMap.get 0 t.dram (ramBase y p + k) = x.data.getD (k - x.off) 0))))

/-- While FW_CMD is busy its commands are refused with 0xB5; FW_STAGE and FW_ACTIVATE outside MAINTENANCE with 0x18, FW_STAGE of the running bank with 0x01, FW_ACTIVATE without a staged image with 0x19. FW_STAGE shows the bank, its version and STAGED, or FAILED. FW_ACTIVATE makes the staged bank the active one of the next option generation, with the fallback armed and the XO regions of the image; CONFIRM disarms the fallback. RAISE_FW and RAISE_RIG, in MAINTENANCE and OPERATIONAL alone, raise the floor of the next generation to the version that runs and never lower it. ATTEST of the termination statement shows it; any other statement is the body of the moment with the signature that the identity key gives, and KEM_EXT keeps the fresh decapsulation seed; a refusing rill gives RNG_REFUSED and no statement. -/
def Obligations.FirmwareFloorsAndAttestation : Prop :=
  (∀ (b : Fin 2) (s : State),
    let o := s.optNext
    let fwBusy := s.reg Reg.NARIS.FW_BUSY ≠ 0
    let writes (f : OptArea) : State := { s with flash := { s.flash with optWrite := some f } }
    let floors := s.mode = .maintenance ∨ s.mode = .operational
    (fwBusy → Refused (.fwStage b) s pgNaris 0xB5 ∧ Refused (.fwActivate b) s pgNaris 0xB5 ∧ Refused .confirm s pgNaris 0xB5)
    ∧ (¬ fwBusy →
      (s.mode ≠ .maintenance → Refused (.fwStage b) s pgNaris 0x18 ∧ Refused (.fwActivate b) s pgNaris 0x18)
      ∧ (s.mode = .maintenance → b.val = s.reg Reg.NARIS.RUN_BANK → Refused (.fwStage b) s pgNaris 0x01)
      ∧ (s.mode = .maintenance → b.val ≠ s.reg Reg.NARIS.RUN_BANK → ∃ t, exec (.fwStage b) s = .next t ∧ IntSet t pgNaris 1 ∧ t.reg Reg.NARIS.STAGE_SRC = b.val
        ∧ match s.fwCheck b with
          | some f => t.reg Reg.NARIS.FW_STAGE = 2 ∧ t.reg Reg.NARIS.STAGE_VERSION = f.version % 2 ^ 32 ∧ Shown { s with glob := { s.glob with fwXo := f.xo } } t
          | none => t.reg Reg.NARIS.FW_STAGE = 3 ∧ t.reg Reg.NARIS.STAGE_VERSION = 0 ∧ Shown s t)
      ∧ (s.mode = .maintenance → s.reg Reg.NARIS.FW_STAGE ≠ 2 → Refused (.fwActivate b) s pgNaris 0x19)
      ∧ (s.mode = .maintenance → s.reg Reg.NARIS.FW_STAGE = 2 → exec (.fwActivate b) s
          = .next ((writes { o with fwActive := s.reg Reg.NARIS.STAGE_SRC, fwFallback := true, xo := s.glob.fwXo }).setReg Reg.NARIS.FW_BUSY 1))
      ∧ exec .confirm s = .next ((writes { o with fwFallback := false }).setReg Reg.NARIS.FW_BUSY 1))
    ∧ (¬ floors → Refused .raiseFw s pgGlobal 0xB4 ∧ Refused .raiseRig s pgGlobal 0xB4)
    ∧ (floors →
      exec .raiseFw s = .next { writes { o with fwFloor := max o.fwFloor (s.reg Reg.GLOBAL.FW_VERSION) } with glob := { s.glob with floorPend := true } }
      ∧ ∃ t w, exec .raiseRig s = .next t ∧ t = { writes w with glob := { s.glob with floorPend := true } } ∧ o.rigFloor ≤ w.rigFloor
          ∧ (∀ r, s.rig.eff = some r → w.rigFloor = max o.rigFloor r.version) ∧ w.fwFloor = o.fwFloor ∧ (w.rigFallback = o.rigFallback ∨ w.rigFallback = 0xFF)))
  ∧ (∀ s : State,
    let shows (t : State) (bs : List Byte) := t.glob.stmt = bs ∧ t.reg Reg.NARIS.ATT_LEN = bs.length % 2 ^ Reg.NARIS.ATT_LEN.width
      ∧ t.reg Reg.NARIS.ATT_DONE = 1 ∧ IntSet t pgNaris 0
    let none' (t : State) (c : Nat) := t.glob = s.glob ∧ t.reg Reg.NARIS.ATT_DONE = 0 ∧ (t.hd pgNaris).errCode = c
    (∀ k, ∃ t, exec (.attest k true) s = .next t ∧ shows t s.flash.termStmt ∧ t.flash = s.flash)
    ∧ (s.rillServes 323 = false → ∀ k, ∃ t, exec (.attest k false) s = .next t ∧ none' t 0xB6)
    ∧ (s.rillServes 323 = true →
      let worn := s.spring.healthFail = true ∧ 2 ^ 20 ≤ (s.rill 323).calls + 1
      (∃ t, exec (.attest false false) s = .next t ∧ match identitySign "OXATT" (sha3_256 (s.attBody [])) with
        | some g => shows t (s.attBody [] ++ g) ∧ t.glob.kemDk = s.glob.kemDk
        | none => none' t 0xB7)
      ∧ (worn → ∃ t, exec (.attest true false) s = .next t ∧ none' t 0xB6)
      ∧ (¬ worn → ∃ t, exec (.attest true false) s = .next t ∧
        let b := s.attBody (mlkemEk (randBytes s.free 64))
        match identitySign "OXATT" (sha3_256 b) with
        | some g => shows t (b ++ g) ∧ t.glob.kemDk = some (randBytes s.free 64)
        | none => none' t 0xB7)))

/-- MODE_REQ starts a change by the manager where Table 16.2 permits it, and is refused while a change runs (0xB3), for a reserved number (0x01), for a change that the table does not list (0xB0), without its quorum (0xB1), with a partition that is not quiesced (0x70), and out of DEGRADED while its cause stands (0xB2). MODE_CHANGE stops admission: an orderly change leaves the items to end, any other ends them all, and a silent one (CLEAR_ALL, F4, to TERMINATED) writes no completion and takes the host interface down; out of FACTORY it arms the root mask, to TERMINATED it zeroizes it and signs the statement. MODE_CHANGE_WIPE, once it may run, enters the target mode, records the mode before and the frame, and leaves Sheaves, memories, operations, operand slots, keys, seeds and the rig in effect wiped, and the partitions and rings lost where the target has none. The recovery window closes at its 64th tick. -/
def Obligations.ModesChangeAsTheTableSays : Prop :=
  (∀ (m : Fin 16) (s : State),
    let held := s.reg Reg.GLOBAL.BOOT_HOLD = 1 ∨ s.reg Reg.GLOBAL.BOOT_HOLD = 2
    let quorum (p : Nat) := ∃ q, s.cust.quorum = some q ∧ q.met = true ∧ q.purpose = p
    let quiet := ∀ e ∈ s.parts.tab, e.2.st = .quiesced ∨ e.2.st = .none
    let starts (x : Mode) := ∃ t, exec (.modeReq m) s = .next t ∧ t.glob.change = some { target := x, cause := .manager, orderly := true } ∧ t.reg Reg.GLOBAL.CHANGING = 1
      ∧ t.mode = s.mode
    (s.glob.booted = false ∨ held → exec (.modeReq m) s = .next s)
    ∧ (s.glob.booted = true → ¬ held →
      (s.glob.change.isSome = true → Refused (.modeReq m) s pgGlobal 0xB3)
      ∧ (s.glob.change = none →
        (m.val = 0 ∨ 8 < m.val → Refused (.modeReq m) s pgGlobal 0x01)
        ∧ (m.val ≠ 0 → m.val ≤ 8 → (s.mode, m.val) ∉ ([(.factory, 2), (.unclaimed, 3), (.unclaimed, 8), (.ceremony, 8), (.operational, 3), (.operational, 5), (.operational, 8),
            (.maintenance, 3), (.maintenance, 4), (.maintenance, 8), (.degraded, 3), (.degraded, 4), (.degraded, 5), (.degraded, 8), (.standby, 4), (.standby, 8)] : List (Mode × Nat)) →
            Refused (.modeReq m) s pgGlobal 0xB0)
        ∧ (s.mode = .factory → m.val = 2 → (s.identityDone = true → starts .unclaimed) ∧ (s.identityDone = false → Refused (.modeReq m) s pgGlobal 0xB0))
        ∧ (s.mode = .ceremony → m.val = 8 → (∀ q, s.cust.quorum = some q → q.met = true → starts .terminated)
            ∧ ((∀ q, s.cust.quorum = some q → q.met = false) → Refused (.modeReq m) s pgGlobal 0xB1))
        ∧ (s.mode = .operational ∨ s.mode = .degraded → m.val = 5 → (quiet → starts .maintenance) ∧ (¬ quiet → Refused (.modeReq m) s pgGlobal 0x70))
        ∧ (s.mode = .maintenance → m.val = 4 → starts .operational)
        ∧ (s.mode = .degraded → m.val = 4 → (s.standing = false → starts .operational) ∧ (s.standing = true → Refused (.modeReq m) s pgGlobal 0xB2))
        ∧ (s.mode = .standby → m.val = 4 → (s.stay.pstate = 0 ∨ s.stay.pstate = 3 → starts .operational)
            ∧ (s.stay.pstate ≠ 0 → s.stay.pstate ≠ 3 → Refused (.modeReq m) s pgGlobal 0xB0))
        ∧ (s.mode = .unclaimed → m.val = 3 → (quorum 1 → starts .ceremony) ∧ (¬ quorum 1 → Refused (.modeReq m) s pgGlobal 0xB1))
        ∧ (s.mode = .operational ∨ s.mode = .maintenance ∨ s.mode = .degraded → m.val = 3 → (quorum 2 → starts .ceremony) ∧ (¬ quorum 2 → Refused (.modeReq m) s pgGlobal 0xB1))
        ∧ (s.mode = .operational ∨ s.mode = .maintenance ∨ s.mode = .degraded ∨ s.mode = .standby ∨ s.mode = .unclaimed → m.val = 8 →
            (quorum 3 → starts .terminated) ∧ (¬ quorum 3 → Refused (.modeReq m) s pgGlobal 0xB1)))))
  ∧ (∀ s : State, (s.glob.change = none → exec .modeChange s = .next s ∧ exec .modeChangeWipe s = .next s)
    ∧ (∀ c, s.glob.change = some c → c.wiped = true → exec .modeChange s = .next s ∧ exec .modeChangeWipe s = .next s)
    ∧ (∀ c, s.glob.change = some c → c.wiped = false → c.begun = true → c.target ≠ .terminated ∨ s.flash.termStmt ≠ [] → exec .modeChange s = .next s)
    ∧ (∀ c, s.glob.change = some c → c.wiped = false →
      let stopped (t : State) := t.glob = { s.glob with change := some { c with begun := true } } ∧ (t.hd pgAdmit).enable = false ∧ ((t.hd pgAdmit).st = 0 ∨ (t.hd pgAdmit).st = 3)
        ∧ (s.stay.session = true → t.stay.depart = true)
      let loud := c.cause ≠ .clearAll ∧ c.cause ≠ .f4 ∧ c.target ≠ .terminated
      let arms := s.mode = .factory ∧ c.target = .unclaimed
      (c.begun = false → arms → s.rillServes 323 = false → ∃ t, exec .modeChange s = .next t ∧ t.glob = s.glob ∧ t.tamper = s.tamper ∧ t.adm = s.adm)
      ∧ (c.begun = false → arms → s.rillServes 323 = true → ∃ t, exec .modeChange s = .next t ∧ stopped t ∧ t.tamper.rootState = 1 ∧ t.tamper.rootMask ≠ none)
      ∧ (c.begun = false → ¬ arms →
        (c.orderly = true → loud → ∃ t, exec .modeChange s = .next t ∧ stopped t ∧ t.adm = s.adm ∧ t.outbound = s.outbound)
        ∧ (c.orderly = false → loud → ∃ t, exec .modeChange s = .next t ∧ stopped t ∧ t.adm.items = [])
        ∧ (¬ loud → ∃ t, exec .modeChange s = .next t ∧ stopped t ∧ t.adm.items = [] ∧ t.host.held = [] ∧ t.outbound = s.outbound ∧ t.hostUp = false))
      ∧ (c.target = .terminated → s.flash.termStmt = [] ∨ c.begun = false → ∃ t, exec .modeChange s = .next t
        ∧ (s.rillServes 323 = false → t.flash = s.flash ∧ t.tamper = s.tamper)
        ∧ (t.flash.termStmt ≠ s.flash.termStmt → t.tamper.rootState = 0 ∧ t.tamper.rootMask = none ∧ t.cleat.vaultKey = none
          ∧ ∃ w, t.flash.optWrite = some w ∧ w.mode = 8 ∧ w.prevMode = s.mode.num)))
    ∧ (∀ c, s.glob.change = some c → s.readyToWipe c = false → exec .modeChangeWipe s = .next s)
    ∧ (∀ c, s.glob.change = some c → s.readyToWipe c = true →
      ∃ t, exec .modeChangeWipe s = .next t ∧ t.mode = c.target ∧ t.glob.prevMode = s.mode
        ∧ (s.spring.healthFail = false → t.glob.change = some { c with wiped := true }) ∧ (s.spring.healthFail = true → t.glob.change = s.glob.queued)
        ∧ t.reg Reg.GLOBAL.MODE_FRAME_LO = s.frame.no % 2 ^ 32 ∧ t.adm.items = [] ∧ t.sheaves = [] ∧ t.iram = [] ∧ t.dram = [] ∧ t.ymem = [] ∧ t.narisRam = []
        ∧ t.flights = [] ∧ t.macs = [] ∧ t.bne.slots = [] ∧ t.bne.micro = [] ∧ t.cleat.ents = [] ∧ t.cleat.maskKey = none ∧ t.spring.rills = [] ∧ t.spring.reserve = 0
        ∧ t.spring.seedReady = false ∧ t.rig.eff = none ∧ t.frame.len = 0
        ∧ (c.target.parts = false → t.parts.tab = [] ∧ t.host.rings = [] ∧ t.adm.owner = [] ∧ t.adm.binding = []))
    ∧ (∀ w, s.glob.window = some w → (w.left ≠ 0 → exec .recoveryWindowEnd s = .next s)
      ∧ (w.left = 0 → ∃ t, exec .recoveryWindowEnd s = .next t ∧ t = { s with glob := { s.glob with window := none }, hdr := t.hdr } ∧ (t.hd pgFault).detail.testBit 0 = false))
    ∧ (s.glob.window = none → exec .recoveryWindowEnd s = .next s))

/-- Each of POWER_ON, POWER_DOWN, the loss of main power, PERST_N asserted for 1 us or longer, RESET with its key and a lockstep mismatch outside a recovery window leaves everything volatile as after reset, and keeps witness memory, the flash array, FRAME_HWM, the root mask and the policies. RESET_CAUSE tells which; power-on counts the boot; the lockstep count goes up. RESET and LOCKSTEP_MISMATCH start boot step 1, and so does PERST_N_RELEASE with the rails up. A pulse below 100 ns and RESET with another value change nothing. A loss of main power in the middle of a CLEAR_VOLATILE response leaves both pending flags; on its return a pending alert is delivered. A cold start zeroizes the root mask, the policies, FRAME_HWM and the boot count, and writes DOMAIN_START last. -/
def Obligations.ResetsAndPowerKeepTheDomain : Prop :=
  ∀ s : State,
    let step1 (t : State) := t.frame.running = true ∧ t.reg Reg.GLOBAL.BOOT_STAGE = 1 ∧ (t.hd pgFrame).enable = true ∧ (t.hd pgCvu).enable = true
    (∃ t, exec .powerOn s = .next t ∧ ResetLeaves s t ∧ t.reg Reg.GLOBAL.RESET_CAUSE = 0 ∧ t.reg Reg.NARIS.LOCKSTEP_CNT = 0 ∧ t.glob.bootCnt = s.glob.bootCnt + 1
        ∧ t.pins.perst = true ∧ t.pins.rails = true ∧ t.tamper.mainPower = true)
    ∧ (∃ t, exec .powerDown s = .next t ∧ ResetLeaves s t ∧ t.pins.rails = false ∧ t.pins.perst = true)
    ∧ (s.tamper.mainPower = true → ∃ t, exec .mainPowerLoss s = .next t ∧ ResetLeaves s t ∧ t.tamper.mainPower = false ∧ t.pins.rails = false
        ∧ (∀ c, s.glob.change = some c → c.cause = .clearVolatile → t.tamper.alertPending = true ∧ t.tamper.clearPending = true))
    ∧ (s.tamper.mainPower = false → exec .mainPowerLoss s = .next s)
    ∧ (s.tamper.mainPower = true → exec .mainPowerReturn s = .next s)
    ∧ (s.tamper.mainPower = false → s.tamper.alertPending = false → exec .mainPowerReturn s = .next { s with tamper := { s.tamper with mainPower := true } })
    ∧ (s.tamper.mainPower = false → s.tamper.alertPending = true → ∃ t, exec .mainPowerReturn s = .next t ∧ t.tamper = { s.tamper with mainPower := true, alertPending := false }
        ∧ IntSet t pgTamper 1 ∧ IntSet t pgTamper 2 ∧ ((s.hd pgTamper).intStat.testBit 1 = false → .pin "ALERT_N" false ∈ t.outbound))
    ∧ (s.pins.perst = false → exec .domainColdStart s = .next s)
    ∧ (s.pins.perst = true → ∃ t, exec .domainColdStart s = .next t ∧ t.tamper.rootState = 0 ∧ t.tamper.rootMask = none ∧ t.tamper.policy = [] ∧ t.tamper.rtcValid = false
        ∧ t.frame.hwm = 0 ∧ t.glob.bootCnt = 0 ∧ t.witness.mem = s.witness.mem ∧ t.reg Reg.TAMPER.WIT_SEQ = t.witness.wseq % 2 ^ Reg.TAMPER.WIT_SEQ.width
        ∧ (t.tamper.recs.getLast?.map WRec.typ) = some 0x09)
    ∧ (∀ ns, (ns < 100 → exec (.perstNAssert ns) s = .next s)
        ∧ (1000 ≤ ns → ∃ t, exec (.perstNAssert ns) s = .next t ∧ ResetLeaves s t ∧ t.reg Reg.GLOBAL.RESET_CAUSE = 1 ∧ t.pins = { s.pins with perst := true })
        ∧ (100 ≤ ns → ns < 1000 → ∃ t, exec (.perstNAssert ns) s = .next t ∧ (t = { s with free := s.free + 1 } ∨ (ResetLeaves s t ∧ t.pins.perst = true))))
    ∧ (s.pins.perst = true → s.pins.rails = true → ∃ t, exec .perstNRelease s = .next t ∧ step1 t ∧ t.pins = { s.pins with perst := false } ∧ t.flash = s.flash)
    ∧ (s.pins.perst = false ∨ s.pins.rails = false → exec .perstNRelease s = .next s)
    ∧ (∀ v : Word, (v ≠ 0x52535445 ∨ s.pins.perst = true → exec (.reset v) s = .next s)
        ∧ (v = 0x52535445 → s.pins.perst = false → ∃ t, exec (.reset v) s = .next t ∧ ResetLeaves s t ∧ step1 t ∧ t.reg Reg.GLOBAL.RESET_CAUSE = 2))
    ∧ (s.reg Reg.GLOBAL.BOOT_STAGE = 0 → exec .lockstepMismatch s = .next s)
    ∧ (s.reg Reg.GLOBAL.BOOT_STAGE ≠ 0 → ∃ t, exec .lockstepMismatch s = .next t ∧ (s.glob.window = none → ResetLeaves s t) ∧ step1 t ∧ t.reg Reg.GLOBAL.RESET_CAUSE = 3
        ∧ t.reg Reg.NARIS.LOCKSTEP_CNT = (s.reg Reg.NARIS.LOCKSTEP_CNT + 1) % 2 ^ Reg.NARIS.LOCKSTEP_CNT.width)

/-- In boot step 1 FLASH_CONTROLLER_READY opens the flash, puts the option copy with the higher GEN in effect, starts the Spring, and, where the shipped image is the one to run, starts it and ends step 5 with the mode UNCLAIMED unless the root mask is there. A startup test with eight passing cells ends the start; with fewer it fails with HEALTH_FAIL. SEED_READY seeds the wire rills; the yard rills follow in order. The tests switch the four engine pages on and mark a pair that fails. DIE_LINK_REKEY takes a fresh key once; DIE_LINK_TRANSFER delivers the bytes of a transfer that arrives unchanged; one whose CRC mismatches is sent again from the buffer, and is F3 where it mismatches again. BOOT_COMPLETE enters UNCLAIMED with the root mask ZERO, DEGRADED where a cause stands, and else the mode of the option area, OPERATIONAL and STANDBY by the role in the pair; FACTORY and TERMINATED stay. -/
def Obligations.BootStepsFollowInOrder : Prop :=
  (∀ s : State,
    (s.flash.ready = true ∨ s.reg Reg.GLOBAL.BOOT_STAGE ≠ 1 → exec .flashControllerReady s = .next s)
    ∧ (s.flash.ready = false → s.reg Reg.GLOBAL.BOOT_STAGE = 1 → ∃ t, exec .flashControllerReady s = .next t ∧ t.flash.ready = true ∧ t.spring.started = true
        ∧ (s.flash.optA = none → s.flash.optB = none → t.flash.optState = 3 ∧ t.reg Reg.GLOBAL.BOOT_HOLD = 2))
    ∧ (∀ a b, s.flash.ready = false → s.reg Reg.GLOBAL.BOOT_STAGE = 1 → s.flash.optA = some a → s.flash.optB = some b → s.flash.dead = [] → s.flash.journal = [] →
      let o := if a.gen < b.gen then b else a
      ∃ t, exec .flashControllerReady s = .next t ∧ t.flash.ready = true ∧ t.flash.opt = o ∧ t.flash.optState = (if a.gen < b.gen then 2 else 1) ∧ t.spring.started = true
        ∧ (s.flash.shipped = true → o.fwActive = 0 → o.fwFallback = false → o.fwFloor = 0 →
            t.reg Reg.NARIS.RUN_BANK = 0 ∧ t.reg Reg.NARIS.NSTATE = 1 ∧ t.reg Reg.GLOBAL.BOOT_STAGE = 5
            ∧ (o.mode ≠ 1 → o.mode ≠ 8 → s.tamper.rootState = 0 → t.mode = .unclaimed)))
    ∧ (∀ pass : BitVec 10, let good := (List.range 10).filter fun c => pass.getLsbD c && !(s.cell c).retired
      (s.spring.started = false ∨ s.spring.startupDone = true → exec (.springStartRetry pass) s = .next s)
      ∧ (s.spring.started = true → s.spring.startupDone = false →
        (8 ≤ good.length → ∃ t, exec (.springStartRetry pass) s = .next t ∧ t.spring.startupDone = true ∧ t.spring.healthFail = false ∧ t.feeding = good.take 8
          ∧ (s.spring.healthFail = true → IntSet t pgSpring 4))
        ∧ (good.length < 8 → s.spring.healthFail = false → ∃ t, exec (.springStartRetry pass) s = .next t ∧ t.spring.startupDone = false
            ∧ t.spring.healthFail = true ∧ IntSet t pgSpring 3 ∧ (s.glob.window = none → IntSet t pgFault 1))
        ∧ (good.length < 8 → s.spring.healthFail = true → exec (.springStartRetry pass) s = .next s)))
    ∧ (s.spring.started = false ∨ s.spring.seedReady = true ∨ s.spring.healthFail = true ∨ s.spring.testpat = true → exec .seedReady s = .next s)
    ∧ (s.spring.started = true → s.spring.seedReady = false → s.spring.healthFail = false → s.spring.testpat = false →
      let enough := 8 ≤ if s.spring.startupDone then s.feeding.length else ((List.range 10).filter fun c => !(s.cell c).retired).length
      (¬ enough → ∃ t, exec .seedReady s = .next t ∧ t.spring.seedReady = false ∧ t.spring.startupDone = true ∧ t.spring.rills = s.spring.rills)
      ∧ (enough → ∃ t, exec .seedReady s = .next t ∧ t.spring.seedReady = true ∧ IntSet t pgSpring 5 ∧ (t.hd pgSpring).st = 2 ∧ ∀ w, w < 4 → (t.rill (320 + w)).seeded = true))
    ∧ (∀ y : Fin 64, s.spring.seedReady = false ∨ s.spring.healthFail = true ∨ (s.rill (256 + y)).seeded = true → exec (.yardRillInstantiate y) s = .next s)
    ∧ (∀ y : Fin 64, s.spring.seedReady = true → s.spring.healthFail = false → (s.rill (256 + y)).seeded = false →
      ((∀ z, z < y.val → (s.rill (256 + z)).seeded = true) → ∃ t, exec (.yardRillInstantiate y) s = .next t
        ∧ t.rill (256 + y) = { seeded := true } ∧ ∀ k, k ≠ 256 + y.val → t.rill k = s.rill k)
      ∧ (∀ z, z < y.val → (s.rill (256 + z)).seeded = false → exec (.yardRillInstantiate y) s = .next s))
    ∧ (s.spring.seedReady = false ∨ s.glob.katRun = true → ∀ l, exec (.bootKnownAnswerTests l) s = .next s)
    ∧ (s.spring.seedReady = true → s.glob.katRun = false →
      let on (t : State) := t.glob.katRun = true ∧ ∀ k ∈ [pgCipher, pgHash, pgBne, pgPu], (t.hd k).st = 2 ∧ (t.hd k).detail.testBit 0 = false
      let marked (k : Nat) (u : Fin 128) (F : Nat → Field) (page b : Nat) : Prop := ∃ t, exec (.bootKnownAnswerTests [(Fin.ofNat 16 k, u)]) s = .next t ∧ on t
        ∧ (t.reg (F (u / 32))).testBit (u % 32) = true ∧ IntSet t page b
      (∀ failed, ∃ t, exec (.bootKnownAnswerTests failed) s = .next t ∧ on t)
      ∧ ∀ u : Fin 128, (u.val < 34 → marked 0 u (fun w => if w = 0 then Reg.CIPHER.KAT_FAIL_LO else Reg.CIPHER.KAT_FAIL_HI) pgCipher 1
          ∧ marked 2 u (fun w => if w = 0 then Reg.HASH.SHA2_KAT_FAIL_LO else Reg.HASH.SHA2_KAT_FAIL_HI) pgHash 1
          ∧ marked 3 u (fun w => if w = 0 then Reg.BNE.KAT_FAIL_LO else Reg.BNE.KAT_FAIL_HI) pgBne 2)
        ∧ (u.val < 68 → marked 1 u Reg.HASH.KECCAK_KAT_FAIL pgHash 1) ∧ (u.val < 16 → marked 4 u (fun _ => Reg.PU.KAT_FAIL) pgPu 1)))
  ∧ (∀ (s : State),
    (s.spring.seedReady = false ∨ s.glob.dieRekeyed = true → exec .dieLinkRekey s = .next s)
    ∧ (s.spring.seedReady = true → s.glob.dieRekeyed = false → s.rillServes 323 = false → ∃ t, exec .dieLinkRekey s = .next t ∧ t.glob = s.glob)
    ∧ (s.spring.seedReady = true → s.glob.dieRekeyed = false → s.rillServes 323 = true → ∃ t, exec .dieLinkRekey s = .next t
      ∧ t = { s with glob := { s.glob with dieKey := randBytes s.free 32, dieRekeyed := true }, spring := t.spring, free := s.free + 1 }))
  ∧ (∀ (up : Bool) (seq : Word) (data err : List Byte) (s : State),
    let q := seq.toNat
    let held := SMap.get none s.glob.dieBuf (dieBufKey up q)
    let sent := s.dieWire up q (held.getD data)
    let wire := xorBytes sent (fitBytes sent.length err)
    let s' := s.emit (.dieLink up q wire)
    (s.frame.running = false → exec (.dieLinkTransfer ⟨up, seq, data⟩ err) s = .next s)
    ∧ (s.frame.running = true →
      ((∀ b ∈ err, b = 0) → s.dieReceive up q wire = some (held.getD data))
      ∧ (∀ bs, s.dieReceive up q wire = some bs → ∃ t, exec (.dieLinkTransfer ⟨up, seq, data⟩ err) s = .next t ∧ t = { s' with glob := t.glob } ∧ t.glob.dieIn = bs
        ∧ (if up then t.glob.dieSeqUp else t.glob.dieSeqDown) = q ∧ SMap.get none t.glob.dieBuf (dieBufKey up q) = none)
      ∧ (s.dieReceive up q wire = none →
        (held = none → ∃ t, exec (.dieLinkTransfer ⟨up, seq, data⟩ err) s = .next t
          ∧ t = { s' with glob := t.glob, rf := t.rf, outbound := s'.outbound ++ [.dieResend q] }
          ∧ SMap.get none t.glob.dieBuf (dieBufKey up q) = some data ∧ t.glob.dieIn = s.glob.dieIn
          ∧ t.reg (Reg.CVU.FIX_MM 4) = (s.reg (Reg.CVU.FIX_MM 4) + 1) % 2 ^ (Reg.CVU.FIX_MM 4).width)
        ∧ (held.isSome = true → ∃ t, exec (.dieLinkTransfer ⟨up, seq, data⟩ err) s = .next t
          ∧ SMap.get none t.glob.dieBuf (dieBufKey up q) = none ∧ t.glob.dieIn = s.glob.dieIn
          ∧ (s.glob.window = none → IntSet t pgFault 1 ∧ t.reg (Reg.FAULT.F_CNT 3) = min (2 ^ (Reg.FAULT.F_CNT 3).width - 1) (s.reg (Reg.FAULT.F_CNT 3) + 1))))))
  ∧ (∀ (us : Word) (s : State),
    let hold := s.reg Reg.GLOBAL.BOOT_HOLD
    let ended (t : State) (m : Mode) := t.glob.booted = true ∧ t.mode = m ∧ t.reg Reg.GLOBAL.BOOT_STAGE = 11 ∧ IntSet t pgGlobal 2 ∧ (t.hd pgHost).st = 2
    (s.glob.booted = true ∨ s.pins.perst = true ∨ s.bootReady = false → exec (.bootComplete us) s = .next s)
    ∧ (s.glob.booted = false → s.pins.perst = false → s.bootReady = true → ∃ t, exec (.bootComplete us) s = .next t ∧
      (hold = 1 ∨ hold = 2 ∨ s.mode = .factory ∨ s.mode = .terminated → ended t s.mode)
      ∧ (hold ≠ 1 → hold ≠ 2 → s.mode ≠ .factory → s.mode ≠ .terminated →
        (s.tamper.rootState = 0 → ended t .unclaimed)
        ∧ (s.tamper.rootState ≠ 0 → hold = 4 → ended t s.mode)
        ∧ (s.tamper.rootState ≠ 0 → hold ≠ 4 → s.standing = true ∨ s.glob.bootTarget = some .degraded ∨ hold = 3 → ended t .degraded)
        ∧ (s.tamper.rootState ≠ 0 → hold ≠ 4 → hold ≠ 3 → s.standing = false → s.glob.bootTarget ≠ some .degraded →
          let as (role : StayId → Prop) : Prop := ∃ i, s.stayId = some i ∧ i.pairMode = 2 ∧ role i
          let stands := if s.stay.session then as fun i => s.stay.twinOp = true ∨ i.roleCfg = 1 else (s.mode = .standby ∨ as fun i => i.roleCfg = 1) ∧ s.reg Reg.STAY.PROMOTE_AUTO = 0
          (s.mode ≠ .operational → s.mode ≠ .standby → ended t s.mode)
          ∧ (s.mode = .operational ∨ s.mode = .standby → (stands → ended t .standby) ∧ (¬ stands → ended t .operational))))))

/-- A 4 B write of a plain RW register stores its value; an RWL register stores it while its page is not locked; a value that a page refuses sets ERR_CODE alone. A write of a command register, a doorbell or the mask of a vector does what the command of its own row does. A write to a reserved page changes nothing, and one that is not aligned or names another BAR is an unsupported access; an aligned 8 B write of BAR0 is two 4 B writes. Before boot ends no access of the manager arrives. A write of INT_STAT clears bits, INT_FORCE sets the bits that the page defines and no other register, with one message where a bit comes to be set and enabled, and LOCK with bit 0 locks its block. A read of a latched _LO register copies the high word for its reader; of RTC_SEC it latches RTC_SUB; of FLT_FRAME and ERR_FRAME it answers and removes the oldest entry, with zero where there is none. -/
def Obligations.RegisterWritesDoWhatTheirPageSays : Prop :=
  (∀ (b : Bool) (bar : Fin 6) (off : Nat) (v : Word) (hi : Option Word) (s : State),
    (∃ t, exec (.registerWrite b bar off ⟨v, hi⟩) s = .next t) ∧ (b = false → s.glob.booted = false → exec (.registerWrite b bar off ⟨v, hi⟩) s = .next s)
    ∧ (b = true ∨ s.glob.booted = true → ∀ h, hi = some h →
      (bar.val ≠ 0 ∨ off % 8 ≠ 0 → exec (.registerWrite b bar off ⟨v, hi⟩) s = exec (.barUnsupportedAccess bar off 8 true) s)
      ∧ (∀ t, bar.val = 0 → off % 8 = 0 → exec (.registerWrite b 0 off ⟨v, none⟩) s = .next t → t.glob.booted = s.glob.booted →
          exec (.registerWrite b bar off ⟨v, hi⟩) s = exec (.registerWrite b 0 (off + 4) ⟨h, none⟩) t)))
  ∧ (∀ (v : Word) (s : State), s.reg Reg.GLOBAL.BOOT_HOLD ≠ 1 → s.glob.booted = true →
    let wr (bar : Fin 6) (off : Nat) := exec (.registerWrite false bar off ⟨v, none⟩) s
    (∀ F ∈ [Reg.FRAME.FRAME_LOAD_LO, Reg.PART.BLOB_ADDR_LO, Reg.FLASH.CHECK_EXP, Reg.FLASH.WBUF 63, Reg.CVU.HLEN 15], s.cvu 15 = none →
      wr 0 F.off = .next (s.setReg F v.toNat))
    ∧ ((s.hd pgGlobal).lock = false → ∃ t, wr 0 Reg.GLOBAL.DEG_MODE.off = .next t ∧ t = { s with rf := t.rf } ∧ t.reg Reg.GLOBAL.DEG_MODE = v.toNat % 2)
    ∧ ((s.hd pgGlobal).lock = true → wr 0 Reg.GLOBAL.DEG_MODE.off = .next s)
    ∧ (v.toNat % 4 = 0 → ∃ t, wr 0 Reg.FRAME.SOURCE.off = .next t ∧ t.reg Reg.FRAME.SOURCE = 0 ∧ t.reg Reg.FRAME.TRIM = 0 ∧ t.reg Reg.FRAME.LOCKED = 0)
    ∧ (v.toNat % 4 = 3 → wr 0 Reg.FRAME.SOURCE.off = .next (s.refuse pgFrame 0x01))
    ∧ (v.toNat % 65536 < 10 ∨ 1000 < v.toNat % 65536 → wr 0 Reg.FRAME.ALIGN_LIMIT.off = .next (s.refuse pgFrame 0x01))
    ∧ wr 0 Reg.GLOBAL.MODE_REQ.off = exec (.modeReq (Fin.ofNat 16 v.toNat)) s
    ∧ wr 0 Reg.GLOBAL.RESET.off = exec (.reset v) s
    ∧ (v.toNat % 16 = 3 → wr 0 Reg.HOSTIF.RING_CMD.off = exec .ringStop s ∧ wr 0 Reg.PART.OP.off = exec .resume s ∧ wr 0 Reg.FLASH.OP.off = exec (.erase false false) s
        ∧ wr 0 Reg.CLEAT1.CMD_OP.off = exec .cleatRestrict s ∧ wr 0 Reg.STAY.LINK_CMD.off = exec .dupClear s ∧ wr 0 Reg.NARIS.FW_OP.off = exec .confirm s
        ∧ wr 0 Reg.CARD.CER_CMD.off = exec .members s)
    ∧ (v.toNat.testBit 0 = true → wr 0 Reg.FRAME.LOAD.off = exec .load s ∧ wr 0 Reg.ADMIT.COMMIT.off = exec .commit s ∧ wr 0 Reg.ART.COMMIT.off = exec .artCommit s
        ∧ wr 0 (0x12200 + 64 * 15 + 0x20) = exec (.hgo 15) s ∧ wr 0 Reg.TAMPER.APPLY.off = exec .applyPolicy s)
    ∧ (∀ off : Nat, off % 4 = 0 → off < 0x100000 → off / 4096 = 3 ∨ 0x1C < off / 4096 → wr 0 off = .next s)
    ∧ (∀ (bar : Fin 6) (off : Nat), off % 4 ≠ 0 ∨ bar.val % 2 = 1 → wr bar off = exec (.barUnsupportedAccess bar off 4 true) s)
    ∧ (∀ (p : Fin 256) (j : Fin 64), wr 2 (p.val * 4096 + 16 * j.val) = exec (.sqTail p j v) s ∧ wr 2 (p.val * 4096 + 16 * j.val + 4) = exec (.cqHead p j v) s
        ∧ wr 2 (p.val * 4096 + 16 * j.val + 8) = exec (.revoke p j v) s)
    ∧ (∀ n : Fin 2048, v.toNat.testBit 0 = false → wr 4 (16 * n.val + 12) = exec (.msixUnmask n) s)
    ∧ (∃ t, wr 0 (pgFrame * 256 + 0x0C) = .next t ∧ (t.hd pgFrame).intStat = ((s.hd pgFrame).intStat &&& ((s.hd pgFrame).intStat ^^^ v.toNat)) ∧ t.reg Reg.FRAME.LOCKED = s.reg Reg.FRAME.LOCKED))
  ∧ (∀ (blk : Fin 4096) (v : Word) (s : State),
    let h := s.hd blk
    let set := h.intStat ||| (v.toNat &&& intBits (blk.val * 256))
    let m := SMap.get {} s.host.msix (s.reg Reg.HOSTIF.MGR_VECTOR)
    (s.blockAnswers blk = false → exec (.intForce blk v) s = .next s ∧ exec (.lockPage blk v) s = .next s)
    ∧ (s.blockAnswers blk = true →
      (∃ t, exec (.intForce blk v) s = .next t ∧ Shown s t ∧ t.hd blk = { h with intStat := set } ∧ (∀ k, k ≠ blk.val → t.hd k = s.hd k)
        ∧ (∀ F : Field, F.key ≠ Reg.HOSTIF.MSI_CNT.key → t.reg F = s.reg F)
        ∧ ((∀ i, (set &&& h.intEn).testBit i = true → (h.intStat &&& h.intEn).testBit i = true) → blk.val ≠ pgTamper → t.outbound = s.outbound)
        ∧ (∀ i, (set &&& h.intEn).testBit i = true → (h.intStat &&& h.intEn).testBit i = false → s.hostUp = true → s.host.cfg.msixEn = true → s.host.cfg.msixMask = false → m.masked = false → blk.val ≠ pgTamper →
            t.outbound = s.outbound ++ [.msix (s.reg Reg.HOSTIF.MGR_VECTOR) m.addr m.data]))
      ∧ (v.toNat.testBit 0 = true → exec (.lockPage blk v) s = .next (s.setHd blk { h with lock := true }))
      ∧ (v.toNat.testBit 0 = false → exec (.lockPage blk v) s = .next s)))
  ∧ (∀ (b : Bool) (s : State), s.reg Reg.GLOBAL.BOOT_HOLD = 1 ∨ (b = false ∧ s.glob.booted = false) →
      exec (.rtcSecRead b) s = .next s ∧ exec (.fltFrameRead b) s = .next s ∧ exec (.errFrameRead b) s = .next s
      ∧ ∀ off : Fin 1048576, latchedLo.contains off.val = true → off.val / 4096 ≠ 0 → exec (.latchedLoRead b off) s = .next s)
  ∧ (∀ (b : Bool) (s : State), s.reg Reg.GLOBAL.BOOT_HOLD ≠ 1 → b = true ∨ s.glob.booted = true →
    let r := if b then 1 else 0
    (∀ off : Fin 1048576, latchedLo.contains off.val = true → ∃ t, exec (.latchedLoRead b off) s = .next t
      ∧ t = { s with latch := t.latch, outbound := s.outbound ++ [.regRead r off (s.view off)] }
      ∧ t.readValue b (off + 4) = s.view (off + 4) ∧ t.readValue (!b) (off + 4) = s.readValue (!b) (off + 4))
    ∧ (∃ t, exec (.latchedLoRead b 0x1100) s = .next t ∧ t.readValue b 0x1104 = s.frame.no / 2 ^ 32 % 2 ^ 32
        ∧ t.outbound = s.outbound ++ [.regRead r 0x1100 (s.frame.no % 2 ^ 32)])
    ∧ (∃ t, exec (.rtcSecRead b) s = .next t ∧ t = { s with rf := t.rf, outbound := t.outbound } ∧ t.reg Reg.TAMPER.RTC_SUB = s.tamper.rtcSub % 2 ^ Reg.TAMPER.RTC_SUB.width
        ∧ t.outbound = s.outbound ++ [.regRead r Reg.TAMPER.RTC_SEC.off (s.tamper.rtcSec % 2 ^ 32)])
    ∧ exec (.fltFrameRead b) s = .next { s with glob := { s.glob with log := s.glob.log.tail }, outbound := s.outbound ++ [.regRead r Reg.FAULT.FLT_FRAME.off ((s.glob.log.head?.map fun e => e.frame % 2 ^ 32).getD 0)] }
    ∧ exec (.errFrameRead b) s = .next { s with art := { s.art with err := s.art.err.tail }, outbound := s.outbound ++ [.regRead r Reg.ART.ERR_FRAME.off ((s.art.err.head?.map fun e => e.frame).getD 0)] })

/-- ART_COMMIT is refused with COMMIT_PENDING while one waits, and with the row where a valid rule has its limit below its base, a host rule has an address, or a rule other than of Naris permits a fetch; otherwise it waits for the guard. HGO of an instance that runs is refused with 0x92, for a partition that is not there with 0x93, for length 0 with BAD_VALUE; otherwise the instance captures its configuration and, where the rule table permits, reads the host. HOST_CVU_DONE ends the run with MATCH or MISMATCH of the check value against HEXP, COMPUTED where no comparison is asked for, or READ_ERR, and shows the value, the frame and the interrupt bits. -/
def Obligations.RulesCommitAndHostCheckValuesRun : Prop :=
  (∀ s : State,
    let bad (u : Rule) := u.valid = true ∧ (u.limit < u.base ∨ (u.host = true ∧ (u.base ≠ 0 ∨ u.limit ≠ 0)) ∨ (u.x = true ∧ u.id ≠ 0))
    (s.art.commit = true → Refused .artCommit s pgArt 0x03)
    ∧ (∀ pre e post, s.art.commit = false → s.art.sh = pre ++ e :: post → (∀ x ∈ pre, ¬ bad x.2) → bad e.2 → e.1 < 1016 → Refused .artCommit s pgArt 0x91 e.1)
    ∧ (s.art.commit = false → (∀ x ∈ s.art.sh, ¬ bad x.2) → ∃ t, exec .artCommit s = .next t ∧ t = { s with art := { s.art with commit := true }, rf := t.rf, hdr := t.hdr }
        ∧ t.reg Reg.ART.PENDING = 1 ∧ (t.hd pgArt).detail.testBit 0 = true))
  ∧ (∀ (h : Fin 16) (s : State),
    let p := s.reg (Reg.CVU.HPART h)
    let n := s.reg (Reg.CVU.HLEN h)
    let addr := s.reg (Reg.CVU.HADDR_LO h) + 2 ^ 32 * s.reg (Reg.CVU.HADDR_HI h)
    let live := (s.part p).st = .active ∨ (s.part p).st = .quiescing ∨ (s.part p).st = .quiesced
    ((s.cvu h).isSome = true → Refused (.hgo h) s pgCvu 0x92 h)
    ∧ (s.cvu h = none → ¬ live → Refused (.hgo h) s pgCvu 0x93 h)
    ∧ (s.cvu h = none → live → n = 0 → Refused (.hgo h) s pgCvu 0x01 h)
    ∧ (s.cvu h = none → live → n ≠ 0 → ∃ t, exec (.hgo h) s = .next t
      ∧ (s.artHost p .read = true → t = { s with cvus := t.cvus, rf := t.rf, hdr := t.hdr, outbound := s.outbound ++ if s.hostUp then [.hostRead (s.part p).pasid addr n] else [] })
      ∧ t.cvu h = some { poly := s.reg (Reg.CVU.POLY h), fold := s.bit (Reg.CVU.FOLD_EN h), cmp := s.bit (Reg.CVU.CMP_EN h), part := p, addr := addr, len := if s.artHost p .read then n else 0, foldWord := s.reg (Reg.CVU.HFOLD h), expect := s.reg (Reg.CVU.HEXP_LO h) + 2 ^ 32 * s.reg (Reg.CVU.HEXP_HI h) }
      ∧ (∀ k, k ≠ h.val → t.cvu k = s.cvu k) ∧ t.reg (Reg.CVU.BUSY h) = 1))
  ∧ (∀ (h : Fin 16) (data : Option (List Byte)) (s : State),
    (s.cvu h = none → exec (.hostCvuDone h data) s = .next s)
    ∧ (∀ v, s.cvu h = some v →
      let ended (res val : Nat) := ∃ t, exec (.hostCvuDone h data) s = .next t ∧ t.cvu h = none ∧ (∀ k, k ≠ h.val → t.cvu k = s.cvu k) ∧ t.reg (Reg.CVU.BUSY h) = 0
        ∧ t.reg (Reg.CVU.RESULT h) = res ∧ t.reg (Reg.CVU.HRES_LO h) = val % 2 ^ 32 ∧ t.reg (Reg.CVU.HRES_HI h) = val / 2 ^ 32 % 2 ^ 32
        ∧ t.reg (Reg.CVU.HFRAME h) = s.frame.no % 2 ^ 32 ∧ IntSet t pgCvu (16 + h.val) ∧ (res = 2 → IntSet t pgCvu h)
      (data = none ∨ v.len = 0 → ended 4 0)
      ∧ (∀ bs, data = some bs → v.len ≠ 0 →
        let got := fitBytes v.len bs
        let x := if v.fold then crcFold (crcPar v.poly) got v.foldWord else crc (crcPar v.poly) got
        (v.cmp = false → ended 3 x) ∧ (v.cmp = true → x = v.expect % 2 ^ (crcPar v.poly).w → ended 1 x)
        ∧ (v.cmp = true → x ≠ v.expect % 2 ^ (crcPar v.poly).w → ended 2 x))))

/-- ENABLE is refused with BUSY while the link stops and with NO_PAIR_ID without an identity, starts training, where a rig is loaded, when it is set, and asks for DEPART, or takes down a link that is not up, when it is cleared. Training takes the first mode of the table that trained, records the latency and sends HELLO; with no common version the link goes down with ERR_INFO 1. A retrain starts where a lane is lost; it keeps keys and counts and sends again from the number the receiver expects, or loses the twin where that is no longer kept. HELLO with another fingerprint, or of no member, is a rejection. Both ends derive the session keys from K and the hash of the four frames of the handshake. AUTH that verifies, with its certificate, brings the link up: PAIRED where rig and configuration agree, else SPLIT with the bits that tell why; SOURCE and the standby role follow. PAIRING_RETRY trains again, or sends the HELLO that had no nonce. -/
def Obligations.StayLinkTrainsAndPairs : Prop :=
  (∀ s : State,
    let h := s.hd pgStay
    let ready := s.rig.eff.isSome = true ∨ s.rig.ready.isSome = true
    (h.st = 3 → Refused (.stayEnable true) s pgStay 0x02)
    ∧ (h.st ≠ 3 → s.stayId = none → Refused (.stayEnable true) s pgStay 0x80)
    ∧ (h.st = 0 → s.stayId ≠ none → ∃ t, exec (.stayEnable true) s = .next t ∧ t = { s with hdr := t.hdr, stay := t.stay }
        ∧ t.hd pgStay = { h with enable := true, st := 1 } ∧ t.stay.lstate = (if ready then 1 else 0) ∧ t.stay.pstate = s.stay.pstate ∧ t.stay.dup = s.stay.dup ∧ t.stay.txKey = none)
    ∧ (h.st = 1 ∨ h.st = 2 → s.stayId ≠ none → exec (.stayEnable true) s = .next s)
    ∧ (h.st = 1 ∨ h.st = 2 → s.stay.lstate = 3 → exec (.stayEnable false) s =
        .next { s.setHd pgStay { h with enable := false, st := 3 } with stay := { s.stay with depart := true } })
    ∧ (h.st = 1 ∨ h.st = 2 → s.stay.lstate ≠ 3 → ∃ t, exec (.stayEnable false) s = .next t ∧ SessionEnds s t 0 ∧ (t.hd pgStay).enable = false ∧ (t.hd pgStay).st = 0)
    ∧ (h.st = 0 ∨ h.st = 3 → exec (.stayEnable false) s = .next s)
    ∧ (h.st ≠ 1 → exec .pairingRetry s = .next s)
    ∧ (h.st = 1 → s.stay.lstate = 0 → ready → exec .pairingRetry s = .next { s with stay := { s.stay with lstate := 1 } })
    ∧ (h.st = 1 → (s.stay.lstate = 0 ∧ ¬ ready) ∨ (s.stay.lstate ≠ 0 ∧ (s.stay.lstate ≠ 2 ∨ s.stay.hs ≠ 0)) → exec .pairingRetry s = .next s)
    ∧ (h.st = 1 → s.stay.lstate = 2 → s.stay.hs = 0 → ∃ t, exec .pairingRetry s = .next t
      ∧ (s.rillServes (wireRill 3) = true → s.stay.transcript = [] → HelloSent s t)
      ∧ (s.rillServes (wireRill 3) = false → t.stay = s.stay ∧ t.outbound = s.outbound ∧ (t.hd pgNaris).errCode = 0xB6)))
  ∧ (∀ (fast slow : Fin 16) (tl tr : Fin 4) (vs : List Nat) (lat : Fin 65536) (s : State),
    let i : Instr := .linkTrain fast slow tl tr vs lat
    let pick := linkPick (min (laneLimit (s.reg Reg.STAY.MAX_LANES)) (laneLimit tl.val)) (s.reg Reg.STAY.MAX_RATE == 0 && tr.val == 0) fast.val slow.val
    let s' := { s with stay := { s.stay with twinMax := (tl.val, tr.val) } }
    (s.stay.lstate ≠ 1 → exec i s = .next s)
    ∧ (s.stay.lstate = 1 → pick = none → exec i s = .next s')
    ∧ (∀ m, s.stay.lstate = 1 → pick = some m → 1 ∉ vs → ∃ t, exec i s = .next t ∧ SessionEnds s t 0 ∧ (t.hd pgStay).errInfo = 1)
    ∧ (∀ m, s.stay.lstate = 1 → pick = some m → 1 ∈ vs → ∃ t, exec i s = .next t ∧ t.reg Reg.STAY.LINK_LAT = lat.val
        ∧ (s.stay.transcript = [] → t.stay.lstate = 2 ∧ t.stay.mode = m ∧ t.stay.version = 1
          ∧ (s.rillServes (wireRill 3) = true → HelloSent s t)
          ∧ (s.rillServes (wireRill 3) = false → t.stay.hs = s.stay.hs ∧ t.outbound = s.outbound ∧ (t.hd pgNaris).errCode = 0xB6))))
  ∧ (∀ (fast slow : Fin 16) (lat : Fin 65536) (n : Word) (s : State),
    let i : Instr := .linkRetrain fast slow lat n
    let pick := linkPick (min (laneLimit (s.reg Reg.STAY.MAX_LANES)) (laneLimit s.stay.twinMax.1)) (s.reg Reg.STAY.MAX_RATE == 0 && s.stay.twinMax.2 == 0) fast.val slow.val
    let from' (q : Nat) := (q + 2 ^ 32 - n.toNat) % 2 ^ 32
    let held := from' s.stay.txSeq < 2 ^ 31 ∧ from' s.stay.txSeq ≤ s.stay.replay.length
    (s.stay.lstate ≠ 3 → exec i s = .next s)
    ∧ (s.stay.lstate = 3 → s.stay.retrain = none → exec i s = .next { s with stay := { s.stay with retrain := some s.frame.ticks } })
    ∧ (s.stay.lstate = 3 → s.stay.retrain ≠ none → pick = none → exec i s = .next s)
    ∧ (∀ m, s.stay.lstate = 3 → s.stay.retrain ≠ none → pick = some m → ∃ t, exec i s = .next t ∧ t.reg Reg.STAY.LINK_LAT = lat.val ∧ t.stay.retrain = none
      ∧ (¬ held → IntSet t pgStay 4 ∧ t.stay.lstate ≠ 3)
      ∧ (held → t.stay.lstate = 3 ∧ t.stay.mode = m ∧ t.stay.resends = 0 ∧ t.stay.replay = s.stay.replay ∧ t.stay.txKey = s.stay.txKey ∧ t.stay.rxKey = s.stay.rxKey
          ∧ t.outbound = s.outbound ++ (s.stay.replay.filter fun f => from' f.seq < 2 ^ 31).map fun f =>
              .link f.typ ({ f with resend := true, ackSeq := s.stay.rxSeq }.bytes s.stay.txKey (if s.stay.txSeq ≤ f.seq then s.stay.txEpoch - 1 else s.stay.txEpoch)))))
  ∧ (∀ (fp rig frame : List Byte) (s : State),
    let named := s.stayId.map StayId.twinFp = some fp ∧ s.isMember fp = true ∧ s.isMember ownFp = true
    let heard := { s with stay := { s.stay with twinRig := fitBytes 32 rig, transcript := s.stay.transcript ++ [(false, frame)] } }
    (s.stay.lstate ≠ 2 ∨ 2 ≤ s.stay.hs → exec (.hello fp rig frame) s = .next s)
    ∧ (s.stay.lstate = 2 → s.stay.hs < 2 → ¬ named → PeerRejected (.hello fp rig frame) s)
    ∧ (s.stay.lstate = 2 → s.stay.hs = 0 → named → exec (.hello fp rig frame) s = .next heard)
    ∧ (s.stay.lstate = 2 → s.stay.hs = 1 → named → s.lowerTwin = false → exec (.hello fp rig frame) s = .next { heard with stay := { heard.stay with hs := 2 } })
    ∧ (s.stay.lstate = 2 → s.stay.hs = 1 → named → s.lowerTwin = true → s.rillServes (wireRill 3) = false → ∃ t, exec (.hello fp rig frame) s = .next t
        ∧ SessionEnds s t 0 ∧ (t.hd pgNaris).errCode = 0xB6)
    ∧ (s.stay.lstate = 2 → s.stay.hs = 1 → named → s.lowerTwin = true → s.rillServes (wireRill 3) = true → ∃ t dz bs, exec (.hello fp rig frame) s = .next t
        ∧ t.stay.hs = 2 ∧ dz.length = 64 ∧ t.stay.kemDk = some dz ∧ t.outbound = s.outbound ++ [.link 1 bs] ∧ (bs.drop 16).take (mlkemEk dz).length = mlkemEk dz))
  ∧ (∀ (body frame a b c : List Byte) (s : State), s.stay.lstate = 2 → s.stay.hs = 2 →
    (∀ dz, s.stay.kemDk = some dz → (∃ T, KeysDerived (.kem body frame) s (mlkemDecaps dz body) T s.lowerTwin)
      ∧ (s.lowerTwin = true → s.stay.transcript = [(true, a), (false, b), (true, c)] →
        KeysDerived (.kem body frame) s (mlkemDecaps dz body) (sha3_256 (a ++ b ++ c ++ frame)) true))
    ∧ (s.stay.kemDk = none → s.lowerTwin = true → exec (.kem body frame) s = .next s)
    ∧ (s.stay.kemDk = none → s.lowerTwin = false → mlkemEkOk body = false → PeerRejected (.kem body frame) s)
    ∧ (s.stay.kemDk = none → s.lowerTwin = false → mlkemEkOk body = true → s.rillServes (wireRill 3) = false → ∃ t, exec (.kem body frame) s = .next t
        ∧ SessionEnds s t 0 ∧ (t.hd pgNaris).errCode = 0xB6)
    ∧ (s.stay.kemDk = none → s.lowerTwin = false → mlkemEkOk body = true → s.rillServes (wireRill 3) = true → ∃ m : List Byte, m.length = 32
        ∧ (∃ T, KeysDerived (.kem body frame) s (mlkemEncaps body m).1 T false)
        ∧ (s.stay.transcript = [(true, a), (false, b)] → ∃ own : List Byte, (own.drop 16).take (mlkemEncaps body m).2.length = (mlkemEncaps body m).2
          ∧ KeysDerived (.kem body frame) s (mlkemEncaps body m).1 (sha3_256 (b ++ a ++ frame ++ own)) false)))
  ∧ (∀ (body frame : List Byte) (s : State), s.stay.lstate ≠ 2 ∨ s.stay.hs ≠ 2 → exec (.kem body frame) s = .next s)
  ∧ (∀ (cert certSig sig digest : List Byte) (mode : Fin 16) (s : State),
    let i : Instr := .auth cert certSig sig digest mode
    let good := mldsaVerify Config.certRoot "OXCERT" (sha3_256 cert) certSig && mldsaVerify (Config.certKey cert) "OXSTAY" (sha3_256 (s.transcriptHash ++ [if s.lowerTwin then 2 else 1])) sig
    let rigEq : Prop := s.stay.twinRig = s.rigHash
    let cfgEq : Prop := fitBytes 16 digest = s.configDigest
    let runs (h : List Byte) : Bool := h != List.replicate 32 0
    let src := s.reg Reg.FRAME.SOURCE
    let follows := (runs s.stay.twinRig && !runs s.rigHash) || (runs s.stay.twinRig == runs s.rigHash && !s.lowerTwin)
    (s.stay.lstate ≠ 2 ∨ s.stay.hs ≠ 3 → exec i s = .next s)
    ∧ (s.stay.lstate = 2 → s.stay.hs = 3 →
      if good = false then PeerRejected i s
      else ∃ t, exec i s = .next t ∧ t.stay.lstate = 3 ∧ IntSet t pgStay 0 ∧ t.stay.hbMiss = 0 ∧ ((s.hd pgStay).st = 1 → (t.hd pgStay).st = 2)
        ∧ (rigEq → cfgEq → t.stay.pstate = (if s.stay.pstate = 3 then 4 else 1) ∧ (s.stay.pstate ≠ 3 → IntSet t pgStay 2))
        ∧ t.reg Reg.FRAME.SOURCE = (if follows then 2 else if src = 2 then (if 2 < s.flash.opt.members.length then 1 else 0) else src)
        ∧ (¬ (rigEq ∧ cfgEq) → t.stay.pstate = 2 ∧ (t.stay.splitRig = true ↔ ¬ rigEq) ∧ (t.stay.splitCfg = true ↔ ¬ cfgEq))
        ∧ (s.glob.booted = true → mode = 4 → s.stayId.map StayId.pairMode = some 2 → s.mode = .operational → s.glob.change = none →
            t.glob.change.map (fun c => (c.target, c.cause, c.orderly)) = some (.standby, .device, true))))

/-- A frame that fails its CRC, or with a number above the expected one, is counted in CRC_ERR_CNT and answered by a NAK for the expected number; one below it changes nothing. A frame of the expected number whose tag fails sets TAG_FAIL, counts an F0 and loses the twin. One that is accepted moves the expected number and leaves an acknowledgement due; a reserved type is counted. Its ACK_SEQ ends the waits of every frame before it: mirrored writes, held completions and items, and the entry then reads MIRRORED. A NAK sends the kept frames from its number on again, starts a retrain after eight resends without progress, and ends the session where the frame is no longer kept. A stopping link ends with the last acknowledgement. A NAK that refuses a mirrored write marks its item UNMIRRORED and starts RESYNC. ACK is sent while an acknowledgement is due. RETRAIN is refused with LINK_NOT_UP unless the link is up. -/
def Obligations.StayLinkFramesAreAcknowledged : Prop :=
  (∀ (typ : Fin 16) (seq ack : Word) (nak rej crcOk tagOk : Bool) (s : State), s.stay.rxSeq < 2 ^ 32 →
    let i : Instr := .linkFrameRx typ seq ack nak rej crcOk tagOk
    let r := s.stay.rxSeq
    let a := ack.toNat
    let nakSent := ∃ t, exec i s = .next t ∧ t.outbound = s.outbound ++ [sent s 9 [] true] ∧ t.stay.rxSeq = r ∧ t.stay.txSeq = (s.stay.txSeq + 1) % 2 ^ 32
      ∧ t.reg Reg.STAY.CRC_ERR_CNT = (s.reg Reg.STAY.CRC_ERR_CNT + 1) % 2 ^ 32 ∧ t = { s with rf := t.rf, outbound := t.outbound, stay := t.stay }
    let got := s.stay.lstate ≥ 2 ∧ crcOk = true ∧ seq.toNat = r ∧ (typ.val = 0 ∨ typ.val = 1 ∨ tagOk = true)
    let d := (seq.toNat + 2 ^ 32 - r) % 2 ^ 32
    let acked := if seqBefore s.stay.acked a then a else s.stay.acked
    let resends := if seqBefore s.stay.acked a then 0 else s.stay.resends
    let stops := (s.hd pgStay).st = 3 ∧ s.stay.departed = true ∧ acked = s.stay.txSeq
    let from' (q : Nat) := (q + 2 ^ 32 - a) % 2 ^ 32
    let held := from' s.stay.txSeq < 2 ^ 31 ∧ from' s.stay.txSeq ≤ s.stay.replay.length
    let lost := ∃ t, exec i s = .next t ∧ TwinLost s t ∧ IntSet t pgStay 4
      ∧ (s.host.held = [] → t.reg (Reg.FAULT.F_CNT 0) = min (2 ^ 32 - 1) (s.reg (Reg.FAULT.F_CNT 0) + 1))
    (s.stay.lstate < 2 → exec i s = .next s)
    ∧ (s.stay.lstate ≥ 2 → crcOk = false → nakSent)
    ∧ (s.stay.lstate ≥ 2 → crcOk = true → 0 < d → d < 2 ^ 31 → nakSent)
    ∧ (s.stay.lstate ≥ 2 → crcOk = true → 2 ^ 31 ≤ d → exec i s = .next s)
    ∧ (s.stay.lstate ≥ 2 → crcOk = true → seq.toNat = r → 2 ≤ typ.val → tagOk = false → lost)
    ∧ (got → nak = false ∨ rej = true ∨ held → stops → ∃ t, exec i s = .next t ∧ TwinLost s t)
    ∧ (got → ¬ stops → nak = false → ∃ t, exec i s = .next t ∧ t.stay.rxSeq = (r + 1) % 2 ^ 32 ∧ t.stay.ackDue = true ∧ t.outbound = s.outbound
        ∧ (∀ m, m ∈ t.stay.mirror ↔ m ∈ s.stay.mirror ∧ ¬ seqBefore m.seq a)
        ∧ t.stay.acked = acked ∧ t.stay.resends = resends
        ∧ t.host.held.length = s.host.held.length ∧ (∀ h ∈ t.host.held, ∀ q ∈ h.waits, ¬ seqBefore q a) ∧ (∀ j ∈ t.adm.items, ∀ q ∈ j.mirrorWait, ¬ seqBefore q a)
        ∧ (∀ m ∈ s.stay.mirror, seqBefore m.seq a → ∀ e, s.entry m.head = some e → e.mirror = 2 → t.entry m.head = some { e with mirror := 1 })
        ∧ t.reg Reg.STAY.CRC_ERR_CNT = (if 11 ≤ typ.val then (s.reg Reg.STAY.CRC_ERR_CNT + 1) % 2 ^ 32 else s.reg Reg.STAY.CRC_ERR_CNT))
    ∧ (got → nak = true → rej = false → ¬ held → lost)
    ∧ (got → ¬ stops → nak = true → rej = false → held → resends < 8 → ∃ t, exec i s = .next t ∧ t.stay.resends = resends + 1 ∧ t.stay.retrain = s.stay.retrain
        ∧ t.outbound = s.outbound ++ (s.stay.replay.filter fun f => from' f.seq < 2 ^ 31).map fun f =>
          .link f.typ ({ f with resend := true, ackSeq := (r + 1) % 2 ^ 32 }.bytes s.stay.txKey (if s.stay.txSeq ≤ f.seq then s.stay.txEpoch - 1 else s.stay.txEpoch)))
    ∧ (got → ¬ stops → nak = true → rej = false → held → 8 ≤ resends →
        ∃ t, exec i s = .next t ∧ t.stay.retrain = some (s.stay.retrain.getD s.frame.ticks) ∧ t.outbound = s.outbound)
    ∧ (got → ¬ stops → nak = true → rej = true → let q := (a + 2 ^ 32 - 1) % 2 ^ 32
        ∃ t, exec i s = .next t ∧ (∀ m ∈ t.stay.mirror, m.seq ≠ q) ∧ t.stay.pstate = (if s.stay.pstate = 1 then 4 else s.stay.pstate)
          ∧ (t.adm.items.map fun j => (j.id, j.unmirrored)) = s.adm.items.map fun j => (j.id, j.unmirrored || j.mirrorWait.contains q)))
  ∧ (∀ s : State,
    (s.stay.ackDue = true → 2 ≤ s.stay.lstate → ∃ t, exec .ack s = .next t ∧ t.outbound = s.outbound ++ [sent s 9 [] false] ∧ t.stay.ackDue = false
        ∧ t = { s with outbound := t.outbound, stay := t.stay })
    ∧ (s.stay.ackDue = false ∨ s.stay.lstate < 2 → exec .ack s = .next s)
    ∧ (s.stay.lstate ≠ 3 → Refused .retrain s pgStay 0x82)
    ∧ (s.stay.lstate = 3 → exec .retrain s = .next { s with stay := { s.stay with retrain := some (s.stay.retrain.getD s.frame.ticks) } }))

/-- While the link is up HEARTBEAT sends frame number, CONFIG_GEN, mode, DEPART and digest at cycle FL_CYCLES − 100. A received heartbeat is kept; one with DEPART loses the twin; where both heartbeats of a frame are there, other digests give SPLIT with SPLIT_CFG, and equal ones end that split; with SOURCE TWIN it gives the tick phase and the numbering. At cycle 1,000 a heartbeat that is missing is counted, and the third in a row loses the twin. A lost twin: PSTATE LOST, LOST_CNT, LOST_FRAME, TWIN_LOST, the session gone, no item waits, the duplicate table frozen, and a standby with PROMOTE_AUTO asks for OPERATIONAL. CPL_REC enters a table that is not frozen and is full at 262,144 records; HEAD keeps a partition's head. DUP_CLEAR in LOST, or DUP_HOLD frames after the loss, clears the table. -/
def Obligations.StayHeartbeatsFindTheLostTwin : Prop :=
  (∀ s : State,
    let dg := fitBytes 16 s.stay.ownDigest
    let differ (t : State) := if s.stay.pstate = 1 ∨ s.stay.pstate = 4 then t.stay.pstate = 2 ∧ t.stay.splitCfg = true ∧ IntSet t pgStay 6 else t.stay.pstate = s.stay.pstate
    let agree (t : State) := t.stay.splitCfg = (s.stay.splitCfg && s.stay.pstate != 2)
      ∧ t.stay.pstate = if s.stay.pstate = 2 ∧ s.stay.splitCfg = true ∧ s.stay.splitRig = false then 4 else s.stay.pstate
    (s.stay.lstate ≠ 3 → exec .heartbeat s = .next s)
    ∧ (s.stay.lstate = 3 → ∃ t, exec .heartbeat s = .next t ∧ t.frame = { s.frame with cycle := max s.frame.cycle (s.flCycles - 100) }
        ∧ (s.outbound ++ [sent s 3 (leBytes 8 s.frame.no ++ leBytes 4 (s.reg Reg.STAY.CONFIG_GEN)
            ++ [BitVec.ofNat 8 s.mode.num, if s.stay.depart then 1 else 0, 0, 0] ++ dg) false]).isPrefixOf t.outbound = true
        ∧ t.stay.hbSent = some (s.frame.no, dg) ∧ t.stay.depart = false ∧ (t.stay.departed = true ↔ s.stay.departed = true ∨ s.stay.depart = true)
        ∧ ((∀ d, s.stay.hbHeard ≠ some (s.frame.no, d)) → t = { s with frame := t.frame, outbound := t.outbound, stay := t.stay })
        ∧ (∀ d, s.stay.hbHeard = some (s.frame.no, d) → (d ≠ dg → differ t) ∧ (d = dg → agree t)))
    ∧ (¬ InSession s → exec .heartbeatMiss s = .next s)
    ∧ (InSession s → let c := { s with frame := { s.frame with cycle := max s.frame.cycle 1000 } }
        (∀ f, s.stay.hbLast = some f → s.frame.ticks ≤ f + 1 → exec .heartbeatMiss s = .next { c with stay := { s.stay with hbMiss := 0 } })
        ∧ (s.stay.hbLast = none ∨ (∃ f, s.stay.hbLast = some f ∧ f + 1 < s.frame.ticks) →
            (s.stay.hbMiss < 2 → exec .heartbeatMiss s = .next { c with stay := { s.stay with hbMiss := s.stay.hbMiss + 1 } })
            ∧ (2 ≤ s.stay.hbMiss → ∃ t, exec .heartbeatMiss s = .next t ∧ TwinLost c t)))
    ∧ (s.stay.lstate = 0 → exec .twinLost s = .next s)
    ∧ (s.stay.lstate ≠ 0 → ∃ t, exec .twinLost s = .next t ∧ TwinLost s t)
    ∧ (s.stay.pstate ≠ 3 → (s.stay.lstate ≠ 3 → Refused .dupClear s pgStay 0x82) ∧ (s.stay.lstate = 3 → exec .dupClear s = .next s))
    ∧ (s.stay.pstate = 3 → exec .dupClear s = .next { s with stay := { s.stay with dup := [], frozen := false } })
    ∧ (s.stay.frozen = true → s.stay.frozenTicks + s.reg Reg.STAY.DUP_HOLD ≤ s.frame.ticks → exec .dupHoldExpiry s = .next { s with stay := { s.stay with dup := [], frozen := false } })
    ∧ (s.stay.frozen = false ∨ s.frame.ticks < s.stay.frozenTicks + s.reg Reg.STAY.DUP_HOLD → exec .dupHoldExpiry s = .next s))
  ∧ (∀ (frame : Nat) (digest : List Byte) (depart : Bool) (cyc : Nat) (s : State),
    let i : Instr := .heartbeatRx frame digest depart cyc
    let dg := fitBytes 16 digest
    let kept := { s with stay := { s.stay with
      hbHeard := some (frame, dg)
      hbLast := if s.frame.no ≤ frame then some (s.frame.ticks + (frame - s.frame.no)) else if frame = s.frame.prev then some (s.frame.ticks - 1) else s.stay.hbLast } }
    let n := s.flCycles
    let lat := s.reg Reg.STAY.LINK_LAT
    let late : Int := ((cyc : Int) - lat - ((n : Int) - 100)) % n
    let phase := if (n : Int) < 2 * late then late - n else late
    let runs := if lat < 100 ∧ n - 100 ≤ cyc then frame else frame + 1
    (s.stay.lstate ≠ 3 → exec i s = .next s)
    ∧ (s.stay.lstate = 3 → depart = true → ∃ t, exec i s = .next t ∧ TwinLost s t)
    ∧ (s.stay.lstate = 3 → depart = false → ∃ t, exec i s = .next t ∧ t.stay.hbLast = kept.stay.hbLast ∧ t.stay.hbHeard = kept.stay.hbHeard
        ∧ (∀ d, s.stay.hbSent = some (frame, d) →
            (d ≠ dg → if s.stay.pstate = 1 ∨ s.stay.pstate = 4 then t.stay.pstate = 2 ∧ t.stay.splitCfg = true ∧ IntSet t pgStay 6 else t.stay.pstate = s.stay.pstate)
            ∧ (d = dg → t.stay.splitCfg = (s.stay.splitCfg && s.stay.pstate != 2)
              ∧ t.stay.pstate = if s.stay.pstate = 2 ∧ s.stay.splitCfg = true ∧ s.stay.splitRig = false then 4 else s.stay.pstate))
        ∧ (s.reg Reg.FRAME.SOURCE ≠ 2 → t.frame = s.frame ∧ ((∀ d, s.stay.hbSent ≠ some (frame, d)) → t = kept))
        ∧ (s.reg Reg.FRAME.SOURCE = 2 → t.reg Reg.FRAME.PHASE_ERR = signedField 16 phase
          ∧ (t.reg Reg.FRAME.LOCKED = if phase.natAbs ≤ s.reg Reg.FRAME.ALIGN_LIMIT then 1 else 0)
          ∧ t.frame = if s.frame.no < runs then { s.frame with load := some (runs + 1), hwm := max s.frame.hwm (runs + 1 + 2 ^ 17) } else s.frame)))
  ∧ (∀ (ring : Fin 4096) (part status : Fin 256) (seq frame : Word) (flags : Fin 8) (s : State),
    let i : Instr := .cplRec ring part status seq frame flags
    let dr : DupRec := { ring := ring, part := part, status := status, seq := seq.toNat, frame := frame.toNat, flags := flags, tick := s.frame.ticks }
    (s.stay.lstate ≠ 3 ∨ s.stay.frozen = true → exec i s = .next s)
    ∧ (s.stay.lstate = 3 → s.stay.frozen = false → s.stay.dup.length < 262144 → exec i s = .next { s with stay := { s.stay with dup := s.stay.dup ++ [dr] } })
    ∧ (∀ d ds, s.stay.lstate = 3 → s.stay.frozen = false → s.stay.dup = d :: ds → ds.length + 1 = 262144 → exec i s = .next { s with stay := { s.stay with dup := ds ++ [dr] } }))
  ∧ (∀ (p : Fin 256) (n : Nat) (h : List Byte) (s : State),
    (s.stay.lstate ≠ 3 → exec (.head p n h) s = .next s)
    ∧ (s.stay.lstate = 3 → ∃ t, exec (.head p n h) s = .next t ∧ t = { s with stay := { s.stay with heads := t.stay.heads } }
        ∧ SMap.get none t.stay.heads p = some (n, fitBytes 32 h) ∧ (∀ k, k ≠ p.val → SMap.get none t.stay.heads k = SMap.get none s.stay.heads k)))

/-- A write record joins the pending writes with the rows and generation it gives, and leaves an acknowledgement due; one whose rows hold another generation, or whose entry is not held, is answered by a NAK and starts RESYNC. A command of the twin waits for the second tick after frame m; one that comes more than one tick after it, or while not PAIRED, is discarded. Twins that load the same rig take TAKE_FRAME as the latest of both proposals and of what was written. RESYNC counts a row and settles it: equal rows change nothing; a newer generation replaces what lies there, and an entry for an empty row is written; an older one leaves the row; one entry with other limits takes the AND of USAGE and the smaller limits; other material is deleted and counted; a pending write, and one mirrored during the comparison, stand. RESYNC_DONE makes every entry MIRRORED and the pair PAIRED. RESYNC_CFG is refused with LINK_NOT_UP, NOT_SPLIT or PART_BUSY, and is otherwise adopted later. -/
def Obligations.StayMirrorsAndResynchronises : Prop :=
  (∀ (mr : MirrorRec) (seq : Word) (s : State),
    let i : Instr := .cleatWr mr seq
    let joins (w : CleatWrite) := exec i s = .next { s with cleat := { s.cleat with pending := s.cleat.pending ++ [w] }, stay := { s.stay with ackDue := true, settled := s.stay.settled ++ [w.head] } }
    let refused := ∃ t, exec i s = .next t ∧ t.cleat = s.cleat ∧ t.stay.pstate = 4
      ∧ (s.outbound ++ [Out.link 9 (({ nextFrame s 9 [] true with ackSeq := max s.stay.rxSeq (seq.toNat + 1) % 2 ^ 32 } : LinkFrame).bytes s.stay.txKey s.stay.txEpoch)]).isPrefixOf t.outbound = true
    (¬ Mirrors s → exec i s = .next s)
    ∧ (Mirrors s → match mr with
      | .create h e => let head := h.toNat % 2 ^ 17; let g := h.toNat / 2 ^ 17
        (¬ Clashes s head e.rows g → joins { head := head, rows := e.rows, op := .create (mirroredEntry e), writer := .twin, gen := some g })
        ∧ (Clashes s head e.rows g → refused)
      | .delete h => (∀ e, HeldUnder s h e → joins { head := h.toNat % 2 ^ 17, rows := e.rows, op := .delete, writer := .twin })
        ∧ ((∀ e, ¬ HeldUnder s h e) → refused)
      | .restrict h u l n => (∀ e, HeldUnder s h e → joins { head := h.toNat % 2 ^ 17, rows := e.rows, op := .restrict u l n, writer := .twin })
        ∧ ((∀ e, ¬ HeldUnder s h e) → refused)))
  ∧ (∀ (m : Nat) (cmd : TwinCmd) (s : State),
    let i : Instr := .config m cmd
    let at' := if s.frame.no ≤ m then s.frame.ticks + (m - s.frame.no) + 2 else s.frame.ticks - 1 + 2
    let waits (c : CfgCmd) := exec i s = .next { s with stay := { s.stay with cfg := s.stay.cfg ++ [{ atTick := at', lower := !s.lowerTwin, cmd := c }] } }
    let last (l : List (Nat × Nat)) (k : Nat) : Nat := ((l.reverse.find? fun e => e.1 == k).map Prod.snd).getD 0
    (s.stay.lstate ≠ 3 ∨ s.stay.pstate ≠ 1 ∨ (m < s.frame.no ∧ m ≠ s.frame.prev) → exec i s = .next s)
    ∧ (s.stay.lstate = 3 → s.stay.pstate = 1 → s.frame.no ≤ m ∨ m = s.frame.prev → match cmd with
      | .part op p q res => waits (.part op p q res)
      | .exported p => waits (.exported p)
      | .commit o b => ∃ x y, waits (.commit x y) ∧ (∀ k, SMap.get 0 x k = last o k) ∧ (∀ k, SMap.get 0 y k = last b k)))
  ∧ (∀ (hash : List Byte) (take : Nat) (s : State),
    let i : Instr := .rig hash take
    let noted (n : Nat) := { s with stay := { s.stay with rigProposal := some (hash, n) } }
    (¬ Mirrors s → exec i s = .next s)
    ∧ (Mirrors s → (s.rig.loading = none ∧ s.rig.ready = none) ∨ s.stay.rigOwn = none → exec i s = .next (noted take))
    ∧ (∀ src r t, Mirrors s → s.rig.loading = some (src, r) ∨ (s.rig.loading = none ∧ s.rig.ready = some (src, r)) → s.stay.rigOwn = some t → r.hash ≠ hash → exec i s = .next (noted take))
    ∧ (∀ src r t, Mirrors s → s.rig.loading = some (src, r) ∨ (s.rig.loading = none ∧ s.rig.ready = some (src, r)) → s.stay.rigOwn = some t → r.hash = hash →
        let m := max (max t take) (s.reg Reg.FRAME.TAKE_FRAME_LO + 2 ^ 32 * s.reg Reg.FRAME.TAKE_FRAME_HI)
        ∃ u, exec i s = .next u ∧ u = { noted m with rf := u.rf } ∧ u.reg Reg.FRAME.TAKE_FRAME_LO = m % 2 ^ 32 ∧ u.reg Reg.FRAME.TAKE_FRAME_HI = m / 2 ^ 32 % 2 ^ 16))
  ∧ (∀ (row : Fin 131072) (gen : Fin 32768) (te : Option TwinEntry) (s : State),
    let i : Instr := .resync row gen te
    let g := s.rowGen row
    let left := (if s.stay.pstate = 1 then 131072 else s.stay.rowsLeft) - 1
    let writes (ws : List CleatWrite) (conflicts : Nat := 0) := ∃ t, exec i s = .next t ∧ t.cleat = { s.cleat with pending := s.cleat.pending ++ ws } ∧ t.stay.rowsLeft = left
      ∧ t.stay.pstate = 4 ∧ (t.reg Reg.STAY.RESYNC_CONFLICT_CNT = if conflicts = 0 then s.reg Reg.STAY.RESYNC_CONFLICT_CNT else min 65535 (s.reg Reg.STAY.RESYNC_CONFLICT_CNT + 1))
    let put (t : TwinEntry) : CleatWrite := { head := row, rows := t.rows, op := .create (mirroredEntry t), writer := .twin, gen := some gen.val }
    let del (x : Nat × Entry) : CleatWrite := { head := x.1, rows := x.2.rows, op := .delete, writer := .twin }
    let covers (n : Nat) := s.cleat.ents.filterMap fun x => x.2.bind fun e => if x.1 < row.val + n ∧ row.val < x.1 + e.rows then some (x.1, e) else none
    let free := (∀ w ∈ s.cleat.pending, w.head ≠ row.val) ∧ (s.stay.pstate = 4 → row.val ∉ s.stay.settled)
    (¬ Mirrors s → exec i s = .next s)
    ∧ (Mirrors s → ¬ free → writes [])
    ∧ (Mirrors s → free →
      (newerGen g gen → writes [])
      ∧ (∀ t, te = some t → newerGen gen g → writes ((covers t.rows).map del ++ [put t]))
      ∧ (∀ x, te = none → s.entry row = some x → newerGen gen g → writes [{ head := row, rows := x.rows, op := .delete, writer := .twin, gen := some gen.val }])
      ∧ (te = none → s.entry row = none → newerGen gen g → writes (if covers 1 = [] then [{ head := row, rows := 1, op := .delete, writer := .twin, gen := some gen.val }] else []))
      ∧ (te = none → gen.val = g → writes [])
      ∧ (∀ t, te = some t → s.entry row = none → gen.val = g → writes [put t])
      ∧ (∀ x t, s.entry row = some x → te = some t → gen.val = g →
        (¬ (x.alg = t.alg ∧ x.klen = t.klen ∧ x.material = t.material) → writes [del (row.val, x)] 1)
        ∧ (x.alg = t.alg → x.klen = t.klen → x.material = t.material →
          writes (if x.usage = t.usage ∧ x.useLimit = t.useLimit ∧ x.notAfter = t.notAfter then []
            else [{ head := row, rows := x.rows, writer := .twin, op := .restrict (x.usage &&& t.usage) (lessNonzero x.useLimit t.useLimit) (lessNonzero x.notAfter t.notAfter) }])))))
  ∧ (∀ s : State,
    (s.stay.pstate ≠ 4 → exec .resyncDone s = .next s)
    ∧ (s.stay.pstate = 4 → ∃ t, exec .resyncDone s = .next t ∧ t.stay.pstate = 1 ∧ t.stay.rowsLeft = 0 ∧ IntSet t pgStay 7 ∧ IntSet t pgStay 2
        ∧ (∀ r, t.entry r = (s.entry r).map fun e => { e with mirror := 1 })))
  ∧ (∀ (c : TwinConfig) (s : State),
    (s.stay.lstate ≠ 3 → Refused (.resyncCfg c) s pgStay 0x82)
    ∧ (s.stay.lstate = 3 → s.stay.pstate ≠ 2 ∨ s.stay.splitCfg = false → Refused (.resyncCfg c) s pgStay 0x81)
    ∧ (s.stay.lstate = 3 → s.stay.pstate = 2 → s.stay.splitCfg = true → (∃ x ∈ s.parts.tab, x.2.st ≠ .quiesced ∧ x.2.st ≠ .none) → Refused (.resyncCfg c) s pgStay 0x70)
    ∧ (s.stay.lstate = 3 → s.stay.pstate = 2 → s.stay.splitCfg = true → (∀ x ∈ s.parts.tab, x.2.st = .quiesced ∨ x.2.st = .none) →
        exec (.resyncCfg c) s = .next { s with stay := { s.stay with twinCfg := some c } }))

/-- A cycle with nothing to see asserts nothing. A sensor source that becomes asserted while enabled is latched, counted and recorded; its level sets ALERT, starts the change to DEGRADED, or zeroizes the root mask and changes to UNCLAIMED; on battery it sets the pending flags with the number of its record. CELL_REMOVED on battery zeroizes the root mask whatever its policy. A loop steps its LFSR, trips on two differing samples in a row or two of eight, and clears after 64 matches. Banks 2 and 3 are erased after a CLEAR_ALL. APPLY is refused as R507 and R508 say and otherwise waits for the next cycle, where it takes effect. A test reports PASS or FAIL, and a FAIL is an event. RTC_CMD.SET loads the time, and is refused for an earlier time or in TERMINATED. -/
def Obligations.TamperSourcesAndResponses : Prop :=
  (∀ (t : TamperIn) (s : State), ∃ u, exec (.tamperEval t) s = .next u ∧ u.tamper.vbat = t.vbat ∧ u.tamper.vhold = t.vhold ∧ u.tamper.tempSd = t.tempSd
    ∧ u.tamper.tempCd = t.tempCd ∧ u.tamper.staged = none ∧ u.witness.arb = false
    ∧ (∀ n < 37, s.tamper.test ≠ some n → (u.tamper.asserted.testBit n = true ↔ SourceHolds t s n))
    ∧ (∀ n < 37, Raises t s n → (u.reg (if n < 32 then Reg.TAMPER.LATCHED_LO else Reg.TAMPER.LATCHED_HI)).testBit (n % 32) = true
        ∧ IntSet u pgTamper 0 ∧ (∃ w ∈ u.tamper.recs, w.typ = 1 ∧ w.source = n))
    ∧ ((∀ n < 37, ¬ Raises t s n) → u.glob.change = s.glob.change ∧ u.reg Reg.TAMPER.EVENT_CNT = s.reg Reg.TAMPER.EVENT_CNT
        ∧ u.tamper.recs.length = s.tamper.recs.length + if s.tamper.staged = none then 0 else 1))
  ∧ (∀ (t : TamperIn) (s : State), CalmInput t s → ∃ u, exec (.tamperEval t) s = .next u ∧ u.tamper.vbat = t.vbat ∧ u.tamper.vhold = t.vhold ∧ u.tamper.tempSd = t.tempSd
    ∧ u.tamper.tempCd = t.tempCd ∧ u.witness.arb = false
    ∧ (s.tamper.mainPower = false → s.tamper.rtcSub < 32767 → u.tamper.rtcSub = s.tamper.rtcSub + 1 ∧ u.tamper.rtcSec = s.tamper.rtcSec)
    ∧ (s.tamper.mainPower = false → s.tamper.rtcSub = 32767 → u.tamper.rtcSub = 0 ∧ u.tamper.rtcSec = (s.tamper.rtcSec + 1) % 2 ^ 32)
    ∧ (s.reg Reg.TAMPER.VBAT_WARN ≤ s.tamper.vbat → t.vbat.val < s.reg Reg.TAMPER.VBAT_WARN → IntSet u pgTamper 6)
    ∧ (t.sensors = 0 → u.tamper.asserted = 0 ∧ u.tamper.recs = s.tamper.recs ∧ u.reg Reg.TAMPER.EVENT_CNT = s.reg Reg.TAMPER.EVENT_CNT ∧ u.glob.change = s.glob.change)
    ∧ (∀ n ∈ [24, 25, 29, 30, 31, 32, 33, 34], t.sensors = BitVec.ofNat 37 (2 ^ n) →
      (¬ SensorLive n s → u.tamper.asserted = 0 ∧ u.tamper.recs = s.tamper.recs)
      ∧ (SensorLive n s → s.tamper.asserted.testBit n = true ∨ (s.policyOf n).enable = false → u.tamper.asserted = 2 ^ n ∧ u.tamper.recs = s.tamper.recs)
      ∧ (SensorLive n s → s.tamper.asserted.testBit n = false → (s.policyOf n).enable = true → s.glob.change = none → (∀ x ∈ s.tamper.recs, ¬ (x.typ = 1 ∧ x.source = n)) →
        let r := (s.policyOf n).resp
        let bat := s.tamper.mainPower = false
        ∃ w more, u.tamper.recs = s.tamper.recs ++ w :: more ∧ w.typ = 1 ∧ w.source = n ∧ w.resp = r ∧ u.tamper.asserted = 2 ^ n
          ∧ u.reg Reg.TAMPER.EVENT_CNT = (s.reg Reg.TAMPER.EVENT_CNT + 1) % 2 ^ 32 ∧ IntSet u pgTamper 0
          ∧ (u.reg (if n < 32 then Reg.TAMPER.LATCHED_LO else Reg.TAMPER.LATCHED_HI)).testBit (n % 32) = true
          ∧ (r = 0 → more = [] ∧ u.glob.change = none)
          ∧ (¬ bat → w.flags = 0 ∧ (1 ≤ r → IntSet u pgTamper 1) ∧ (r = 1 → u.glob.change = none)
            ∧ (r = 2 → s.glob.booted = true → s.mode = .operational → u.tamper.clrVol = true ∧ changeOf u = some (.degraded, .clearVolatile, false))
            ∧ (r = 3 → s.glob.booted = true → s.mode = .operational → u.tamper.rootState = 0 ∧ u.tamper.rootMask = none ∧ u.tamper.clrAll = true ∧ u.tamper.eraseBanks = true
                ∧ changeOf u = some (.unclaimed, .clearAll, false)))
          ∧ (bat → w.flags = 1 + (if 1 ≤ r then 8 else 0) + (if 2 ≤ r then 16 else 0)
            ∧ (1 ≤ r → u.tamper.alertPending = true ∧ u.tamper.alertSeq = s.witness.wseq + s.tamper.recs.length)
            ∧ (2 ≤ r → u.tamper.clearPending = true ∧ u.tamper.clearSeq = s.witness.wseq + s.tamper.recs.length)
            ∧ (r = 3 → u.tamper.rootState = 0 ∧ u.tamper.rootMask = none ∧ u.tamper.eraseBanks = true)))))
  ∧ (∀ (t : TamperIn) (s : State), CalmInput { t with vbat := 2400 } s → t.sensors = 0 → t.vbat.val < 2200 → s.tamper.mainPower = false → (s.policyOf 35).enable = true →
    s.tamper.asserted = 2 ^ 36 → s.glob.change = none → (∀ x ∈ s.tamper.recs, ¬ (x.typ = 1 ∧ x.source = 35)) →
      ∃ u w more, exec (.tamperEval t) s = .next u ∧ u.tamper.recs = w :: more ∧ w.source = 35 ∧ w.flags = 57 ∧ u.tamper.rootState = 0 ∧ u.tamper.rootMask = none ∧ u.tamper.eraseBanks = true)
  ∧ (∀ (t : TamperIn) (n : Nat) (p : Policy) (seed : Nat) (s : State), s.tamper.staged = some (n, p, seed) →
      ∃ u, exec (.tamperEval t) s = .next u ∧ u.tamper.staged = none ∧ u.policyOf n = p ∧ IntSet u pgTamper 5)
  ∧ (∀ (n : Fin 16) (b : Bool) (s : State),
    let l := SMap.get {} s.tamper.loops n
    let p := s.policyOf (8 + n)
    let drive := if p.lmode then l.lfsr.testBit 30 else p.polarity
    ∃ u, exec (.loopSample n b) s = .next u ∧ u = { s with tamper := { s.tamper with loops := u.tamper.loops } }
      ∧ (∀ k, k ≠ n.val → SMap.get {} u.tamper.loops k = SMap.get {} s.tamper.loops k) ∧ (let m := SMap.get {} u.tamper.loops n
        m.sensed = (2 * l.sensed + (if b then 1 else 0)) % 2 ^ 32
        ∧ m.lfsr = (if p.lmode then (2 * l.lfsr + (if l.lfsr.testBit 30 = l.lfsr.testBit 27 then 0 else 1)) % 2 ^ 31 else l.lfsr)
        ∧ (p.lmode = false → b ≠ drive → l.hist.head? = some true → m.tripped = true)
        ∧ (p.lmode = false → b ≠ drive → l.hist.head? ≠ some true → l.tripped = false → m.tripped = false)
        ∧ (p.lmode = true → 2 ≤ (((drive != b) :: l.hist).take 8).countP id → m.tripped = true)
        ∧ (p.lmode = true → (((drive != b) :: l.hist).take 8).countP id < 2 → l.tripped = false → m.tripped = false)
        ∧ (b = drive → l.matched = 63 → (∀ x ∈ l.hist, x = false) → m.tripped = false)
        ∧ (b = drive → l.matched < 63 → l.tripped = true → m.tripped = true)))
  ∧ (∀ s : State,
    (s.tamper.eraseBanks = false ∨ s.flash.ready = false → exec .bankEraseAfterClear s = .next s)
    ∧ (s.tamper.eraseBanks = true → s.flash.ready = true → ∃ u, exec .bankEraseAfterClear s = .next u ∧ u.tamper.eraseBanks = false
        ∧ (∀ e ∈ u.flash.mem, e.1 / 4096 / 2112 ≠ 2 ∧ e.1 / 4096 / 2112 ≠ 3)
        ∧ (∀ k, k / 4096 / 2112 ≠ 2 → k / 4096 / 2112 ≠ 3 → SMap.get 0xFF u.flash.mem k = SMap.get 0xFF s.flash.mem k))
    ∧ exec .xtal32Start s = .next { s with tamper := { s.tamper with xtalOn := true } })
  ∧ (∀ s : State,
    let n := s.reg Reg.TAMPER.SRC_SEL
    let old := s.policyOf n
    let p : Policy := { enable := s.bit Reg.TAMPER.ENABLE, resp := s.reg Reg.TAMPER.RESP, lmode := if 8 ≤ n ∧ n < 24 then s.bit Reg.TAMPER.LMODE else old.lmode, polarity := if n < 24 then s.bit Reg.TAMPER.POLARITY else old.polarity, debounce := if n < 8 then s.reg Reg.TAMPER.DEBOUNCE else old.debounce }
    let may := s.mode = .factory ∨ s.mode = .unclaimed ∨ s.mode = .ceremony
    let value := n ≤ 36 ∧ (24 ≤ n → p.enable = old.enable)
    let fine := s.tamper.staged = none ∧ s.mode ≠ .terminated ∧ value ∧ floorOf n ≤ p.resp ∧ (LowersEntry old p → may)
    (s.tamper.staged ≠ none → Refused .applyPolicy s pgTamper 0xC2)
    ∧ (s.tamper.staged = none → s.mode = .terminated → Refused .applyPolicy s pgTamper 0xC0)
    ∧ (s.tamper.staged = none → s.mode ≠ .terminated → ¬ value → Refused .applyPolicy s pgTamper 0x01)
    ∧ (s.tamper.staged = none → s.mode ≠ .terminated → value → p.resp < floorOf n → Refused .applyPolicy s pgTamper 0xC1)
    ∧ (s.tamper.staged = none → s.mode ≠ .terminated → value → floorOf n ≤ p.resp → LowersEntry old p → ¬ may → Refused .applyPolicy s pgTamper 0xC0)
    ∧ (fine → p.lmode = false → ∃ u, exec .applyPolicy s = .next u ∧ u = { s with hdr := u.hdr, tamper := { s.tamper with staged := some (n, p, 0) } } ∧ (u.hd pgTamper).detail.testBit 0 = true)
    ∧ (fine → p.lmode = true → s.rillServes (wireRill 3) = true → ∃ u v, exec .applyPolicy s = .next u ∧ 0 < v ∧ v < 2 ^ 31 ∧ u.tamper = { s.tamper with staged := some (n, p, v) })
    ∧ (fine → p.lmode = true → s.rillServes (wireRill 3) = false → ∃ u, exec .applyPolicy s = .next u ∧ (u.hd pgTamper).errCode = 0xC3 ∧ u.tamper = s.tamper))
  ∧ (∀ (src : Fin 64) (s : State),
    (s.tamper.test ≠ none → Refused (.testGo src) s pgTamper 0xC4)
    ∧ (s.tamper.test = none → 36 < src.val ∨ (s.policyOf src).enable = false → Refused (.testGo src) s pgTamper 0x01)
    ∧ (s.tamper.test = none → src.val ≤ 36 → (s.policyOf src).enable = true → ∃ u, exec (.testGo src) s = .next u
        ∧ u = { s with rf := u.rf, hdr := u.hdr, tamper := { s.tamper with test := some src.val } } ∧ u.reg Reg.TAMPER.BUSY = 1 ∧ (u.hd pgTamper).detail.testBit 1 = true))
  ∧ (∀ (pass : Bool) (s : State),
    (s.tamper.test = none → exec (.testEnd pass) s = .next s)
    ∧ (∀ n, s.tamper.test = some n → n < 37 → ∃ u w more, exec (.testEnd pass) s = .next u ∧ u.tamper.test = none ∧ u.reg Reg.TAMPER.BUSY = 0 ∧ u.reg Reg.TAMPER.LAST_SRC = n
        ∧ u.reg Reg.TAMPER.RESULT = (if pass then 1 else 2) ∧ IntSet u pgTamper 3 ∧ u.tamper.asserted.testBit n = false
        ∧ (pass = true ∨ n ≠ 35 ∨ s.tamper.mainPower = true → u.tamper.recs = s.tamper.recs ++ w :: more ∧ w.typ = 3 ∧ w.source = n ∧ w.detail.head? = some (if pass then 1 else 2))
        ∧ (pass = true → more = [] ∧ u.glob.change = s.glob.change)
        ∧ (pass = false → IntSet u pgTamper 4 ∧ IntSet u pgTamper 0 ∧ u.reg Reg.TAMPER.EVENT_CNT = (s.reg Reg.TAMPER.EVENT_CNT + 1) % 2 ^ 32)
        ∧ (pass = false → s.tamper.mainPower = true → (s.policyOf n).resp = 0 → (∀ x ∈ s.tamper.recs, ¬ (x.typ = 1 ∧ x.source = n)) → ∃ e, more = [e] ∧ e.typ = 1 ∧ e.source = n ∧ e.flags = 64)
        ∧ (pass = false → s.tamper.mainPower = true → (s.policyOf n).resp = 1 → s.glob.change = none → IntSet u pgTamper 1)))
  ∧ (∀ s : State,
    let v := s.reg Reg.TAMPER.RTC_SET_SEC
    let t := s.tamper
    let may := s.mode = .unclaimed ∨ s.mode = .ceremony
    (s.mode = .terminated → Refused .rtcSet s pgTamper 0xC0)
    ∧ (s.mode ≠ .terminated → v < t.rtcSec → ¬ may → Refused .rtcSet s pgTamper 0xC5)
    ∧ (s.mode ≠ .terminated → t.rtcSec ≤ v ∨ may → ∃ u w, exec .rtcSet s = .next u ∧ w.typ = 7 ∧ w.source = 255 ∧ w.detail = leBytes 4 t.rtcSec ++ leBytes 4 v
        ∧ u = { s with tamper := { t with rtcSec := v, rtcSub := 0, rtcValid := t.xtalOn, recs := t.recs ++ [w] } }))

/-- At each entry into a field the port takes a UID of 0x08 and 3 bytes; a loss of the field powers it off. It answers ATQA 0x0001, the bits of UID and BCC that the reader does not name, SAK 0x00 with its CRC, and goes back on a frame out of sequence. In ACTIVE, WREAD answers 64 B of witness memory with CRC_A, or NAK_RANGE; WSTAMP writes 16 B of the audit-stamp area, or answers NAK_RANGE, or NAK_GATE where field strength or VBAT is too low. A wired access that waits is done when it wins; after its eighth retry it ends: a load traps with ADDR_CLASS, a store is discarded, a window read answers zero, and HBF_CNT and HBF_ADDR tell it. The record writer writes the oldest record at the slot of its WSEQ with its CHECK, and yields where the arbiter is held. -/
def Obligations.WitnessPortAndItsMemory : Prop :=
  (∀ (ma : Fin 65536) (s : State),
    (s.witness.field = true → exec (.fieldOn ma) s = .next { s with witness := { s.witness with ma := ma } })
    ∧ (s.witness.field = false → ∃ t n, exec (.fieldOn ma) s = .next t ∧ n.length = 3 ∧ IntSet t pgWitness 0
        ∧ t.witness = { s.witness with field := true, ma := ma, picc := .idle, fromHalt := false, uid := 0x08 :: n }))
  ∧ (∀ (quiet : Bool) (s : State),
    let off := { s with witness := { s.witness with field := false, ma := 0, picc := .off, fromHalt := false } }
    (s.witness.scan = none ∨ quiet = false → exec (.fieldLoss quiet) s = .next off)
    ∧ (∀ tags, s.witness.scan = some tags → ∃ t, exec (.fieldLoss true) s = .next t ∧ t.witness.scan = none ∧ t.witness.field = false ∧ t.witness.picc = .off ∧ IntSet t pgWitness 3))
  ∧ (∀ (wupa : Bool) (s : State),
    let i : Instr := .picReqa wupa
    let ready (h : Bool) := { s with witness := { s.witness with fromHalt := h, picc := .ready }, outbound := s.outbound ++ [.picc [0x01, 0x00]] }
    match s.witness.picc with
    | .off => exec i s = .next s
    | .idle => exec i s = .next (ready false)
    | .halt => exec i s = .next (if wupa then ready true else s)
    | .ready | .active => PiccBack i s)
  ∧ (∀ (a b c d : Byte) (s : State), s.witness.uid = [a, b, c, d] →
    let id : List Byte := [a, b, c, d, a ^^^ b ^^^ c ^^^ d]
    (∀ known rest, s.witness.picc = .ready → bitsOfBytes id = known ++ rest → ∃ bs, PiccAnswers (.picAnticoll known) s .ready bs ∧ bs.length = (rest.length + 7) / 8
        ∧ bitsOfBytes bs = rest ++ List.replicate (8 * bs.length - rest.length) false)
    ∧ (∀ k ≤ 5, s.witness.picc = .ready → PiccAnswers (.picAnticoll (bitsOfBytes (id.take k))) s .ready (id.drop k))
    ∧ (∀ known, s.witness.picc = .ready → ¬ known <+: bitsOfBytes id → exec (.picAnticoll known) s = .next s)
    ∧ (s.witness.picc = .ready → PiccAnswers (.picSelect id true) s .active [0x00, 0xFE, 0x51])
    ∧ (∀ u ok, s.witness.picc = .ready → u ≠ id ∨ ok = false → PiccBack (.picSelect u ok) s))
  ∧ (∀ s : State,
    (s.witness.picc = .active → exec .hlta s = .next { s with witness := { s.witness with picc := .halt } } ∧ (∀ k, PiccBack (.picAnticoll k) s) ∧ (∀ u ok, PiccBack (.picSelect u ok) s))
    ∧ (s.witness.picc = .ready → PiccBack .hlta s)
    ∧ (s.witness.picc = .off ∨ s.witness.picc = .idle ∨ s.witness.picc = .halt → exec .hlta s = .next s ∧ (∀ k, exec (.picAnticoll k) s = .next s) ∧ (∀ u ok, exec (.picSelect u ok) s = .next s))
    ∧ (s.witness.scan = none → exec .readerFieldTimeout s = .next s)
    ∧ (s.witness.scan ≠ none → ∃ t, exec .readerFieldTimeout s = .next t ∧ (t.hd pgCard).errCode = 0xD6 ∧ t.reg Reg.WITNESS.TOKENS_LAST = 0 ∧ IntSet t pgWitness 3
        ∧ t.witness = { s.witness with scan := none }))
  ∧ (∀ (blk : Fin 65536) (ok : Bool) (s : State),
    (s.witness.picc ≠ .active ∨ ok = false → exec (.wread blk ok) s = .next s)
    ∧ (s.witness.picc = .active → 0x1FC < blk.val → PiccAnswers (.wread blk true) s .active [0x1])
    ∧ (s.witness.picc = .active → blk.val ≤ 0x1FC → ∃ bs, bs.length = 64 ∧ (∀ j < 64, bs[j]? = some (SMap.get 0 s.witness.mem (16 * blk.val + j)))
        ∧ exec (.wread blk true) s = .next { s with witness := { s.witness with arb := true }, outbound := s.outbound ++ [.picc (bs ++ crcA bs)] }))
  ∧ (∀ (blk : Fin 65536) (data : Vector Byte 16) (ma vbat : Fin 65536) (ok : Bool) (s : State),
    let i : Instr := .wstamp blk data ma vbat ok
    let s' := { s with witness := { s.witness with ma := ma }, tamper := { s.tamper with vbat := vbat } }
    let gate := s.reg Reg.WITNESS.FIELD_WRITE_MIN ≤ ma.val ∧ s.reg Reg.TAMPER.VBAT_WARN ≤ vbat.val
    (s.witness.picc ≠ .active ∨ ok = false → exec i s = .next s)
    ∧ (s.witness.picc = .active → ok = true → blk.val < 0x1C0 ∨ 0x1FF < blk.val → exec i s = .next { s' with outbound := s.outbound ++ [.picc [0x1]] })
    ∧ (s.witness.picc = .active → ok = true → 0x1C0 ≤ blk.val → blk.val ≤ 0x1FF → ¬ gate → ∃ t, exec i s = .next t ∧ t.witness = s'.witness ∧ IntSet t pgWitness 1
        ∧ t.reg Reg.WITNESS.NAK_GATE_CNT = (s.reg Reg.WITNESS.NAK_GATE_CNT + 1) % 2 ^ 16 ∧ t.outbound.getLast? = some (.picc [0x5]))
    ∧ (s.witness.picc = .active → ok = true → 0x1C0 ≤ blk.val → blk.val ≤ 0x1FF → gate → ∃ t, exec i s = .next t ∧ IntSet t pgWitness 2 ∧ t.outbound.getLast? = some (.picc [0xA])
        ∧ t.reg Reg.WITNESS.STAMP_CNT = (s.reg Reg.WITNESS.STAMP_CNT + 1) % 2 ^ 16 ∧ t.witness = { s'.witness with mem := t.witness.mem, arb := true }
        ∧ (∀ j : Fin 16, SMap.get 0 t.witness.mem (16 * blk.val + j.val) = data[j.val]) ∧ (∀ k, k / 16 ≠ blk.val → SMap.get 0 t.witness.mem k = SMap.get 0 s.witness.mem k)))
  ∧ (∀ s : State,
    (s.witness.wired = [] → ∀ won, exec (.hostBusyRetry won) s = .next s)
    ∧ (∀ w n rest, s.witness.wired = (w, n) :: rest →
      let rem := { s with witness := { s.witness with wired := rest } }
      let failed (t : State) := t.witness = { s.witness with wired := rest } ∧ t.reg Reg.WITNESS.HBF_CNT = (s.reg Reg.WITNESS.HBF_CNT + 1) % 2 ^ 16
        ∧ t.reg Reg.WITNESS.BUSY_CNT = min 65535 (s.reg Reg.WITNESS.BUSY_CNT + 1) ∧ IntSet t pgWitness 4
      (n < 7 → ∃ t, exec (.hostBusyRetry false) s = .next t ∧ t = { s with rf := t.rf, witness := { s.witness with wired := (w, n + 1) :: rest } }
          ∧ t.reg Reg.WITNESS.BUSY_CNT = min 65535 (s.reg Reg.WITNESS.BUSY_CNT + 1))
      ∧ (∀ off, w = .window off → exec (.hostBusyRetry true) s = .next { rem with outbound := s.outbound ++ [.regRead 0 (0x18800 + off % 2048) (leNat (SMap.bytes s.witness.mem off 4))] }
          ∧ (7 ≤ n → ∃ t, exec (.hostBusyRetry false) s = .next t ∧ failed t ∧ t.reg Reg.WITNESS.HBF_ADDR = off % 2 ^ 13 ∧ .regRead 0 (0x18800 + off % 2048) 0 ∈ t.outbound))
      ∧ (∀ off bs, w = .store off bs → (∃ t, exec (.hostBusyRetry true) s = .next t ∧ t = { rem with witness := { rem.witness with mem := t.witness.mem } }
            ∧ (∀ j < bs.length, some (SMap.get 0 t.witness.mem (off + j)) = bs[j]?) ∧ (∀ k, k < off ∨ off + bs.length ≤ k → SMap.get 0 t.witness.mem k = SMap.get 0 s.witness.mem k))
          ∧ (7 ≤ n → ∃ t, exec (.hostBusyRetry false) s = .next t ∧ failed t ∧ t.reg Reg.WITNESS.HBF_ADDR = off % 2 ^ 13))
      ∧ (∀ off size dst, w = .load off size dst →
          let takes (bs : List Byte) : Cpu := match dst with
            | .d r sx => withD r (BitVec.ofNat 32 (if sx = true ∧ 2 ^ (8 * bs.length - 1) ≤ leNat bs then leNat bs + 2 ^ 32 - 2 ^ (8 * bs.length) else leNat bs)) s.naris.cpu
            | .a r => withA r (BitVec.ofNat 32 (leNat bs)) s.naris.cpu
            | .q r => s.naris.cpu.write (.q r { val := bytesQuad bs })
          ((∀ r, dst = .d r true → size = 1 ∨ size = 2) →
            exec (.hostBusyRetry true) s = .next { rem with naris := { s.naris with cpu := takes (SMap.bytes s.witness.mem off size) } }
            ∧ (7 ≤ n → ∃ t, exec (.hostBusyRetry false) s = .next t ∧ failed t ∧ t.reg Reg.WITNESS.HBF_ADDR = off % 2 ^ 13 ∧ t.naris.cpu.d = (takes (List.replicate size 0)).d
              ∧ t.naris.cpu.a = (takes (List.replicate size 0)).a ∧ t.naris.cpu.q = (takes (List.replicate size 0)).q
              ∧ t.naris.cause = 3 ∧ t.naris.epc = s.naris.cpu.pc - 4 ∧ t.naris.cpu.pc = s.naris.vbase + 0x30)))))
  ∧ (∀ s : State,
    (s.tamper.recs = [] ∨ s.witness.arb = true → exec .witnessRecordWrite s = .next s)
    ∧ (∀ (r : WRec) (rest : List WRec), s.tamper.recs = r :: rest → s.witness.arb = false →
      let w := s.witness.wseq
      let b := leBytes 4 w ++ [BitVec.ofNat 8 r.typ, BitVec.ofNat 8 r.source, BitVec.ofNat 8 r.resp, BitVec.ofNat 8 r.flags] ++ leBytes 4 r.sec ++ leBytes 2 r.sub
        ++ leBytes 2 r.bootLo ++ fitBytes 8 r.detail ++ leBytes 2 r.vbat ++ leBytes 2 (r.temp % 65536).toNat
      let used := leNat (SMap.bytes s.witness.mem (32 * (w % 224)) 4) ≠ 0
      ∃ t, exec .witnessRecordWrite s = .next t ∧ t.tamper = { s.tamper with recs := rest }
        ∧ t.witness = { s.witness with mem := t.witness.mem, wseq := w + 1, arb := true, check := crc32c b s.witness.check % 2 ^ 32 }
        ∧ SMap.bytes t.witness.mem (32 * (w % 224)) 32 = b ++ leBytes 4 (crc32c b s.witness.check)
        ∧ (∀ k, k / 32 ≠ w % 224 → SMap.get 0 t.witness.mem k = SMap.get 0 s.witness.mem k)
        ∧ t.reg Reg.TAMPER.WIT_SEQ = (w + 1) % 2 ^ 32 ∧ t.reg Reg.TAMPER.WIT_NEXT = (w + 1) % 224
        ∧ (used → t.reg Reg.TAMPER.WIT_OVF = (s.reg Reg.TAMPER.WIT_OVF + 1) % 2 ^ 32 ∧ IntSet t pgTamper 7) ∧ (¬ used → t.reg Reg.TAMPER.WIT_OVF = s.reg Reg.TAMPER.WIT_OVF)))

/-- An inserted card is SD where it answers CMD8 at 3.3 V, with CARD_DEGRADE unless both checks pass; UNKNOWN at 1.8 V; otherwise the ICC pins are activated in class B, then A. A removal ends an ICC session with CARD_REMOVED. A block read fills Naris RAM, or ends with CARD_CRC or CARD_TIMEOUT; a block write ends OK, or protected, aborted, indeterminate with BAD_BLOCK, or with CARD_CRC. More than 5 repetitions deactivate the card with CARD_PARITY. An APDU is sent as Table 18.6 gives it and its answer kept; AUTH counts the credential once, by the rules of R540, or rejects it. OPEN is refused for a purpose or a mode that does not allow it, while a session is open, and for M and N out of range. CLOSE and the timeout close the session; in CEREMONY the timeout abandons it. A SCAN waits for the field to go, and ends with the number of tokens. -/
def Obligations.CardSlotAndQuorumSessions : Prop :=
  (∀ (c : CardIn) (s : State),
    let i : Instr := .cardInsert c
    (s.card.present = true → exec i s = .next s)
    ∧ (s.card.present = false →
      (∃ t, exec i s = .next t ∧ t.card.present = true ∧ t.reg Reg.CARD.PRESENT = 1 ∧ t.reg Reg.CARD.INSERT_CNT = (s.reg Reg.CARD.INSERT_CNT + 1) % 2 ^ 16 ∧ IntSet t pgCard 0)
      ∧ (c.cmd8.val ≠ 0 → c.v33 = true → ∃ t, exec i s = .next t ∧ t.card.typ = 1 ∧ t.card.icc = none ∧ t.reg Reg.CARD.TYPE = 1 ∧ t.reg Reg.CARD.WP = (if c.wp then 1 else 0)
          ∧ t.reg Reg.CARD.WIDTH4 = (if c.busWidth.val = 2 then 1 else 0) ∧ t.reg Reg.CARD.HS = (if c.hsFn.val = 1 then 1 else 0) ∧ (c.busWidth.val ≠ 2 ∨ c.hsFn.val ≠ 1 → IntSet t pgCard 3))
      ∧ (c.cmd8.val ≠ 0 → c.v33 = false → ∃ t, exec i s = .next t ∧ t.card.typ = 3 ∧ t.reg Reg.CARD.TYPE = 3 ∧ IntSet t pgCard 2)
      ∧ (c.cmd8.val = 0 → Activates i s c.atrB c.atrA)))
  ∧ (∀ s : State,
    (s.card.present = false → exec .cardRemove s = .next s)
    ∧ (s.card.present = true → ∃ t, exec .cardRemove s = .next t ∧ t = { s with card := {}, rf := t.rf, hdr := t.hdr, outbound := t.outbound, host := { s.host with msix := t.host.msix } }
        ∧ t.reg Reg.CARD.PRESENT = 0 ∧ t.reg Reg.CARD.TYPE = 0 ∧ t.reg Reg.CARD.ICC_CLASS = 0 ∧ IntSet t pgCard 1 ∧ (s.card.icc ≠ none → t.reg Reg.CARD.LAST_RESULT = 7)))
  ∧ (∀ (blk : Word) (errs ms : Nat) (data : List Byte) (buf : Fin 262144) (s : State),
    let i : Instr := .sdBlockRead blk errs ms data buf
    let ended (r : Nat) (ram : SMap Byte → Prop) := ∃ t, exec i s = .next t ∧ t = { s with rf := t.rf, narisRam := t.narisRam, outbound := s.outbound ++ [.sdRead blk.toNat] } ∧ t.reg Reg.CARD.LAST_RESULT = r ∧ ram t.narisRam
    let may := s.artOk 0x055 none .write (0x10000000 + buf.val) 512 = true
    (s.card.typ ≠ 1 → exec i s = .next s)
    ∧ (s.card.typ = 1 → 3 < errs → ended 1 (· = s.narisRam)) ∧ (s.card.typ = 1 → errs ≤ 3 → 100 < ms → ended 2 (· = s.narisRam))
    ∧ (s.card.typ = 1 → errs ≤ 3 → ms ≤ 100 → may → ended 0 fun m => (∀ j < 512, SMap.get 0 m (buf.val + j) = data.getD j 0)
        ∧ ∀ k, k < buf.val ∨ buf.val + 512 ≤ k → SMap.get 0 m k = SMap.get 0 s.narisRam k)
    ∧ (s.card.typ = 1 → errs ≤ 3 → ms ≤ 100 → ¬ may → ∃ t, exec i s = .next t ∧ t.reg Reg.CARD.LAST_RESULT = 0 ∧ t.narisRam = s.narisRam ∧ IntSet t pgArt 1 ∧ IntSet t pgArt 2))
  ∧ (∀ (blk : Word) (wp : Bool) (errs : Nat) (buf : Fin 262144) (e : SdEnd) (s : State),
    let i : Instr := .sdBlockWrite blk wp errs buf e
    let out := Out.sdWrite blk.toNat (SMap.bytes s.narisRam buf 512)
    let ended (r : Nat) (p : State → Prop) := ∃ t, exec i s = .next t ∧ t.reg Reg.CARD.LAST_RESULT = r ∧ p t
    let may := s.artOk 0x055 none .read (0x10000000 + buf.val) 512 = true
    (s.card.typ ≠ 1 → exec i s = .next s)
    ∧ (s.card.typ = 1 → ¬ may → ∃ t, exec i s = .next t ∧ 1 ≤ t.reg Reg.CARD.LAST_RESULT ∧ t.reg Reg.CARD.LAST_RESULT ≤ 7 ∧ (out ∉ s.outbound → out ∉ t.outbound))
    ∧ (s.card.typ = 1 → may → wp = true → ended 3 fun t => t.reg Reg.CARD.WP = 1 ∧ t = { s with rf := t.rf })
    ∧ (s.card.typ = 1 → may → wp = false → match e with
      | .removedBefore => ended 4 fun t => t.card = {} ∧ IntSet t pgCard 1 ∧ (out ∉ s.outbound → out ∉ t.outbound)
      | .removedAfter => ended 5 fun t => t.card = {} ∧ IntSet t pgCard 1 ∧ t.reg Reg.CARD.BAD_BLOCK = blk.toNat ∧ out ∈ t.outbound
      | .done ms => (3 < errs → ended 1 fun t => t = { s with rf := t.rf, outbound := s.outbound ++ [out] })
          ∧ (errs ≤ 3 → 250 < ms → ended 5 fun t => t = { s with rf := t.rf, outbound := s.outbound ++ [out] } ∧ t.reg Reg.CARD.BAD_BLOCK = blk.toNat)
          ∧ (errs ≤ 3 → ms ≤ 250 → ended 0 fun t => t = { s with rf := t.rf, outbound := s.outbound ++ [out] })))
  ∧ (∀ (atrB atrA : Option (List Byte)) (reps : Nat) (s : State),
    let i : Instr := .iccActivation atrB atrA reps
    (s.card.present = false ∨ s.card.typ = 1 → exec i s = .next s)
    ∧ (s.card.present = true → s.card.typ ≠ 1 → 5 < reps → ∃ t, exec i s = .next t ∧ t = { s with rf := t.rf, card := { s.card with icc := none } } ∧ t.reg Reg.CARD.LAST_RESULT = 6
        ∧ t.reg Reg.CARD.REPEAT_CNT = min 65535 (s.reg Reg.CARD.REPEAT_CNT + 5))
    ∧ (s.card.present = true → s.card.typ ≠ 1 → reps ≤ 5 → Activates i s atrB atrA))
  ∧ (∀ (cmd : Apdu) (resp : List Byte) (reps : Nat) (c : IccSt) (s : State), s.card.icc = some c →
    let i : Instr := .apduExchange cmd resp reps
    let body := if resp.drop (resp.length - 2) = [0x90, 0x00] then some (resp.take (resp.length - 2)) else none
    let sentAs (bs : List Byte) (t : State) := (s.outbound ++ [Out.apdu 0 bs]).isPrefixOf t.outbound = true ∧ t.reg Reg.CARD.REPEAT_CNT = min 65535 (s.reg Reg.CARD.REPEAT_CNT + reps) ∧ t.reg Reg.CARD.LAST_RESULT = 0
    (reps ≤ 5 → match cmd with
      | .select => ∃ t, exec i s = .next t ∧ sentAs [0x00, 0xA4, 0x04, 0x00, 7, 0xF0, 0x4F, 0x58, 0x43, 0x55, 0x53, 0x54] t
          ∧ t.card = { s.card with icc := some { c with selected := body.isSome, info := none } }
      | .info => ∃ t, exec i s = .next t ∧ sentAs [0x80, 0x10, 0x00, 0x00] t ∧ t.card = { s.card with icc := some (if c.selected then { c with info := body } else c) }
      | .auth => ∀ q, s.cust.quorum = some q → ∃ t, exec i s = .next t ∧ t.card = s.card
            ∧ sentAs ([0x80, 0x12, 0x00, 0x00, 32] ++ sha3_256 (ascii "OXQUORUM" ++ ownFp ++ q.snonce ++ [BitVec.ofNat 8 q.purpose])) t
            ∧ (c.info = none → t.cust = s.cust)
            ∧ (∀ info, c.info = some info → infoKey info = none → Rejected s t)
            ∧ (∀ info key, c.info = some info → infoKey info = some key → Counted s t q key (body.getD [])))
    ∧ (cmd = .auth → s.cust.quorum = none → exec i s = .next s)
    ∧ (5 < reps → cmd ≠ .auth ∨ s.cust.quorum ≠ none → ∃ t, exec i s = .next t ∧ t.card = { s.card with icc := none } ∧ t.reg Reg.CARD.ICC_CLASS = 0 ∧ t.reg Reg.CARD.LAST_RESULT = 6))
  ∧ (∀ (cmd : Apdu) (resp : List Byte) (reps : Nat) (s : State), s.card.icc = none → exec (.apduExchange cmd resp reps) s = .next s)
  ∧ (∀ s : State,
    let p := s.reg Reg.CARD.Q_PURPOSE
    let m := s.reg Reg.CARD.Q_M
    let n := s.reg Reg.CARD.Q_N
    let fresh := p = 1 ∨ (p = 3 ∧ s.mode = .unclaimed)
    let allowed := (p = 1 ∧ s.mode = .unclaimed) ∨ (p = 2 ∧ (s.mode = .operational ∨ s.mode = .maintenance ∨ s.mode = .degraded))
      ∨ (p = 3 ∧ (s.mode = .unclaimed ∨ s.mode = .operational ∨ s.mode = .maintenance ∨ s.mode = .degraded ∨ s.mode = .standby))
    let good := 2 ≤ m ∧ m ≤ n ∧ n ≤ 16
    let ok := p ≠ 0 ∧ s.cust.quorum = none ∧ allowed ∧ (fresh → good)
    (p = 0 → Refused .qOpen s pgCard 0x01)
    ∧ (p ≠ 0 → s.cust.quorum ≠ none → Refused .qOpen s pgCard 0xD1)
    ∧ (p ≠ 0 → s.cust.quorum = none → ¬ allowed → Refused .qOpen s pgCard 0xD0)
    ∧ (p ≠ 0 → s.cust.quorum = none → allowed → fresh → ¬ good → Refused .qOpen s pgCard 0x01)
    ∧ (ok → s.rillServes (wireRill 3) = true → ∃ t q, exec .qOpen s = .next t ∧ t.cust = { s.cust with quorum := some q } ∧ q.purpose = p ∧ q.snonce.length = 32 ∧ q.counted = [] ∧ q.met = false
        ∧ (q.fresh = true ↔ fresh) ∧ (fresh → q.m = m ∧ q.n = n) ∧ t.reg Reg.CARD.Q_OPEN = 1 ∧ t.reg Reg.CARD.Q_LEFT = s.reg Reg.CARD.Q_TIMEOUT % 2 ^ 12 ∧ (t.hd pgCard).detail.testBit 0 = true)
    ∧ (ok → s.rillServes (wireRill 3) = false → ∃ t, exec .qOpen s = .next t ∧ (t.hd pgNaris).errCode = 0xB6 ∧ t.cust = s.cust)
    ∧ (∃ t, exec .qClose s = .next t ∧ QuorumClosed t ∧ t.cust.staged = s.cust.staged)
    ∧ (s.cust.quorum = none → exec .quorumTimeout s = .next s)
    ∧ (s.cust.quorum ≠ none → s.mode ≠ .ceremony → exec .quorumTimeout s = exec .qClose s)
    ∧ (s.cust.quorum ≠ none → s.mode = .ceremony → ∃ t, exec .quorumTimeout s = .next t ∧ QuorumClosed t ∧ t.cust.staged = {}
        ∧ (s.glob.change = none → AsksFor t (if s.tamper.rootState = 2 then .operational else .unclaimed) .device)))
  ∧ (∀ (tags : List TagIn) (s : State),
    (s.cust.quorum = none ∨ s.witness.scan ≠ none → exec (.scan tags) s = .next s)
    ∧ (s.cust.quorum ≠ none → s.witness.scan = none → s.witness.field = true → exec (.scan tags) s = .next { s with witness := { s.witness with scan := some tags } })
    ∧ (s.cust.quorum ≠ none → s.witness.scan = none → s.witness.field = false → ∃ t, exec (.scan tags) s = .next t ∧ t.witness = { s.witness with picc := .off } ∧ IntSet t pgWitness 3
        ∧ t.reg Reg.WITNESS.TOKENS_LAST = min 32 (tags.map TagIn.uid).eraseDups.length
        ∧ (tags.length ≤ 1 → t.reg Reg.WITNESS.COLL_CNT = s.reg Reg.WITNESS.COLL_CNT % 2 ^ 16)
        ∧ ((∀ x ∈ tags, x.iso4 = false) → t.cust = s.cust)
        ∧ (∀ x q, tags = [x] → x.iso4 = true → s.cust.quorum = some q → (infoKey x.info = none → Rejected s t) ∧ (∀ key, infoKey x.info = some key → Counted s t q key x.auth))))

/-- Outside CEREMONY each command is refused with NOT_MODE. In it, CUSTODIANS stages the counted credentials for an M of 2 to their number, RIG_KEY 1,312 B of the window, MEMBERS the list and the Stay identity (laid out as log entry 35 says), DOMAIN_GEN a fresh 32 B key, DOMAIN_IMPORT and DOMAIN_EXPORT what the checks of R406 accept; other input is BAD_VALUE. COMP_WRITE splits the domain key into n components whose XOR it is, writes them to n cards, and ends at a card whose custodian is not PRESENT, that is protected or gone, or that reads back other bytes. COMP_LOAD takes the XOR of components, in any order, whose KCV matches, else COMP_KCV. COMMIT needs Q_MET, and in a claim the rig key and the members; it sets the root mask of a claim, writes the lists and the keys, the domain key of step 8 before that of step 5 and of step 4, closes the session and asks for OPERATIONAL. ABANDON discards everything and leaves CEREMONY. -/
def Obligations.CeremonyStepsAreStagedAndCommitted : Prop :=
  (∀ (i : Instr) (s : State), CerCmd i → s.mode ≠ .ceremony → Refused i s pgCard 0xD0)
  ∧ (∀ s : State, s.mode = .ceremony →
    let keys := (s.cust.quorum.map Quorum.counted).getD []
    let m := s.reg Reg.CARD.Q_M
    let len := min 4096 (s.reg Reg.CARD.CER_LEN)
    let n := leNat (winBytes s 2)
    let drawn := s.rillServes (wireRill 3) = true
    (m < 2 ∨ keys.length < m → StepRefused .custodians s 0x01)
    ∧ (2 ≤ m → m ≤ keys.length → StepStaged .custodians s 1 fun t => { t with custodians := some (m, keys) })
    ∧ (len ≠ 1312 → StepRefused .rigKey s 0x01)
    ∧ (len = 1312 → StepStaged .rigKey s 2 fun t => { t with rigKey := some (winBytes s 1312) })
    ∧ (n ≤ 1024 → len = 2 + 8 * n + 35 → let o := 2 + 8 * n
        let list := (List.range n).map fun j => SMap.bytes s.cust.win (2 + 8 * j) 8
        let at' (j : Nat) : Nat := (SMap.get 0 s.cust.win (o + j)).toNat
        (at' 0 = 0 → StepStaged .members s 3 fun t => { t with members := some (list, none) })
        ∧ (at' 0 = 1 → (at' 1 = 1 ∨ at' 1 = 2) → at' 2 ≤ 1 → StepStaged .members s 3 fun t => { t with members := some (list, some { twinFp := SMap.bytes s.cust.win (o + 3) 32, pairMode := at' 1, roleCfg := at' 2 }) })
        ∧ (1 < at' 0 ∨ (at' 0 = 1 ∧ (at' 1 = 0 ∨ 2 < at' 1 ∨ 1 < at' 2)) → StepRefused .members s 0x01))
    ∧ (len < 2 ∨ 1024 < n ∨ len ≠ 2 + 8 * n + 35 → StepRefused .members s 0x01)
    ∧ (drawn → ∃ k, k.length = 32 ∧ StepStaged .domainGen s 4 fun t => { t with domGen := some k })
    ∧ (¬ drawn → StepHasNoDraw .domainGen s)
    ∧ (len ≠ 3652 ∨ s.glob.kemDk = none → StepRefused .domainImport s 0x01)
    ∧ (∀ dk, s.glob.kemDk = some dk → match s.openDomainBlob (winBytes s len) dk with
        | some k => StepStaged .domainImport s 5 fun t => { t with domImport := some k }
        | none => StepRefused .domainImport s 0x01)
    ∧ (len ≠ 3860 → StepRefused .domainExport s 0x01)
    ∧ (match s.joiner (winBytes s len) with
        | some j => if s.newDomain.length = 32 then StepStaged .domainExport s 6 (fun t => { t with join := some j }) else StepRefused .domainExport s 0x01
        | none => StepRefused .domainExport s 0x01))
  ∧ (∀ (cards : List CompCard) (s : State), s.mode = .ceremony →
    let n := (SMap.get 0 s.cust.win 0).toNat
    let key := s.newDomain
    let present (c : CompCard) : Prop := c.custodian.val < 16 ∧ (s.reg Reg.CARD.PRESENT_19148).testBit c.custodian = true
    (n < 2 ∨ 16 < n ∨ key.length ≠ 32 → StepRefused (.compWrite cards) s 0x01)
    ∧ (2 ≤ n → n ≤ 16 → key.length = 32 → cards.length < n → exec (.compWrite cards) s = .next s)
    ∧ (2 ≤ n → n ≤ 16 → key.length = 32 → n ≤ cards.length → s.rillServes (wireRill 3) = false → StepHasNoDraw (.compWrite cards) s)
    ∧ (2 ≤ n → n ≤ 16 → key.length = 32 → n ≤ cards.length → s.rillServes (wireRill 3) = true →
        let cu (j : Nat) : Nat := ((cards.map fun c => c.custodian.val)[j]?).getD 0
        ∃ comp : Nat → List Byte, (∀ j < n, (comp j).length = 32) ∧ xorAll ((List.range n).map comp) = key
          ∧ (let bl := compBlocks n cu (domainId s.newMembers) ((aesEnc key (List.replicate 16 0)).take 8) comp
            let written (j : Nat) (c : CompCard) : Prop := present c ∧ c.wp = false ∧ c.done ≠ .removedBefore ∧ some c.back = bl[j]?
            ((∀ j < n, ∀ c, cards[j]? = some c → written j c) → StepStaged (.compWrite cards) s 7 id
              ∧ ((∀ c ∈ cards, ∃ ms, c.done = .done ms) → ∃ t, exec (.compWrite cards) s = .next t ∧ t.outbound = s.outbound ++ bl.map (.sdWrite 0 ·)))
            ∧ (∀ j < n, ∀ c, cards[j]? = some c → (∀ k < j, ∀ d, cards[k]? = some d → written k d) → ¬ written j c →
              ∃ t, exec (.compWrite cards) s = .next t ∧ t.cust = s.cust
                ∧ (¬ present c → (t.hd pgCard).errCode = 0xD4 ∧ t.reg Reg.CARD.CER_DONE = 1)
                ∧ (present c → c.wp = true → t.reg Reg.CARD.LAST_RESULT = 3)
                ∧ (present c → c.wp = false → c.done = .removedBefore → t.reg Reg.CARD.LAST_RESULT = 4)
                ∧ (present c → c.wp = false → c.done ≠ .removedBefore → (t.hd pgCard).errCode = 0xD5 ∧ t.reg Reg.CARD.CER_DONE = 1)))))
  ∧ (∀ (n : Nat) (cu : Nat → Nat) (did kc : List Byte) (comp : Nat → List Byte) (order : List Nat) (more : List (List Byte)) (s : State), s.mode = .ceremony → 2 ≤ n → n ≤ 16 →
    did.length = 8 → kc.length = 8 → order.isPerm (List.range n) = true →
    (∀ j < n, (comp j).length = 32 ∧ cu j < 16 ∧ (s.reg Reg.CARD.PRESENT_19148).testBit (cu j) = true) →
      let key := xorAll ((List.range n).map comp)
      let i : Instr := .compLoad ((order.map fun j => ((compBlocks n cu did kc comp)[j]?).getD []) ++ more)
      (kc = (aesEnc key (List.replicate 16 0)).take 8 → StepStaged i s 8 fun t => { t with domLoad := some key })
      ∧ (kc ≠ (aesEnc key (List.replicate 16 0)).take 8 → StepRefused i s 0xD3))
  ∧ (∀ (b : List Byte) (bs : List (List Byte)) (s : State), s.mode = .ceremony →
    let f (o n : Nat) := leNat (cut b o n)
    let wrong := b.length ≠ 512 ∨ f 0 4 ≠ 0x4F43584F ∨ f 4 2 ≠ 1 ∨ f 0x1FC 4 ≠ crc crc32cPar (b.take 0x1FC) ∨ f 6 1 = 0 ∨ f 7 1 < f 6 1 ∨ f 7 1 < 2 ∨ 16 < f 7 1
    let present := f 8 1 < 16 ∧ (s.reg Reg.CARD.PRESENT_19148).testBit (f 8 1) = true
    exec (.compLoad []) s = .next s
    ∧ (wrong → StepRefused (.compLoad (b :: bs)) s 0xD5)
    ∧ (¬ wrong → ¬ present → StepRefused (.compLoad (b :: bs)) s 0xD4)
    ∧ (¬ wrong → present → ∃ t, exec (.compLoad (b :: bs)) s = .next t ∧ (bs = [] → t = s)
        ∧ (t.cust = s.cust ∨ ∃ k, t.cust = { s.cust with staged := { s.cust.staged with domLoad := some k } } ∧ (t.reg Reg.CARD.STAGED).testBit 8 = true)))
  ∧ (∀ s : State, s.mode = .ceremony →
    let st := s.cust.staged
    let needs (q : Quorum) : Prop := q.purpose = 1 → st.rigKey ≠ none ∧ st.members ≠ none
    let closes (t : State) : Prop := QuorumClosed t ∧ t.cust.staged = {} ∧ t.reg Reg.CARD.CER_DONE = 1 ∧ (s.glob.change = none → AsksFor t .operational .manager)
      ∧ (∀ mb, st.members = some mb → t.flash.optWrite.map (fun o => (o.members, o.stay)) = some mb) ∧ (st.members = none → t.flash.optWrite = s.flash.optWrite)
    let system (t : State) (alg : Nat) (mat tr31 : List Byte) : Prop := ∃ w ∈ t.cleat.pending, ∃ e, w.op = .create e ∧ w.writer = .naris ∧ e.alg = alg ∧ e.material = mat ∧ e.tr31 = tr31
      ∧ e.system = true ∧ e.persist = true ∧ e.part = 0
    let enrols (t : State) (m : Nat) (keys : List (List Byte)) : Prop := ∀ j, ∀ k, keys[j]? = some k → keys.length ≤ 16 →
      system t (if k.head? = some 1 then 0x18 else 0x41) (k.drop 1) (fitBytes 16 (ascii "OXCUST" ++ [BitVec.ofNat 8 j, BitVec.ofNat 8 m, BitVec.ofNat 8 keys.length]))
    let writes (t : State) : Prop :=
      (∀ pk, st.rigKey = some pk → pk.length = 1312 → system t 0x41 pk (fitBytes 16 (ascii "OXRIGKEY"))) ∧ (∀ k, st.domain = some k → k.length = 32 → system t 3 k (List.replicate 16 0))
    let empty : Prop := s.cleat.ents = [] ∧ s.cleat.pending = [] ∧ s.cleat.retiredRows = []
    (s.cust.quorum = none → StepRefused .cerCommit s 0xD0)
    ∧ (∀ q, s.cust.quorum = some q → q.met = false ∨ ¬ needs q → StepRefused .cerCommit s 0xD0)
    ∧ (∀ q, s.cust.quorum = some q → q.met = true → q.purpose ≠ 1 →
        ∃ t, exec .cerCommit s = .next t ∧ closes t ∧ t.tamper.rootState = s.tamper.rootState ∧ t.tamper.rootMask = s.tamper.rootMask
          ∧ (empty → writes t ∧ ∀ m keys, st.custodians = some (m, keys) → enrols t m keys)
          ∧ (st.custodians = none → st.rigKey = none → st.domain = none → t.cleat = s.cleat))
    ∧ (∀ q, s.cust.quorum = some q → q.met = true → q.purpose = 1 → needs q → s.rillServes (wireRill 3) = true → s.rillServes (wireRill 2) = true →
        ∃ t mask, exec .cerCommit s = .next t ∧ closes t ∧ t.tamper.rootState = 2 ∧ t.tamper.rootMask = some mask
          ∧ t.cleat.vaultKey = some (sha3_256 (ascii "OXVAULT" ++ randBytes mask 32 ++ Config.deviceSecret)) ∧ t.reg Reg.CLEAT0.VAULT_STATE = 2
          ∧ (empty → writes t ∧ (st.custodians = none → enrols t q.m q.counted) ∧ ∀ m keys, st.custodians = some (m, keys) → enrols t m keys))
    ∧ (∀ q, s.cust.quorum = some q → q.met = true → q.purpose = 1 → needs q → s.rillServes (wireRill 3) = false ∨ s.rillServes (wireRill 2) = false → StepHasNoDraw .cerCommit s)
    ∧ (∃ t, exec .abandon s = .next t ∧ QuorumClosed t ∧ t.cust.staged = {} ∧ t.reg Reg.CARD.STAGED = 0
        ∧ (s.glob.change = none → AsksFor t (if s.tamper.rootState = 2 then .operational else .unclaimed) .manager)))

/-- For every command c and state, a step of the state with c at the front of its queue is exec of c on that state with the rest of the queue. On an empty queue the block idles: the step answers the state unchanged (the model's choice, assumption 7: the tick is a command of its own). The 32-bit words spell the instructions that the tables of fields give them, for logical Sheave 0 of yard 0, and no other width spells a command (the model's choice, assumption 1); withFetchWord puts the command that a word spells at the front of the queue, and leaves the state as it is where it spells none. -/
def Obligations.StepRunsTheFrontCommand : Prop :=
  (∀ (c : Instr) (rest : List Instr) (s : State), step { s with pending := c :: rest } = exec c { s with pending := rest })
  ∧ (∀ s : State, s.pending = [] → step s = .next s)
  ∧ (∀ (n w : Nat) (s : State), (n ≠ 32 → decodeTableWord n w = none) ∧ (n = 32 → decodeTableWord n w = decodeWord (.sheave 0 0) (BitVec.ofNat 32 w))
      ∧ (decodeTableWord n w = none → s.withFetchWord n w = s)
      ∧ (∀ c, decodeTableWord n w = some c → s.withFetchWord n w = { s with pending := c :: s.pending }
        ∧ step (s.withFetchWord n w) = exec c s))

/-- Every register field holds the reset value of its table; the registers with another value than zero read it at their offsets, and the yard blocks and pages read their PAGE_KIND. The pages that Table 20.4 gives as reading 1 are ON, and no other page; headers are else zero. Frame numbers and counts start at 0, nothing runs, no memory, table, log or queue of the block lists anything, the latches are zero, and WSEQ is 1. The block stands before its boot, shipped: mode UNCLAIMED with root mask SHIPPED and flash in its shipped form (the model's choice of the moment of reset, assumption 4; the counter of free values starts at 1, assumption 5, and the queue is empty, assumption 7). -/
def Obligations.ResetIsAsTheTablesSay : Prop :=
  (∀ F : Field, State.reset.reg F = F.reset)
  ∧ (∀ e ∈ resetWords, State.reset.view e.1 = e.2) ∧ (∀ e ∈ pageKinds, State.reset.view (e.1 * 0x1000) = e.2)
  ∧ (∀ y < 64, ∀ e ∈ [(0, 0x400 + y), (0x40, 0x03020100), (0x4C, 0x0F0E0D0C), (0x50, 0x100000), (0x58, 0x28), (0x60, 0x03FF03FF), (0x7C, 0x03FF03FF), (0x80, 0x3FF)],
      State.reset.view (0x4000 + 256 * y + e.1) = e.2)
  ∧ (∀ k : Nat, State.reset.hd k = if k ∈ [0x000, 0x110, 0x170, 0x180, 0x190, 0x1B0, 0x1C0] then { enable := true, st := 2 } else {})
  ∧ (∀ off ∈ latchedLo, ∀ n : Bool, State.reset.readValue n (off + 4) = 0)
  ∧ State.reset.frame = {} ∧ State.reset.frame.no = 0 ∧ State.reset.rig = {} ∧ State.reset.adm = {} ∧ State.reset.adm.items = [] ∧ State.reset.flights = [] ∧ State.reset.sheaves = []
  ∧ State.reset.ymem = [] ∧ State.reset.iram = [] ∧ State.reset.dram = [] ∧ State.reset.narisRam = [] ∧ State.reset.witness.mem = [] ∧ State.reset.witness.wseq = 1 ∧ State.reset.flash.mem = []
  ∧ State.reset.cleat = {} ∧ State.reset.parts = {} ∧ State.reset.host = {} ∧ State.reset.stay = {} ∧ State.reset.spring = {} ∧ State.reset.art = {} ∧ State.reset.glob.log = []
  ∧ State.reset.glob.booted = false ∧ State.reset.mode = .unclaimed ∧ State.reset.tamper.rootState = 1 ∧ State.reset.flash.shipped = true
  ∧ State.reset.pending = [] ∧ State.reset.outbound = [] ∧ State.reset.free = 1
  ∧ Memory.wf State.reset = true

/-- Whatever a command does, it leaves the queue of waiting commands as it is, what the device has sent stays sent and in order, and the counter of free values does not go back (these three are fields of the model: assumptions 5, 6 and 7). WSEQ never falls, but for DOMAIN_COLD_START, where the domain takes it from the records in witness memory. A LOCK that is set stays set in every block that is booted afterwards (so only a full reset clears one), but in DOMAIN_COLD_START, which resets the TAMPER page. Every command runs: none faults and none is refused. -/
def Obligations.NoCommandTakesBackWhatItMayNot : Prop :=
  ∀ (c : Instr) (s : State), ∃ t, exec c s = .next t
    ∧ t.pending = s.pending ∧ (∃ sent, t.outbound = s.outbound ++ sent) ∧ s.free ≤ t.free
    ∧ (c ≠ .domainColdStart → s.witness.wseq ≤ t.witness.wseq
        ∧ ∀ k, (s.hd k).lock = true → (t.hd k).lock = true ∨ t.glob.booted = false)

/-- In every state whose memories are in canonical form (addresses rising, no entry that repeats what an unlisted address reads as), whatever command stands at the front of the queue, the step answers a next state and that state's memories are in canonical form again: yard memory, the instruction and data RAMs of the Sheaves, Naris RAM, witness memory, the ceremony window, the flash array and the register fields. So two states with the same contents are the same data, and every read of a byte has one answer. -/
def Obligations.MemoriesStayCanonical : Prop :=
  ∀ s : State, Memory.wf s = true → ∃ t, step s = .next t ∧ Memory.wf t = true
end

