-- ==== Sys2Proof/Laws/SMap.lean ====
section
/-!
SUPPORT. Sparse tables: what a read answers after a write, and that every operation keeps the canonical form.
-/
set_option autoImplicit false

namespace Sys2Proof.Laws

open Sys2Proof Sys2Proof.Machine

variable {α : Type}

/-! ### Reading after writing; these hold of every table, canonical or not -/

theorem get_filter (d : α) (p : Nat → Bool) (m : SMap α) (k : Nat) :
    SMap.get d (m.filter fun e => p e.1) k = if p k then SMap.get d m k else d := by
  induction m with
  | nil => simp [SMap.get]
  | cons e m ih =>
    obtain ⟨a, v⟩ := e
    by_cases hk : k = a
    · subst hk
      by_cases hp : p k
      · simp [SMap.get, hp]
      · simp [hp, ih]
    · by_cases hp : p a
      · simp [SMap.get, hp, ih, hk]
      · simp [SMap.get, hp, ih, hk]

theorem get_del (d : α) (m : SMap α) (k j : Nat) : SMap.get d (SMap.del m k) j = if j = k then d else SMap.get d m j := by
  simp only [SMap.del]
  rw [get_filter d (fun a => a != k) m j]
  by_cases h : j = k <;> simp [h]

theorem get_ins (d : α) (m : SMap α) (k : Nat) (v : α) (j : Nat) :
    SMap.get d (SMap.ins k v m) j = if j = k then v else SMap.get d m j := by
  induction m with
  | nil => simp [SMap.ins, SMap.get]
  | cons e m ih =>
    obtain ⟨a, w⟩ := e
    simp only [SMap.ins]
    split
    · simp [SMap.get]
    · split
      · next h =>
        subst h
        by_cases hj : j = k <;> simp [SMap.get, hj]
      · simp only [SMap.get, ih]
        by_cases hj : j = a
        · subst hj
          have : ¬ j = k := fun h => by omega
          simp [this]
        · simp [hj]

variable [DecidableEq α]

theorem get_put (d : α) (m : SMap α) (k : Nat) (v : α) (j : Nat) :
    SMap.get d (SMap.put d m k v) j = if j = k then v else SMap.get d m j := by
  simp only [SMap.put]
  split
  · next h => rw [get_del, h]
  · exact get_ins d m k v j

@[simp] theorem get_put_self (d : α) (m : SMap α) (k : Nat) (v : α) : SMap.get d (SMap.put d m k v) k = v := by simp [get_put]

theorem get_put_ne (d : α) (m : SMap α) (k : Nat) (v : α) (j : Nat) (h : j ≠ k) :
    SMap.get d (SMap.put d m k v) j = SMap.get d m j := by simp [get_put, h]

omit [DecidableEq α] in
theorem get_append (d : α) (m n : SMap α) (k : Nat) :
    SMap.get d (m ++ n) k = if m.any (fun e => e.1 == k) then SMap.get d m k else SMap.get d n k := by
  induction m with
  | nil => simp
  | cons e m ih =>
    obtain ⟨a, v⟩ := e
    by_cases hk : k = a
    · simp [SMap.get, hk]
    · have hb : (a == k) = false := by simpa using fun h : a = k => hk h.symm
      simp only [List.cons_append, SMap.get, hk, if_false, ih, List.any_cons, hb, Bool.false_or]

theorem get_run (d : α) (a : Nat) (vs : List α) (k : Nat) :
    SMap.get d (SMap.run d a vs) k = if a ≤ k then vs.getD (k - a) d else d := by
  induction vs generalizing a with
  | nil => simp [SMap.run, SMap.get]
  | cons v vs ih =>
    simp only [SMap.run]
    by_cases hk : k = a
    · subst hk
      split
      · next h =>
        rw [ih]
        have : ¬ k + 1 ≤ k := by omega
        simp [this, h]
      · simp [SMap.get]
    · have hrec : SMap.get d (SMap.run d (a + 1) vs) k = if a ≤ k then (v :: vs).getD (k - a) d else d := by
        rw [ih]
        by_cases ha : a ≤ k
        · have h1 : a + 1 ≤ k := by omega
          obtain ⟨n, hn⟩ : ∃ n, k - a = n + 1 := ⟨k - a - 1, by omega⟩
          have h2 : k - (a + 1) = n := by omega
          simp [ha, h1, hn, h2]
        · have h1 : ¬ a + 1 ≤ k := by omega
          simp [ha, h1]
      split
      · exact hrec
      · simp [SMap.get, hk, hrec]

omit [DecidableEq α] in
theorem get_keep (d : α) (p : Nat → Bool) (m : SMap α) (k : Nat) : SMap.get d (SMap.keep p m) k = if p k then SMap.get d m k else d :=
  get_filter d p m k

omit [DecidableEq α] in
theorem get_clear (d : α) (m : SMap α) (a n k : Nat) : SMap.get d (SMap.clear m a n) k = if a ≤ k ∧ k < a + n then d else SMap.get d m k := by
  simp only [SMap.clear]
  rw [get_filter d (fun x => !(decide (a ≤ x) && decide (x < a + n))) m k]
  by_cases h : a ≤ k ∧ k < a + n
  · simp [h]
  · rw [if_neg h]
    by_cases h1 : a ≤ k
    · have h2 : a + n ≤ k := by omega
      simp [h1, h2]
    · simp [h1]

theorem run_keys (d : α) (a : Nat) (vs : List α) : ∀ e ∈ SMap.run d a vs, a ≤ e.1 ∧ e.1 < a + vs.length ∧ e.2 ≠ d := by
  induction vs generalizing a with
  | nil => simp [SMap.run]
  | cons v vs ih =>
    intro e he
    simp only [SMap.run] at he
    have step : e ∈ SMap.run d (a + 1) vs → a ≤ e.1 ∧ e.1 < a + (v :: vs).length ∧ e.2 ≠ d := by
      intro h
      have := ih (a + 1) e h
      simp only [List.length_cons]
      exact ⟨by omega, by omega, this.2.2⟩
    split at he
    · exact step he
    · next hv =>
      rcases List.mem_cons.mp he with h | h
      · subst h
        exact ⟨Nat.le_refl _, by simp, hv⟩
      · exact step h

/-- A run reads as its values, and every other key as before. -/
theorem get_putRun (d : α) (m : SMap α) (a : Nat) (vs : List α) (k : Nat) :
    SMap.get d (SMap.putRun d m a vs) k = if a ≤ k ∧ k < a + vs.length then vs.getD (k - a) d else SMap.get d m k := by
  have hlo : SMap.get d (m.filter fun e => decide (e.1 < a)) k = if k < a then SMap.get d m k else d := by
    have := get_filter d (fun x => decide (x < a)) m k
    simpa using this
  have hhi : SMap.get d (m.filter fun e => decide (a + vs.length ≤ e.1)) k = if a + vs.length ≤ k then SMap.get d m k else d := by
    have := get_filter d (fun x => decide (a + vs.length ≤ x)) m k
    simpa using this
  simp only [SMap.putRun]
  rw [get_append, get_append]
  by_cases h1 : k < a
  · have nr : (SMap.run d a vs).any (fun e => e.1 == k) = false := by
      rw [List.any_eq_false]
      intro e he
      have := run_keys d a vs e he
      simp only [beq_iff_eq]
      omega
    rw [hlo, hhi, get_run]
    simp only [List.any_append, nr, Bool.or_false]
    have hne : ¬ (a ≤ k ∧ k < a + vs.length) := by omega
    have hne2 : ¬ a + vs.length ≤ k := by omega
    rw [if_neg hne, if_pos h1, if_neg hne2]
    split
    · rfl
    · next hn =>
      have hz : SMap.get d (m.filter fun e => decide (e.1 < a)) k = d := by
        clear hlo hhi nr
        generalize m.filter (fun e => decide (e.1 < a)) = l at hn
        induction l with
        | nil => rfl
        | cons e l ih =>
          obtain ⟨x, v⟩ := e
          simp only [List.any_cons, Bool.or_eq_true, beq_iff_eq, not_or] at hn
          have : ¬ k = x := fun h => hn.1 h.symm
          simp only [SMap.get, this, if_false]
          exact ih hn.2
      have := hlo
      rw [hz, if_pos h1] at this
      exact this
  · have nl : (m.filter fun e => decide (e.1 < a)).any (fun e => e.1 == k) = false := by
      rw [List.any_eq_false]
      intro e he
      simp only [List.mem_filter, decide_eq_true_eq] at he
      simp only [beq_iff_eq]
      omega
    simp only [List.any_append, nl, Bool.false_or, Bool.false_eq_true, if_false]
    rw [get_run, hhi]
    have ha : a ≤ k := by omega
    by_cases h2 : k < a + vs.length
    · have hne2 : ¬ a + vs.length ≤ k := by omega
      simp only [ha, h2, and_self, if_true, hne2, if_false]
      split
      · rfl
      · next hn =>
        have hz : SMap.get d (SMap.run d a vs) k = d := by
          generalize SMap.run d a vs = l at hn
          clear nl hlo hhi
          induction l with
          | nil => rfl
          | cons e l ih =>
            obtain ⟨x, v⟩ := e
            simp only [List.any_cons, Bool.or_eq_true, beq_iff_eq, not_or] at hn
            have : ¬ k = x := fun h => hn.1 h.symm
            simp only [SMap.get, this, if_false]
            exact ih hn.2
        have := get_run d a vs k
        rw [hz, if_pos ha] at this
        exact this
    · have nr : (SMap.run d a vs).any (fun e => e.1 == k) = false := by
        rw [List.any_eq_false]
        intro e he
        have := run_keys d a vs e he
        simp only [beq_iff_eq]
        omega
      have hge : a + vs.length ≤ k := by omega
      simp [nr, h2, hge]

/-! ### The canonical form -/

/-- The canonical form above a bound, as a property of the entries. -/
theorem wfFrom_cons (d : α) (b a : Nat) (v : α) (m : SMap α) :
    SMap.wfFrom d b ((a, v) :: m) = true ↔ b ≤ a ∧ v ≠ d ∧ SMap.wfFrom d (a + 1) m = true := by
  simp [SMap.wfFrom, and_assoc]

theorem wfFrom_mono (d : α) (m : SMap α) (b c : Nat) (h : c ≤ b) (w : SMap.wfFrom d b m = true) : SMap.wfFrom d c m = true := by
  cases m with
  | nil => rfl
  | cons e m =>
    obtain ⟨a, v⟩ := e
    rw [wfFrom_cons] at w ⊢
    exact ⟨by omega, w.2⟩

theorem wfFrom_filter (d : α) (p : Nat × α → Bool) (m : SMap α) (b : Nat) (w : SMap.wfFrom d b m = true) :
    SMap.wfFrom d b (m.filter p) = true := by
  induction m generalizing b with
  | nil => rfl
  | cons e m ih =>
    obtain ⟨a, v⟩ := e
    rw [wfFrom_cons] at w
    rw [List.filter_cons]
    split
    · rw [wfFrom_cons]
      exact ⟨w.1, w.2.1, ih _ w.2.2⟩
    · exact wfFrom_mono d _ (a + 1) b (by omega) (ih _ w.2.2)

theorem wfFrom_ins (d : α) (m : SMap α) (b k : Nat) (v : α) (hb : b ≤ k) (hv : v ≠ d) (w : SMap.wfFrom d b m = true) :
    SMap.wfFrom d b (SMap.ins k v m) = true := by
  induction m generalizing b with
  | nil => simp [SMap.ins, SMap.wfFrom, hb, hv]
  | cons e m ih =>
    obtain ⟨a, x⟩ := e
    rw [wfFrom_cons] at w
    simp only [SMap.ins]
    split
    · next h =>
      rw [wfFrom_cons, wfFrom_cons]
      exact ⟨hb, hv, by omega, w.2⟩
    · split
      · next h =>
        subst h
        rw [wfFrom_cons]
        exact ⟨hb, hv, w.2.2⟩
      · rw [wfFrom_cons]
        exact ⟨w.1, w.2.1, ih (a + 1) (by omega) w.2.2⟩

theorem wf_filter (d : α) (p : Nat × α → Bool) (m : SMap α) (w : SMap.wf d m = true) : SMap.wf d (m.filter p) = true :=
  wfFrom_filter d p m 0 w

theorem wf_put (d : α) (m : SMap α) (k : Nat) (v : α) (w : SMap.wf d m = true) : SMap.wf d (SMap.put d m k v) = true := by
  simp only [SMap.put]
  split
  · exact wfFrom_filter d _ m 0 w
  · next h => exact wfFrom_ins d m 0 k v (Nat.zero_le _) h w

theorem wf_upd (d : α) (m : SMap α) (k : Nat) (f : α → α) (w : SMap.wf d m = true) : SMap.wf d (SMap.upd d m k f) = true :=
  wf_put d m k _ w

theorem wf_keep (d : α) (p : Nat → Bool) (m : SMap α) (w : SMap.wf d m = true) : SMap.wf d (SMap.keep p m) = true :=
  wf_filter d _ m w

theorem wf_clear (d : α) (m : SMap α) (a n : Nat) (w : SMap.wf d m = true) : SMap.wf d (SMap.clear m a n) = true :=
  wf_filter d _ m w

theorem wf_putBytes (m : SMap Byte) (a : Nat) (bs : List Byte) (w : SMap.wf 0 m = true) : SMap.wf 0 (SMap.putBytes m a bs) = true := by
  induction bs generalizing m a with
  | nil => exact w
  | cons b bs ih => exact ih _ _ (wf_put 0 m a b w)

theorem wfFrom_run (d : α) (a : Nat) (vs : List α) : SMap.wfFrom d a (SMap.run d a vs) = true := by
  induction vs generalizing a with
  | nil => rfl
  | cons v vs ih =>
    simp only [SMap.run]
    split
    · exact wfFrom_mono d _ (a + 1) a (by omega) (ih _)
    · next h =>
      rw [wfFrom_cons]
      exact ⟨Nat.le_refl _, h, ih _⟩

/-- Two canonical tables, the keys of the first all below those of the second. -/
theorem wfFrom_append (d : α) (m n : SMap α) (b c : Nat) (hb : b ≤ c) (wm : SMap.wfFrom d b m = true) (hm : ∀ e ∈ m, e.1 < c)
    (wn : SMap.wfFrom d c n = true) : SMap.wfFrom d b (m ++ n) = true := by
  induction m generalizing b with
  | nil => exact wfFrom_mono d n c b hb wn
  | cons e m ih =>
    obtain ⟨a, v⟩ := e
    rw [wfFrom_cons] at wm
    rw [List.cons_append, wfFrom_cons]
    have ha : a < c := hm (a, v) (by simp)
    exact ⟨wm.1, wm.2.1, ih (a + 1) (by omega) wm.2.2 fun e he => hm e (by simp [he])⟩

theorem wfFrom_raise (d : α) (m : SMap α) (b c : Nat) (w : SMap.wfFrom d b m = true) (h : ∀ e ∈ m, c ≤ e.1) : SMap.wfFrom d c m = true := by
  cases m with
  | nil => rfl
  | cons e m =>
    obtain ⟨a, v⟩ := e
    rw [wfFrom_cons] at w ⊢
    exact ⟨h (a, v) (by simp), w.2⟩

theorem wf_putRun (d : α) (m : SMap α) (a : Nat) (vs : List α) (w : SMap.wf d m = true) : SMap.wf d (SMap.putRun d m a vs) = true := by
  have hhi : SMap.wfFrom d (a + vs.length) (m.filter fun e => decide (a + vs.length ≤ e.1)) = true :=
    wfFrom_raise d _ 0 _ (wfFrom_filter d _ m 0 w) fun e he => by simpa using (List.mem_filter.mp he).2
  simp only [SMap.putRun, List.append_assoc]
  refine wfFrom_append d _ _ 0 a (Nat.zero_le _) (wfFrom_filter d _ m 0 w) (fun e he => by simpa using (List.mem_filter.mp he).2) ?_
  exact wfFrom_append d _ _ a (a + vs.length) (by omega) (wfFrom_run d a vs) (fun e he => (run_keys d a vs e he).2.1) hhi

/-- In a canonical table a value that differs from the default is listed, once. -/
theorem wf_ext (d : α) (m n : SMap α) (b : Nat) (hm : SMap.wfFrom d b m = true) (hn : SMap.wfFrom d b n = true)
    (h : ∀ k, SMap.get d m k = SMap.get d n k) : m = n := by
  have low : ∀ (l : SMap α) (b k : Nat), SMap.wfFrom d b l = true → k < b → SMap.get d l k = d := by
    intro l
    induction l with
    | nil => intros; rfl
    | cons e l ih =>
      intro b k w hk
      obtain ⟨a, v⟩ := e
      rw [wfFrom_cons] at w
      have hne : ¬ k = a := by omega
      simp only [SMap.get, hne, if_false]
      exact ih (a + 1) k w.2.2 (by omega)
  induction m generalizing n b with
  | nil =>
    cases n with
    | nil => rfl
    | cons e n =>
      obtain ⟨a, v⟩ := e
      rw [wfFrom_cons] at hn
      have := h a
      simp only [SMap.get, if_true] at this
      exact absurd this.symm hn.2.1
  | cons e m ih =>
    obtain ⟨a, v⟩ := e
    rw [wfFrom_cons] at hm
    cases n with
    | nil =>
      have := h a
      simp only [SMap.get, if_true] at this
      exact absurd this hm.2.1
    | cons f n =>
      obtain ⟨c, u⟩ := f
      rw [wfFrom_cons] at hn
      have hac : a = c := by
        rcases Nat.lt_trichotomy a c with hlt | heq | hgt
        · have h1 := h a
          have hne : ¬ a = c := by omega
          simp only [SMap.get, if_true, hne, if_false] at h1
          rw [low n (c + 1) a hn.2.2 (by omega)] at h1
          exact absurd h1 hm.2.1
        · exact heq
        · have h1 := h c
          have hne : ¬ c = a := by omega
          simp only [SMap.get, if_true, hne, if_false] at h1
          rw [low m (a + 1) c hm.2.2 (by omega)] at h1
          exact absurd h1.symm hn.2.1
      subst hac
      have huv : v = u := by
        have := h a
        simpa [SMap.get] using this
      subst huv
      have : m = n := by
        refine ih n (a + 1) hm.2.2 hn.2.2 fun k => ?_
        by_cases hk : k = a
        · subst hk
          rw [low m (k + 1) k hm.2.2 (by omega), low n (k + 1) k hn.2.2 (by omega)]
        · have := h k
          simpa [SMap.get, hk] using this
      rw [this]

end Sys2Proof.Laws
end

