-- ==== Sys2Proof/Laws/State.lean ====
section
/-!
SUPPORT. One lemma per field of State for each of the shared updates: what an update does not write stays. Generated from
the list of fields; every proof is by unfolding the update.
-/
set_option autoImplicit false

namespace Sys2Proof.Laws

open Sys2Proof Sys2Proof.Machine

/-! ### setReg -/

@[simp] theorem setReg_frame (s : State) (F : Field) (v : Nat) : (s.setReg F v).frame = s.frame := rfl
@[simp] theorem setReg_rig (s : State) (F : Field) (v : Nat) : (s.setReg F v).rig = s.rig := rfl
@[simp] theorem setReg_adm (s : State) (F : Field) (v : Nat) : (s.setReg F v).adm = s.adm := rfl
@[simp] theorem setReg_sheaves (s : State) (F : Field) (v : Nat) : (s.setReg F v).sheaves = s.sheaves := rfl
@[simp] theorem setReg_naris (s : State) (F : Field) (v : Nat) : (s.setReg F v).naris = s.naris := rfl
@[simp] theorem setReg_iram (s : State) (F : Field) (v : Nat) : (s.setReg F v).iram = s.iram := rfl
@[simp] theorem setReg_dram (s : State) (F : Field) (v : Nat) : (s.setReg F v).dram = s.dram := rfl
@[simp] theorem setReg_ymem (s : State) (F : Field) (v : Nat) : (s.setReg F v).ymem = s.ymem := rfl
@[simp] theorem setReg_narisRam (s : State) (F : Field) (v : Nat) : (s.setReg F v).narisRam = s.narisRam := rfl
@[simp] theorem setReg_unitPuts (s : State) (F : Field) (v : Nat) : (s.setReg F v).unitPuts = s.unitPuts := rfl
@[simp] theorem setReg_yards (s : State) (F : Field) (v : Nat) : (s.setReg F v).yards = s.yards := rfl
@[simp] theorem setReg_pools (s : State) (F : Field) (v : Nat) : (s.setReg F v).pools = s.pools := rfl
@[simp] theorem setReg_flights (s : State) (F : Field) (v : Nat) : (s.setReg F v).flights = s.flights := rfl
@[simp] theorem setReg_macs (s : State) (F : Field) (v : Nat) : (s.setReg F v).macs = s.macs := rfl
@[simp] theorem setReg_serial (s : State) (F : Field) (v : Nat) : (s.setReg F v).serial = s.serial := rfl
@[simp] theorem setReg_bne (s : State) (F : Field) (v : Nat) : (s.setReg F v).bne = s.bne := rfl
@[simp] theorem setReg_pu (s : State) (F : Field) (v : Nat) : (s.setReg F v).pu = s.pu := rfl
@[simp] theorem setReg_cleat (s : State) (F : Field) (v : Nat) : (s.setReg F v).cleat = s.cleat := rfl
@[simp] theorem setReg_host (s : State) (F : Field) (v : Nat) : (s.setReg F v).host = s.host := rfl
@[simp] theorem setReg_parts (s : State) (F : Field) (v : Nat) : (s.setReg F v).parts = s.parts := rfl
@[simp] theorem setReg_stay (s : State) (F : Field) (v : Nat) : (s.setReg F v).stay = s.stay := rfl
@[simp] theorem setReg_spring (s : State) (F : Field) (v : Nat) : (s.setReg F v).spring = s.spring := rfl
@[simp] theorem setReg_art (s : State) (F : Field) (v : Nat) : (s.setReg F v).art = s.art := rfl
@[simp] theorem setReg_cvus (s : State) (F : Field) (v : Nat) : (s.setReg F v).cvus = s.cvus := rfl
@[simp] theorem setReg_flash (s : State) (F : Field) (v : Nat) : (s.setReg F v).flash = s.flash := rfl
@[simp] theorem setReg_glob (s : State) (F : Field) (v : Nat) : (s.setReg F v).glob = s.glob := rfl
@[simp] theorem setReg_tamper (s : State) (F : Field) (v : Nat) : (s.setReg F v).tamper = s.tamper := rfl
@[simp] theorem setReg_witness (s : State) (F : Field) (v : Nat) : (s.setReg F v).witness = s.witness := rfl
@[simp] theorem setReg_card (s : State) (F : Field) (v : Nat) : (s.setReg F v).card = s.card := rfl
@[simp] theorem setReg_cust (s : State) (F : Field) (v : Nat) : (s.setReg F v).cust = s.cust := rfl
@[simp] theorem setReg_pins (s : State) (F : Field) (v : Nat) : (s.setReg F v).pins = s.pins := rfl
@[simp] theorem setReg_hdr (s : State) (F : Field) (v : Nat) : (s.setReg F v).hdr = s.hdr := rfl
@[simp] theorem setReg_latch (s : State) (F : Field) (v : Nat) : (s.setReg F v).latch = s.latch := rfl
@[simp] theorem setReg_outbound (s : State) (F : Field) (v : Nat) : (s.setReg F v).outbound = s.outbound := rfl
@[simp] theorem setReg_free (s : State) (F : Field) (v : Nat) : (s.setReg F v).free = s.free := rfl
@[simp] theorem setReg_pending (s : State) (F : Field) (v : Nat) : (s.setReg F v).pending = s.pending := rfl

/-! ### setBit -/

@[simp] theorem setBit_frame (s : State) (F : Field) (b : Bool) : (s.setBit F b).frame = s.frame := rfl
@[simp] theorem setBit_rig (s : State) (F : Field) (b : Bool) : (s.setBit F b).rig = s.rig := rfl
@[simp] theorem setBit_adm (s : State) (F : Field) (b : Bool) : (s.setBit F b).adm = s.adm := rfl
@[simp] theorem setBit_sheaves (s : State) (F : Field) (b : Bool) : (s.setBit F b).sheaves = s.sheaves := rfl
@[simp] theorem setBit_naris (s : State) (F : Field) (b : Bool) : (s.setBit F b).naris = s.naris := rfl
@[simp] theorem setBit_iram (s : State) (F : Field) (b : Bool) : (s.setBit F b).iram = s.iram := rfl
@[simp] theorem setBit_dram (s : State) (F : Field) (b : Bool) : (s.setBit F b).dram = s.dram := rfl
@[simp] theorem setBit_ymem (s : State) (F : Field) (b : Bool) : (s.setBit F b).ymem = s.ymem := rfl
@[simp] theorem setBit_narisRam (s : State) (F : Field) (b : Bool) : (s.setBit F b).narisRam = s.narisRam := rfl
@[simp] theorem setBit_unitPuts (s : State) (F : Field) (b : Bool) : (s.setBit F b).unitPuts = s.unitPuts := rfl
@[simp] theorem setBit_yards (s : State) (F : Field) (b : Bool) : (s.setBit F b).yards = s.yards := rfl
@[simp] theorem setBit_pools (s : State) (F : Field) (b : Bool) : (s.setBit F b).pools = s.pools := rfl
@[simp] theorem setBit_flights (s : State) (F : Field) (b : Bool) : (s.setBit F b).flights = s.flights := rfl
@[simp] theorem setBit_macs (s : State) (F : Field) (b : Bool) : (s.setBit F b).macs = s.macs := rfl
@[simp] theorem setBit_serial (s : State) (F : Field) (b : Bool) : (s.setBit F b).serial = s.serial := rfl
@[simp] theorem setBit_bne (s : State) (F : Field) (b : Bool) : (s.setBit F b).bne = s.bne := rfl
@[simp] theorem setBit_pu (s : State) (F : Field) (b : Bool) : (s.setBit F b).pu = s.pu := rfl
@[simp] theorem setBit_cleat (s : State) (F : Field) (b : Bool) : (s.setBit F b).cleat = s.cleat := rfl
@[simp] theorem setBit_host (s : State) (F : Field) (b : Bool) : (s.setBit F b).host = s.host := rfl
@[simp] theorem setBit_parts (s : State) (F : Field) (b : Bool) : (s.setBit F b).parts = s.parts := rfl
@[simp] theorem setBit_stay (s : State) (F : Field) (b : Bool) : (s.setBit F b).stay = s.stay := rfl
@[simp] theorem setBit_spring (s : State) (F : Field) (b : Bool) : (s.setBit F b).spring = s.spring := rfl
@[simp] theorem setBit_art (s : State) (F : Field) (b : Bool) : (s.setBit F b).art = s.art := rfl
@[simp] theorem setBit_cvus (s : State) (F : Field) (b : Bool) : (s.setBit F b).cvus = s.cvus := rfl
@[simp] theorem setBit_flash (s : State) (F : Field) (b : Bool) : (s.setBit F b).flash = s.flash := rfl
@[simp] theorem setBit_glob (s : State) (F : Field) (b : Bool) : (s.setBit F b).glob = s.glob := rfl
@[simp] theorem setBit_tamper (s : State) (F : Field) (b : Bool) : (s.setBit F b).tamper = s.tamper := rfl
@[simp] theorem setBit_witness (s : State) (F : Field) (b : Bool) : (s.setBit F b).witness = s.witness := rfl
@[simp] theorem setBit_card (s : State) (F : Field) (b : Bool) : (s.setBit F b).card = s.card := rfl
@[simp] theorem setBit_cust (s : State) (F : Field) (b : Bool) : (s.setBit F b).cust = s.cust := rfl
@[simp] theorem setBit_pins (s : State) (F : Field) (b : Bool) : (s.setBit F b).pins = s.pins := rfl
@[simp] theorem setBit_hdr (s : State) (F : Field) (b : Bool) : (s.setBit F b).hdr = s.hdr := rfl
@[simp] theorem setBit_latch (s : State) (F : Field) (b : Bool) : (s.setBit F b).latch = s.latch := rfl
@[simp] theorem setBit_outbound (s : State) (F : Field) (b : Bool) : (s.setBit F b).outbound = s.outbound := rfl
@[simp] theorem setBit_free (s : State) (F : Field) (b : Bool) : (s.setBit F b).free = s.free := rfl
@[simp] theorem setBit_pending (s : State) (F : Field) (b : Bool) : (s.setBit F b).pending = s.pending := rfl

/-! ### inc -/

@[simp] theorem inc_frame (s : State) (F : Field) : (s.inc F).frame = s.frame := rfl
@[simp] theorem inc_rig (s : State) (F : Field) : (s.inc F).rig = s.rig := rfl
@[simp] theorem inc_adm (s : State) (F : Field) : (s.inc F).adm = s.adm := rfl
@[simp] theorem inc_sheaves (s : State) (F : Field) : (s.inc F).sheaves = s.sheaves := rfl
@[simp] theorem inc_naris (s : State) (F : Field) : (s.inc F).naris = s.naris := rfl
@[simp] theorem inc_iram (s : State) (F : Field) : (s.inc F).iram = s.iram := rfl
@[simp] theorem inc_dram (s : State) (F : Field) : (s.inc F).dram = s.dram := rfl
@[simp] theorem inc_ymem (s : State) (F : Field) : (s.inc F).ymem = s.ymem := rfl
@[simp] theorem inc_narisRam (s : State) (F : Field) : (s.inc F).narisRam = s.narisRam := rfl
@[simp] theorem inc_unitPuts (s : State) (F : Field) : (s.inc F).unitPuts = s.unitPuts := rfl
@[simp] theorem inc_yards (s : State) (F : Field) : (s.inc F).yards = s.yards := rfl
@[simp] theorem inc_pools (s : State) (F : Field) : (s.inc F).pools = s.pools := rfl
@[simp] theorem inc_flights (s : State) (F : Field) : (s.inc F).flights = s.flights := rfl
@[simp] theorem inc_macs (s : State) (F : Field) : (s.inc F).macs = s.macs := rfl
@[simp] theorem inc_serial (s : State) (F : Field) : (s.inc F).serial = s.serial := rfl
@[simp] theorem inc_bne (s : State) (F : Field) : (s.inc F).bne = s.bne := rfl
@[simp] theorem inc_pu (s : State) (F : Field) : (s.inc F).pu = s.pu := rfl
@[simp] theorem inc_cleat (s : State) (F : Field) : (s.inc F).cleat = s.cleat := rfl
@[simp] theorem inc_host (s : State) (F : Field) : (s.inc F).host = s.host := rfl
@[simp] theorem inc_parts (s : State) (F : Field) : (s.inc F).parts = s.parts := rfl
@[simp] theorem inc_stay (s : State) (F : Field) : (s.inc F).stay = s.stay := rfl
@[simp] theorem inc_spring (s : State) (F : Field) : (s.inc F).spring = s.spring := rfl
@[simp] theorem inc_art (s : State) (F : Field) : (s.inc F).art = s.art := rfl
@[simp] theorem inc_cvus (s : State) (F : Field) : (s.inc F).cvus = s.cvus := rfl
@[simp] theorem inc_flash (s : State) (F : Field) : (s.inc F).flash = s.flash := rfl
@[simp] theorem inc_glob (s : State) (F : Field) : (s.inc F).glob = s.glob := rfl
@[simp] theorem inc_tamper (s : State) (F : Field) : (s.inc F).tamper = s.tamper := rfl
@[simp] theorem inc_witness (s : State) (F : Field) : (s.inc F).witness = s.witness := rfl
@[simp] theorem inc_card (s : State) (F : Field) : (s.inc F).card = s.card := rfl
@[simp] theorem inc_cust (s : State) (F : Field) : (s.inc F).cust = s.cust := rfl
@[simp] theorem inc_pins (s : State) (F : Field) : (s.inc F).pins = s.pins := rfl
@[simp] theorem inc_hdr (s : State) (F : Field) : (s.inc F).hdr = s.hdr := rfl
@[simp] theorem inc_latch (s : State) (F : Field) : (s.inc F).latch = s.latch := rfl
@[simp] theorem inc_outbound (s : State) (F : Field) : (s.inc F).outbound = s.outbound := rfl
@[simp] theorem inc_free (s : State) (F : Field) : (s.inc F).free = s.free := rfl
@[simp] theorem inc_pending (s : State) (F : Field) : (s.inc F).pending = s.pending := rfl

/-! ### incBy -/

@[simp] theorem incBy_frame (s : State) (F : Field) (n : Nat) : (s.incBy F n).frame = s.frame := rfl
@[simp] theorem incBy_rig (s : State) (F : Field) (n : Nat) : (s.incBy F n).rig = s.rig := rfl
@[simp] theorem incBy_adm (s : State) (F : Field) (n : Nat) : (s.incBy F n).adm = s.adm := rfl
@[simp] theorem incBy_sheaves (s : State) (F : Field) (n : Nat) : (s.incBy F n).sheaves = s.sheaves := rfl
@[simp] theorem incBy_naris (s : State) (F : Field) (n : Nat) : (s.incBy F n).naris = s.naris := rfl
@[simp] theorem incBy_iram (s : State) (F : Field) (n : Nat) : (s.incBy F n).iram = s.iram := rfl
@[simp] theorem incBy_dram (s : State) (F : Field) (n : Nat) : (s.incBy F n).dram = s.dram := rfl
@[simp] theorem incBy_ymem (s : State) (F : Field) (n : Nat) : (s.incBy F n).ymem = s.ymem := rfl
@[simp] theorem incBy_narisRam (s : State) (F : Field) (n : Nat) : (s.incBy F n).narisRam = s.narisRam := rfl
@[simp] theorem incBy_unitPuts (s : State) (F : Field) (n : Nat) : (s.incBy F n).unitPuts = s.unitPuts := rfl
@[simp] theorem incBy_yards (s : State) (F : Field) (n : Nat) : (s.incBy F n).yards = s.yards := rfl
@[simp] theorem incBy_pools (s : State) (F : Field) (n : Nat) : (s.incBy F n).pools = s.pools := rfl
@[simp] theorem incBy_flights (s : State) (F : Field) (n : Nat) : (s.incBy F n).flights = s.flights := rfl
@[simp] theorem incBy_macs (s : State) (F : Field) (n : Nat) : (s.incBy F n).macs = s.macs := rfl
@[simp] theorem incBy_serial (s : State) (F : Field) (n : Nat) : (s.incBy F n).serial = s.serial := rfl
@[simp] theorem incBy_bne (s : State) (F : Field) (n : Nat) : (s.incBy F n).bne = s.bne := rfl
@[simp] theorem incBy_pu (s : State) (F : Field) (n : Nat) : (s.incBy F n).pu = s.pu := rfl
@[simp] theorem incBy_cleat (s : State) (F : Field) (n : Nat) : (s.incBy F n).cleat = s.cleat := rfl
@[simp] theorem incBy_host (s : State) (F : Field) (n : Nat) : (s.incBy F n).host = s.host := rfl
@[simp] theorem incBy_parts (s : State) (F : Field) (n : Nat) : (s.incBy F n).parts = s.parts := rfl
@[simp] theorem incBy_stay (s : State) (F : Field) (n : Nat) : (s.incBy F n).stay = s.stay := rfl
@[simp] theorem incBy_spring (s : State) (F : Field) (n : Nat) : (s.incBy F n).spring = s.spring := rfl
@[simp] theorem incBy_art (s : State) (F : Field) (n : Nat) : (s.incBy F n).art = s.art := rfl
@[simp] theorem incBy_cvus (s : State) (F : Field) (n : Nat) : (s.incBy F n).cvus = s.cvus := rfl
@[simp] theorem incBy_flash (s : State) (F : Field) (n : Nat) : (s.incBy F n).flash = s.flash := rfl
@[simp] theorem incBy_glob (s : State) (F : Field) (n : Nat) : (s.incBy F n).glob = s.glob := rfl
@[simp] theorem incBy_tamper (s : State) (F : Field) (n : Nat) : (s.incBy F n).tamper = s.tamper := rfl
@[simp] theorem incBy_witness (s : State) (F : Field) (n : Nat) : (s.incBy F n).witness = s.witness := rfl
@[simp] theorem incBy_card (s : State) (F : Field) (n : Nat) : (s.incBy F n).card = s.card := rfl
@[simp] theorem incBy_cust (s : State) (F : Field) (n : Nat) : (s.incBy F n).cust = s.cust := rfl
@[simp] theorem incBy_pins (s : State) (F : Field) (n : Nat) : (s.incBy F n).pins = s.pins := rfl
@[simp] theorem incBy_hdr (s : State) (F : Field) (n : Nat) : (s.incBy F n).hdr = s.hdr := rfl
@[simp] theorem incBy_latch (s : State) (F : Field) (n : Nat) : (s.incBy F n).latch = s.latch := rfl
@[simp] theorem incBy_outbound (s : State) (F : Field) (n : Nat) : (s.incBy F n).outbound = s.outbound := rfl
@[simp] theorem incBy_free (s : State) (F : Field) (n : Nat) : (s.incBy F n).free = s.free := rfl
@[simp] theorem incBy_pending (s : State) (F : Field) (n : Nat) : (s.incBy F n).pending = s.pending := rfl

/-! ### sat -/

@[simp] theorem sat_frame (s : State) (F : Field) : (s.sat F).frame = s.frame := rfl
@[simp] theorem sat_rig (s : State) (F : Field) : (s.sat F).rig = s.rig := rfl
@[simp] theorem sat_adm (s : State) (F : Field) : (s.sat F).adm = s.adm := rfl
@[simp] theorem sat_sheaves (s : State) (F : Field) : (s.sat F).sheaves = s.sheaves := rfl
@[simp] theorem sat_naris (s : State) (F : Field) : (s.sat F).naris = s.naris := rfl
@[simp] theorem sat_iram (s : State) (F : Field) : (s.sat F).iram = s.iram := rfl
@[simp] theorem sat_dram (s : State) (F : Field) : (s.sat F).dram = s.dram := rfl
@[simp] theorem sat_ymem (s : State) (F : Field) : (s.sat F).ymem = s.ymem := rfl
@[simp] theorem sat_narisRam (s : State) (F : Field) : (s.sat F).narisRam = s.narisRam := rfl
@[simp] theorem sat_unitPuts (s : State) (F : Field) : (s.sat F).unitPuts = s.unitPuts := rfl
@[simp] theorem sat_yards (s : State) (F : Field) : (s.sat F).yards = s.yards := rfl
@[simp] theorem sat_pools (s : State) (F : Field) : (s.sat F).pools = s.pools := rfl
@[simp] theorem sat_flights (s : State) (F : Field) : (s.sat F).flights = s.flights := rfl
@[simp] theorem sat_macs (s : State) (F : Field) : (s.sat F).macs = s.macs := rfl
@[simp] theorem sat_serial (s : State) (F : Field) : (s.sat F).serial = s.serial := rfl
@[simp] theorem sat_bne (s : State) (F : Field) : (s.sat F).bne = s.bne := rfl
@[simp] theorem sat_pu (s : State) (F : Field) : (s.sat F).pu = s.pu := rfl
@[simp] theorem sat_cleat (s : State) (F : Field) : (s.sat F).cleat = s.cleat := rfl
@[simp] theorem sat_host (s : State) (F : Field) : (s.sat F).host = s.host := rfl
@[simp] theorem sat_parts (s : State) (F : Field) : (s.sat F).parts = s.parts := rfl
@[simp] theorem sat_stay (s : State) (F : Field) : (s.sat F).stay = s.stay := rfl
@[simp] theorem sat_spring (s : State) (F : Field) : (s.sat F).spring = s.spring := rfl
@[simp] theorem sat_art (s : State) (F : Field) : (s.sat F).art = s.art := rfl
@[simp] theorem sat_cvus (s : State) (F : Field) : (s.sat F).cvus = s.cvus := rfl
@[simp] theorem sat_flash (s : State) (F : Field) : (s.sat F).flash = s.flash := rfl
@[simp] theorem sat_glob (s : State) (F : Field) : (s.sat F).glob = s.glob := rfl
@[simp] theorem sat_tamper (s : State) (F : Field) : (s.sat F).tamper = s.tamper := rfl
@[simp] theorem sat_witness (s : State) (F : Field) : (s.sat F).witness = s.witness := rfl
@[simp] theorem sat_card (s : State) (F : Field) : (s.sat F).card = s.card := rfl
@[simp] theorem sat_cust (s : State) (F : Field) : (s.sat F).cust = s.cust := rfl
@[simp] theorem sat_pins (s : State) (F : Field) : (s.sat F).pins = s.pins := rfl
@[simp] theorem sat_hdr (s : State) (F : Field) : (s.sat F).hdr = s.hdr := rfl
@[simp] theorem sat_latch (s : State) (F : Field) : (s.sat F).latch = s.latch := rfl
@[simp] theorem sat_outbound (s : State) (F : Field) : (s.sat F).outbound = s.outbound := rfl
@[simp] theorem sat_free (s : State) (F : Field) : (s.sat F).free = s.free := rfl
@[simp] theorem sat_pending (s : State) (F : Field) : (s.sat F).pending = s.pending := rfl

/-! ### inc64 -/

@[simp] theorem inc64_frame (s : State) (lo hi : Field) (n : Nat) : (s.inc64 lo hi n).frame = s.frame := rfl
@[simp] theorem inc64_rig (s : State) (lo hi : Field) (n : Nat) : (s.inc64 lo hi n).rig = s.rig := rfl
@[simp] theorem inc64_adm (s : State) (lo hi : Field) (n : Nat) : (s.inc64 lo hi n).adm = s.adm := rfl
@[simp] theorem inc64_sheaves (s : State) (lo hi : Field) (n : Nat) : (s.inc64 lo hi n).sheaves = s.sheaves := rfl
@[simp] theorem inc64_naris (s : State) (lo hi : Field) (n : Nat) : (s.inc64 lo hi n).naris = s.naris := rfl
@[simp] theorem inc64_iram (s : State) (lo hi : Field) (n : Nat) : (s.inc64 lo hi n).iram = s.iram := rfl
@[simp] theorem inc64_dram (s : State) (lo hi : Field) (n : Nat) : (s.inc64 lo hi n).dram = s.dram := rfl
@[simp] theorem inc64_ymem (s : State) (lo hi : Field) (n : Nat) : (s.inc64 lo hi n).ymem = s.ymem := rfl
@[simp] theorem inc64_narisRam (s : State) (lo hi : Field) (n : Nat) : (s.inc64 lo hi n).narisRam = s.narisRam := rfl
@[simp] theorem inc64_unitPuts (s : State) (lo hi : Field) (n : Nat) : (s.inc64 lo hi n).unitPuts = s.unitPuts := rfl
@[simp] theorem inc64_yards (s : State) (lo hi : Field) (n : Nat) : (s.inc64 lo hi n).yards = s.yards := rfl
@[simp] theorem inc64_pools (s : State) (lo hi : Field) (n : Nat) : (s.inc64 lo hi n).pools = s.pools := rfl
@[simp] theorem inc64_flights (s : State) (lo hi : Field) (n : Nat) : (s.inc64 lo hi n).flights = s.flights := rfl
@[simp] theorem inc64_macs (s : State) (lo hi : Field) (n : Nat) : (s.inc64 lo hi n).macs = s.macs := rfl
@[simp] theorem inc64_serial (s : State) (lo hi : Field) (n : Nat) : (s.inc64 lo hi n).serial = s.serial := rfl
@[simp] theorem inc64_bne (s : State) (lo hi : Field) (n : Nat) : (s.inc64 lo hi n).bne = s.bne := rfl
@[simp] theorem inc64_pu (s : State) (lo hi : Field) (n : Nat) : (s.inc64 lo hi n).pu = s.pu := rfl
@[simp] theorem inc64_cleat (s : State) (lo hi : Field) (n : Nat) : (s.inc64 lo hi n).cleat = s.cleat := rfl
@[simp] theorem inc64_host (s : State) (lo hi : Field) (n : Nat) : (s.inc64 lo hi n).host = s.host := rfl
@[simp] theorem inc64_parts (s : State) (lo hi : Field) (n : Nat) : (s.inc64 lo hi n).parts = s.parts := rfl
@[simp] theorem inc64_stay (s : State) (lo hi : Field) (n : Nat) : (s.inc64 lo hi n).stay = s.stay := rfl
@[simp] theorem inc64_spring (s : State) (lo hi : Field) (n : Nat) : (s.inc64 lo hi n).spring = s.spring := rfl
@[simp] theorem inc64_art (s : State) (lo hi : Field) (n : Nat) : (s.inc64 lo hi n).art = s.art := rfl
@[simp] theorem inc64_cvus (s : State) (lo hi : Field) (n : Nat) : (s.inc64 lo hi n).cvus = s.cvus := rfl
@[simp] theorem inc64_flash (s : State) (lo hi : Field) (n : Nat) : (s.inc64 lo hi n).flash = s.flash := rfl
@[simp] theorem inc64_glob (s : State) (lo hi : Field) (n : Nat) : (s.inc64 lo hi n).glob = s.glob := rfl
@[simp] theorem inc64_tamper (s : State) (lo hi : Field) (n : Nat) : (s.inc64 lo hi n).tamper = s.tamper := rfl
@[simp] theorem inc64_witness (s : State) (lo hi : Field) (n : Nat) : (s.inc64 lo hi n).witness = s.witness := rfl
@[simp] theorem inc64_card (s : State) (lo hi : Field) (n : Nat) : (s.inc64 lo hi n).card = s.card := rfl
@[simp] theorem inc64_cust (s : State) (lo hi : Field) (n : Nat) : (s.inc64 lo hi n).cust = s.cust := rfl
@[simp] theorem inc64_pins (s : State) (lo hi : Field) (n : Nat) : (s.inc64 lo hi n).pins = s.pins := rfl
@[simp] theorem inc64_hdr (s : State) (lo hi : Field) (n : Nat) : (s.inc64 lo hi n).hdr = s.hdr := rfl
@[simp] theorem inc64_latch (s : State) (lo hi : Field) (n : Nat) : (s.inc64 lo hi n).latch = s.latch := rfl
@[simp] theorem inc64_outbound (s : State) (lo hi : Field) (n : Nat) : (s.inc64 lo hi n).outbound = s.outbound := rfl
@[simp] theorem inc64_free (s : State) (lo hi : Field) (n : Nat) : (s.inc64 lo hi n).free = s.free := rfl
@[simp] theorem inc64_pending (s : State) (lo hi : Field) (n : Nat) : (s.inc64 lo hi n).pending = s.pending := rfl

/-! ### setHd -/

@[simp] theorem setHd_frame (s : State) (k : Nat) (h : Hdr) : (s.setHd k h).frame = s.frame := rfl
@[simp] theorem setHd_rig (s : State) (k : Nat) (h : Hdr) : (s.setHd k h).rig = s.rig := rfl
@[simp] theorem setHd_adm (s : State) (k : Nat) (h : Hdr) : (s.setHd k h).adm = s.adm := rfl
@[simp] theorem setHd_sheaves (s : State) (k : Nat) (h : Hdr) : (s.setHd k h).sheaves = s.sheaves := rfl
@[simp] theorem setHd_naris (s : State) (k : Nat) (h : Hdr) : (s.setHd k h).naris = s.naris := rfl
@[simp] theorem setHd_iram (s : State) (k : Nat) (h : Hdr) : (s.setHd k h).iram = s.iram := rfl
@[simp] theorem setHd_dram (s : State) (k : Nat) (h : Hdr) : (s.setHd k h).dram = s.dram := rfl
@[simp] theorem setHd_ymem (s : State) (k : Nat) (h : Hdr) : (s.setHd k h).ymem = s.ymem := rfl
@[simp] theorem setHd_narisRam (s : State) (k : Nat) (h : Hdr) : (s.setHd k h).narisRam = s.narisRam := rfl
@[simp] theorem setHd_unitPuts (s : State) (k : Nat) (h : Hdr) : (s.setHd k h).unitPuts = s.unitPuts := rfl
@[simp] theorem setHd_yards (s : State) (k : Nat) (h : Hdr) : (s.setHd k h).yards = s.yards := rfl
@[simp] theorem setHd_pools (s : State) (k : Nat) (h : Hdr) : (s.setHd k h).pools = s.pools := rfl
@[simp] theorem setHd_flights (s : State) (k : Nat) (h : Hdr) : (s.setHd k h).flights = s.flights := rfl
@[simp] theorem setHd_macs (s : State) (k : Nat) (h : Hdr) : (s.setHd k h).macs = s.macs := rfl
@[simp] theorem setHd_serial (s : State) (k : Nat) (h : Hdr) : (s.setHd k h).serial = s.serial := rfl
@[simp] theorem setHd_bne (s : State) (k : Nat) (h : Hdr) : (s.setHd k h).bne = s.bne := rfl
@[simp] theorem setHd_pu (s : State) (k : Nat) (h : Hdr) : (s.setHd k h).pu = s.pu := rfl
@[simp] theorem setHd_cleat (s : State) (k : Nat) (h : Hdr) : (s.setHd k h).cleat = s.cleat := rfl
@[simp] theorem setHd_host (s : State) (k : Nat) (h : Hdr) : (s.setHd k h).host = s.host := rfl
@[simp] theorem setHd_parts (s : State) (k : Nat) (h : Hdr) : (s.setHd k h).parts = s.parts := rfl
@[simp] theorem setHd_stay (s : State) (k : Nat) (h : Hdr) : (s.setHd k h).stay = s.stay := rfl
@[simp] theorem setHd_spring (s : State) (k : Nat) (h : Hdr) : (s.setHd k h).spring = s.spring := rfl
@[simp] theorem setHd_art (s : State) (k : Nat) (h : Hdr) : (s.setHd k h).art = s.art := rfl
@[simp] theorem setHd_cvus (s : State) (k : Nat) (h : Hdr) : (s.setHd k h).cvus = s.cvus := rfl
@[simp] theorem setHd_flash (s : State) (k : Nat) (h : Hdr) : (s.setHd k h).flash = s.flash := rfl
@[simp] theorem setHd_glob (s : State) (k : Nat) (h : Hdr) : (s.setHd k h).glob = s.glob := rfl
@[simp] theorem setHd_tamper (s : State) (k : Nat) (h : Hdr) : (s.setHd k h).tamper = s.tamper := rfl
@[simp] theorem setHd_witness (s : State) (k : Nat) (h : Hdr) : (s.setHd k h).witness = s.witness := rfl
@[simp] theorem setHd_card (s : State) (k : Nat) (h : Hdr) : (s.setHd k h).card = s.card := rfl
@[simp] theorem setHd_cust (s : State) (k : Nat) (h : Hdr) : (s.setHd k h).cust = s.cust := rfl
@[simp] theorem setHd_pins (s : State) (k : Nat) (h : Hdr) : (s.setHd k h).pins = s.pins := rfl
@[simp] theorem setHd_rf (s : State) (k : Nat) (h : Hdr) : (s.setHd k h).rf = s.rf := rfl
@[simp] theorem setHd_latch (s : State) (k : Nat) (h : Hdr) : (s.setHd k h).latch = s.latch := rfl
@[simp] theorem setHd_outbound (s : State) (k : Nat) (h : Hdr) : (s.setHd k h).outbound = s.outbound := rfl
@[simp] theorem setHd_free (s : State) (k : Nat) (h : Hdr) : (s.setHd k h).free = s.free := rfl
@[simp] theorem setHd_pending (s : State) (k : Nat) (h : Hdr) : (s.setHd k h).pending = s.pending := rfl

/-! ### updHd -/

@[simp] theorem updHd_frame (s : State) (k : Nat) (f : Hdr → Hdr) : (s.updHd k f).frame = s.frame := rfl
@[simp] theorem updHd_rig (s : State) (k : Nat) (f : Hdr → Hdr) : (s.updHd k f).rig = s.rig := rfl
@[simp] theorem updHd_adm (s : State) (k : Nat) (f : Hdr → Hdr) : (s.updHd k f).adm = s.adm := rfl
@[simp] theorem updHd_sheaves (s : State) (k : Nat) (f : Hdr → Hdr) : (s.updHd k f).sheaves = s.sheaves := rfl
@[simp] theorem updHd_naris (s : State) (k : Nat) (f : Hdr → Hdr) : (s.updHd k f).naris = s.naris := rfl
@[simp] theorem updHd_iram (s : State) (k : Nat) (f : Hdr → Hdr) : (s.updHd k f).iram = s.iram := rfl
@[simp] theorem updHd_dram (s : State) (k : Nat) (f : Hdr → Hdr) : (s.updHd k f).dram = s.dram := rfl
@[simp] theorem updHd_ymem (s : State) (k : Nat) (f : Hdr → Hdr) : (s.updHd k f).ymem = s.ymem := rfl
@[simp] theorem updHd_narisRam (s : State) (k : Nat) (f : Hdr → Hdr) : (s.updHd k f).narisRam = s.narisRam := rfl
@[simp] theorem updHd_unitPuts (s : State) (k : Nat) (f : Hdr → Hdr) : (s.updHd k f).unitPuts = s.unitPuts := rfl
@[simp] theorem updHd_yards (s : State) (k : Nat) (f : Hdr → Hdr) : (s.updHd k f).yards = s.yards := rfl
@[simp] theorem updHd_pools (s : State) (k : Nat) (f : Hdr → Hdr) : (s.updHd k f).pools = s.pools := rfl
@[simp] theorem updHd_flights (s : State) (k : Nat) (f : Hdr → Hdr) : (s.updHd k f).flights = s.flights := rfl
@[simp] theorem updHd_macs (s : State) (k : Nat) (f : Hdr → Hdr) : (s.updHd k f).macs = s.macs := rfl
@[simp] theorem updHd_serial (s : State) (k : Nat) (f : Hdr → Hdr) : (s.updHd k f).serial = s.serial := rfl
@[simp] theorem updHd_bne (s : State) (k : Nat) (f : Hdr → Hdr) : (s.updHd k f).bne = s.bne := rfl
@[simp] theorem updHd_pu (s : State) (k : Nat) (f : Hdr → Hdr) : (s.updHd k f).pu = s.pu := rfl
@[simp] theorem updHd_cleat (s : State) (k : Nat) (f : Hdr → Hdr) : (s.updHd k f).cleat = s.cleat := rfl
@[simp] theorem updHd_host (s : State) (k : Nat) (f : Hdr → Hdr) : (s.updHd k f).host = s.host := rfl
@[simp] theorem updHd_parts (s : State) (k : Nat) (f : Hdr → Hdr) : (s.updHd k f).parts = s.parts := rfl
@[simp] theorem updHd_stay (s : State) (k : Nat) (f : Hdr → Hdr) : (s.updHd k f).stay = s.stay := rfl
@[simp] theorem updHd_spring (s : State) (k : Nat) (f : Hdr → Hdr) : (s.updHd k f).spring = s.spring := rfl
@[simp] theorem updHd_art (s : State) (k : Nat) (f : Hdr → Hdr) : (s.updHd k f).art = s.art := rfl
@[simp] theorem updHd_cvus (s : State) (k : Nat) (f : Hdr → Hdr) : (s.updHd k f).cvus = s.cvus := rfl
@[simp] theorem updHd_flash (s : State) (k : Nat) (f : Hdr → Hdr) : (s.updHd k f).flash = s.flash := rfl
@[simp] theorem updHd_glob (s : State) (k : Nat) (f : Hdr → Hdr) : (s.updHd k f).glob = s.glob := rfl
@[simp] theorem updHd_tamper (s : State) (k : Nat) (f : Hdr → Hdr) : (s.updHd k f).tamper = s.tamper := rfl
@[simp] theorem updHd_witness (s : State) (k : Nat) (f : Hdr → Hdr) : (s.updHd k f).witness = s.witness := rfl
@[simp] theorem updHd_card (s : State) (k : Nat) (f : Hdr → Hdr) : (s.updHd k f).card = s.card := rfl
@[simp] theorem updHd_cust (s : State) (k : Nat) (f : Hdr → Hdr) : (s.updHd k f).cust = s.cust := rfl
@[simp] theorem updHd_pins (s : State) (k : Nat) (f : Hdr → Hdr) : (s.updHd k f).pins = s.pins := rfl
@[simp] theorem updHd_rf (s : State) (k : Nat) (f : Hdr → Hdr) : (s.updHd k f).rf = s.rf := rfl
@[simp] theorem updHd_latch (s : State) (k : Nat) (f : Hdr → Hdr) : (s.updHd k f).latch = s.latch := rfl
@[simp] theorem updHd_outbound (s : State) (k : Nat) (f : Hdr → Hdr) : (s.updHd k f).outbound = s.outbound := rfl
@[simp] theorem updHd_free (s : State) (k : Nat) (f : Hdr → Hdr) : (s.updHd k f).free = s.free := rfl
@[simp] theorem updHd_pending (s : State) (k : Nat) (f : Hdr → Hdr) : (s.updHd k f).pending = s.pending := rfl

/-! ### refuse -/

@[simp] theorem refuse_frame (s : State) (k code info : Nat) : (s.refuse k code info).frame = s.frame := rfl
@[simp] theorem refuse_rig (s : State) (k code info : Nat) : (s.refuse k code info).rig = s.rig := rfl
@[simp] theorem refuse_adm (s : State) (k code info : Nat) : (s.refuse k code info).adm = s.adm := rfl
@[simp] theorem refuse_sheaves (s : State) (k code info : Nat) : (s.refuse k code info).sheaves = s.sheaves := rfl
@[simp] theorem refuse_naris (s : State) (k code info : Nat) : (s.refuse k code info).naris = s.naris := rfl
@[simp] theorem refuse_iram (s : State) (k code info : Nat) : (s.refuse k code info).iram = s.iram := rfl
@[simp] theorem refuse_dram (s : State) (k code info : Nat) : (s.refuse k code info).dram = s.dram := rfl
@[simp] theorem refuse_ymem (s : State) (k code info : Nat) : (s.refuse k code info).ymem = s.ymem := rfl
@[simp] theorem refuse_narisRam (s : State) (k code info : Nat) : (s.refuse k code info).narisRam = s.narisRam := rfl
@[simp] theorem refuse_unitPuts (s : State) (k code info : Nat) : (s.refuse k code info).unitPuts = s.unitPuts := rfl
@[simp] theorem refuse_yards (s : State) (k code info : Nat) : (s.refuse k code info).yards = s.yards := rfl
@[simp] theorem refuse_pools (s : State) (k code info : Nat) : (s.refuse k code info).pools = s.pools := rfl
@[simp] theorem refuse_flights (s : State) (k code info : Nat) : (s.refuse k code info).flights = s.flights := rfl
@[simp] theorem refuse_macs (s : State) (k code info : Nat) : (s.refuse k code info).macs = s.macs := rfl
@[simp] theorem refuse_serial (s : State) (k code info : Nat) : (s.refuse k code info).serial = s.serial := rfl
@[simp] theorem refuse_bne (s : State) (k code info : Nat) : (s.refuse k code info).bne = s.bne := rfl
@[simp] theorem refuse_pu (s : State) (k code info : Nat) : (s.refuse k code info).pu = s.pu := rfl
@[simp] theorem refuse_cleat (s : State) (k code info : Nat) : (s.refuse k code info).cleat = s.cleat := rfl
@[simp] theorem refuse_host (s : State) (k code info : Nat) : (s.refuse k code info).host = s.host := rfl
@[simp] theorem refuse_parts (s : State) (k code info : Nat) : (s.refuse k code info).parts = s.parts := rfl
@[simp] theorem refuse_stay (s : State) (k code info : Nat) : (s.refuse k code info).stay = s.stay := rfl
@[simp] theorem refuse_spring (s : State) (k code info : Nat) : (s.refuse k code info).spring = s.spring := rfl
@[simp] theorem refuse_art (s : State) (k code info : Nat) : (s.refuse k code info).art = s.art := rfl
@[simp] theorem refuse_cvus (s : State) (k code info : Nat) : (s.refuse k code info).cvus = s.cvus := rfl
@[simp] theorem refuse_flash (s : State) (k code info : Nat) : (s.refuse k code info).flash = s.flash := rfl
@[simp] theorem refuse_glob (s : State) (k code info : Nat) : (s.refuse k code info).glob = s.glob := rfl
@[simp] theorem refuse_tamper (s : State) (k code info : Nat) : (s.refuse k code info).tamper = s.tamper := rfl
@[simp] theorem refuse_witness (s : State) (k code info : Nat) : (s.refuse k code info).witness = s.witness := rfl
@[simp] theorem refuse_card (s : State) (k code info : Nat) : (s.refuse k code info).card = s.card := rfl
@[simp] theorem refuse_cust (s : State) (k code info : Nat) : (s.refuse k code info).cust = s.cust := rfl
@[simp] theorem refuse_pins (s : State) (k code info : Nat) : (s.refuse k code info).pins = s.pins := rfl
@[simp] theorem refuse_rf (s : State) (k code info : Nat) : (s.refuse k code info).rf = s.rf := rfl
@[simp] theorem refuse_latch (s : State) (k code info : Nat) : (s.refuse k code info).latch = s.latch := rfl
@[simp] theorem refuse_outbound (s : State) (k code info : Nat) : (s.refuse k code info).outbound = s.outbound := rfl
@[simp] theorem refuse_free (s : State) (k code info : Nat) : (s.refuse k code info).free = s.free := rfl
@[simp] theorem refuse_pending (s : State) (k code info : Nat) : (s.refuse k code info).pending = s.pending := rfl

/-! ### setOn -/

@[simp] theorem setOn_frame (s : State) (k : Nat) (b : Bool) : (s.setOn k b).frame = s.frame := rfl
@[simp] theorem setOn_rig (s : State) (k : Nat) (b : Bool) : (s.setOn k b).rig = s.rig := rfl
@[simp] theorem setOn_adm (s : State) (k : Nat) (b : Bool) : (s.setOn k b).adm = s.adm := rfl
@[simp] theorem setOn_sheaves (s : State) (k : Nat) (b : Bool) : (s.setOn k b).sheaves = s.sheaves := rfl
@[simp] theorem setOn_naris (s : State) (k : Nat) (b : Bool) : (s.setOn k b).naris = s.naris := rfl
@[simp] theorem setOn_iram (s : State) (k : Nat) (b : Bool) : (s.setOn k b).iram = s.iram := rfl
@[simp] theorem setOn_dram (s : State) (k : Nat) (b : Bool) : (s.setOn k b).dram = s.dram := rfl
@[simp] theorem setOn_ymem (s : State) (k : Nat) (b : Bool) : (s.setOn k b).ymem = s.ymem := rfl
@[simp] theorem setOn_narisRam (s : State) (k : Nat) (b : Bool) : (s.setOn k b).narisRam = s.narisRam := rfl
@[simp] theorem setOn_unitPuts (s : State) (k : Nat) (b : Bool) : (s.setOn k b).unitPuts = s.unitPuts := rfl
@[simp] theorem setOn_yards (s : State) (k : Nat) (b : Bool) : (s.setOn k b).yards = s.yards := rfl
@[simp] theorem setOn_pools (s : State) (k : Nat) (b : Bool) : (s.setOn k b).pools = s.pools := rfl
@[simp] theorem setOn_flights (s : State) (k : Nat) (b : Bool) : (s.setOn k b).flights = s.flights := rfl
@[simp] theorem setOn_macs (s : State) (k : Nat) (b : Bool) : (s.setOn k b).macs = s.macs := rfl
@[simp] theorem setOn_serial (s : State) (k : Nat) (b : Bool) : (s.setOn k b).serial = s.serial := rfl
@[simp] theorem setOn_bne (s : State) (k : Nat) (b : Bool) : (s.setOn k b).bne = s.bne := rfl
@[simp] theorem setOn_pu (s : State) (k : Nat) (b : Bool) : (s.setOn k b).pu = s.pu := rfl
@[simp] theorem setOn_cleat (s : State) (k : Nat) (b : Bool) : (s.setOn k b).cleat = s.cleat := rfl
@[simp] theorem setOn_host (s : State) (k : Nat) (b : Bool) : (s.setOn k b).host = s.host := rfl
@[simp] theorem setOn_parts (s : State) (k : Nat) (b : Bool) : (s.setOn k b).parts = s.parts := rfl
@[simp] theorem setOn_stay (s : State) (k : Nat) (b : Bool) : (s.setOn k b).stay = s.stay := rfl
@[simp] theorem setOn_spring (s : State) (k : Nat) (b : Bool) : (s.setOn k b).spring = s.spring := rfl
@[simp] theorem setOn_art (s : State) (k : Nat) (b : Bool) : (s.setOn k b).art = s.art := rfl
@[simp] theorem setOn_cvus (s : State) (k : Nat) (b : Bool) : (s.setOn k b).cvus = s.cvus := rfl
@[simp] theorem setOn_flash (s : State) (k : Nat) (b : Bool) : (s.setOn k b).flash = s.flash := rfl
@[simp] theorem setOn_glob (s : State) (k : Nat) (b : Bool) : (s.setOn k b).glob = s.glob := rfl
@[simp] theorem setOn_tamper (s : State) (k : Nat) (b : Bool) : (s.setOn k b).tamper = s.tamper := rfl
@[simp] theorem setOn_witness (s : State) (k : Nat) (b : Bool) : (s.setOn k b).witness = s.witness := rfl
@[simp] theorem setOn_card (s : State) (k : Nat) (b : Bool) : (s.setOn k b).card = s.card := rfl
@[simp] theorem setOn_cust (s : State) (k : Nat) (b : Bool) : (s.setOn k b).cust = s.cust := rfl
@[simp] theorem setOn_pins (s : State) (k : Nat) (b : Bool) : (s.setOn k b).pins = s.pins := rfl
@[simp] theorem setOn_rf (s : State) (k : Nat) (b : Bool) : (s.setOn k b).rf = s.rf := rfl
@[simp] theorem setOn_latch (s : State) (k : Nat) (b : Bool) : (s.setOn k b).latch = s.latch := rfl
@[simp] theorem setOn_outbound (s : State) (k : Nat) (b : Bool) : (s.setOn k b).outbound = s.outbound := rfl
@[simp] theorem setOn_free (s : State) (k : Nat) (b : Bool) : (s.setOn k b).free = s.free := rfl
@[simp] theorem setOn_pending (s : State) (k : Nat) (b : Bool) : (s.setOn k b).pending = s.pending := rfl

/-! ### setDetail -/

@[simp] theorem setDetail_frame (s : State) (k bit : Nat) (b : Bool) : (s.setDetail k bit b).frame = s.frame := rfl
@[simp] theorem setDetail_rig (s : State) (k bit : Nat) (b : Bool) : (s.setDetail k bit b).rig = s.rig := rfl
@[simp] theorem setDetail_adm (s : State) (k bit : Nat) (b : Bool) : (s.setDetail k bit b).adm = s.adm := rfl
@[simp] theorem setDetail_sheaves (s : State) (k bit : Nat) (b : Bool) : (s.setDetail k bit b).sheaves = s.sheaves := rfl
@[simp] theorem setDetail_naris (s : State) (k bit : Nat) (b : Bool) : (s.setDetail k bit b).naris = s.naris := rfl
@[simp] theorem setDetail_iram (s : State) (k bit : Nat) (b : Bool) : (s.setDetail k bit b).iram = s.iram := rfl
@[simp] theorem setDetail_dram (s : State) (k bit : Nat) (b : Bool) : (s.setDetail k bit b).dram = s.dram := rfl
@[simp] theorem setDetail_ymem (s : State) (k bit : Nat) (b : Bool) : (s.setDetail k bit b).ymem = s.ymem := rfl
@[simp] theorem setDetail_narisRam (s : State) (k bit : Nat) (b : Bool) : (s.setDetail k bit b).narisRam = s.narisRam := rfl
@[simp] theorem setDetail_unitPuts (s : State) (k bit : Nat) (b : Bool) : (s.setDetail k bit b).unitPuts = s.unitPuts := rfl
@[simp] theorem setDetail_yards (s : State) (k bit : Nat) (b : Bool) : (s.setDetail k bit b).yards = s.yards := rfl
@[simp] theorem setDetail_pools (s : State) (k bit : Nat) (b : Bool) : (s.setDetail k bit b).pools = s.pools := rfl
@[simp] theorem setDetail_flights (s : State) (k bit : Nat) (b : Bool) : (s.setDetail k bit b).flights = s.flights := rfl
@[simp] theorem setDetail_macs (s : State) (k bit : Nat) (b : Bool) : (s.setDetail k bit b).macs = s.macs := rfl
@[simp] theorem setDetail_serial (s : State) (k bit : Nat) (b : Bool) : (s.setDetail k bit b).serial = s.serial := rfl
@[simp] theorem setDetail_bne (s : State) (k bit : Nat) (b : Bool) : (s.setDetail k bit b).bne = s.bne := rfl
@[simp] theorem setDetail_pu (s : State) (k bit : Nat) (b : Bool) : (s.setDetail k bit b).pu = s.pu := rfl
@[simp] theorem setDetail_cleat (s : State) (k bit : Nat) (b : Bool) : (s.setDetail k bit b).cleat = s.cleat := rfl
@[simp] theorem setDetail_host (s : State) (k bit : Nat) (b : Bool) : (s.setDetail k bit b).host = s.host := rfl
@[simp] theorem setDetail_parts (s : State) (k bit : Nat) (b : Bool) : (s.setDetail k bit b).parts = s.parts := rfl
@[simp] theorem setDetail_stay (s : State) (k bit : Nat) (b : Bool) : (s.setDetail k bit b).stay = s.stay := rfl
@[simp] theorem setDetail_spring (s : State) (k bit : Nat) (b : Bool) : (s.setDetail k bit b).spring = s.spring := rfl
@[simp] theorem setDetail_art (s : State) (k bit : Nat) (b : Bool) : (s.setDetail k bit b).art = s.art := rfl
@[simp] theorem setDetail_cvus (s : State) (k bit : Nat) (b : Bool) : (s.setDetail k bit b).cvus = s.cvus := rfl
@[simp] theorem setDetail_flash (s : State) (k bit : Nat) (b : Bool) : (s.setDetail k bit b).flash = s.flash := rfl
@[simp] theorem setDetail_glob (s : State) (k bit : Nat) (b : Bool) : (s.setDetail k bit b).glob = s.glob := rfl
@[simp] theorem setDetail_tamper (s : State) (k bit : Nat) (b : Bool) : (s.setDetail k bit b).tamper = s.tamper := rfl
@[simp] theorem setDetail_witness (s : State) (k bit : Nat) (b : Bool) : (s.setDetail k bit b).witness = s.witness := rfl
@[simp] theorem setDetail_card (s : State) (k bit : Nat) (b : Bool) : (s.setDetail k bit b).card = s.card := rfl
@[simp] theorem setDetail_cust (s : State) (k bit : Nat) (b : Bool) : (s.setDetail k bit b).cust = s.cust := rfl
@[simp] theorem setDetail_pins (s : State) (k bit : Nat) (b : Bool) : (s.setDetail k bit b).pins = s.pins := rfl
@[simp] theorem setDetail_rf (s : State) (k bit : Nat) (b : Bool) : (s.setDetail k bit b).rf = s.rf := rfl
@[simp] theorem setDetail_latch (s : State) (k bit : Nat) (b : Bool) : (s.setDetail k bit b).latch = s.latch := rfl
@[simp] theorem setDetail_outbound (s : State) (k bit : Nat) (b : Bool) : (s.setDetail k bit b).outbound = s.outbound := rfl
@[simp] theorem setDetail_free (s : State) (k bit : Nat) (b : Bool) : (s.setDetail k bit b).free = s.free := rfl
@[simp] theorem setDetail_pending (s : State) (k bit : Nat) (b : Bool) : (s.setDetail k bit b).pending = s.pending := rfl

/-! ### emit -/

@[simp] theorem emit_frame (s : State) (o : Out) : (s.emit o).frame = s.frame := rfl
@[simp] theorem emit_rig (s : State) (o : Out) : (s.emit o).rig = s.rig := rfl
@[simp] theorem emit_adm (s : State) (o : Out) : (s.emit o).adm = s.adm := rfl
@[simp] theorem emit_sheaves (s : State) (o : Out) : (s.emit o).sheaves = s.sheaves := rfl
@[simp] theorem emit_naris (s : State) (o : Out) : (s.emit o).naris = s.naris := rfl
@[simp] theorem emit_iram (s : State) (o : Out) : (s.emit o).iram = s.iram := rfl
@[simp] theorem emit_dram (s : State) (o : Out) : (s.emit o).dram = s.dram := rfl
@[simp] theorem emit_ymem (s : State) (o : Out) : (s.emit o).ymem = s.ymem := rfl
@[simp] theorem emit_narisRam (s : State) (o : Out) : (s.emit o).narisRam = s.narisRam := rfl
@[simp] theorem emit_unitPuts (s : State) (o : Out) : (s.emit o).unitPuts = s.unitPuts := rfl
@[simp] theorem emit_yards (s : State) (o : Out) : (s.emit o).yards = s.yards := rfl
@[simp] theorem emit_pools (s : State) (o : Out) : (s.emit o).pools = s.pools := rfl
@[simp] theorem emit_flights (s : State) (o : Out) : (s.emit o).flights = s.flights := rfl
@[simp] theorem emit_macs (s : State) (o : Out) : (s.emit o).macs = s.macs := rfl
@[simp] theorem emit_serial (s : State) (o : Out) : (s.emit o).serial = s.serial := rfl
@[simp] theorem emit_bne (s : State) (o : Out) : (s.emit o).bne = s.bne := rfl
@[simp] theorem emit_pu (s : State) (o : Out) : (s.emit o).pu = s.pu := rfl
@[simp] theorem emit_cleat (s : State) (o : Out) : (s.emit o).cleat = s.cleat := rfl
@[simp] theorem emit_host (s : State) (o : Out) : (s.emit o).host = s.host := rfl
@[simp] theorem emit_parts (s : State) (o : Out) : (s.emit o).parts = s.parts := rfl
@[simp] theorem emit_stay (s : State) (o : Out) : (s.emit o).stay = s.stay := rfl
@[simp] theorem emit_spring (s : State) (o : Out) : (s.emit o).spring = s.spring := rfl
@[simp] theorem emit_art (s : State) (o : Out) : (s.emit o).art = s.art := rfl
@[simp] theorem emit_cvus (s : State) (o : Out) : (s.emit o).cvus = s.cvus := rfl
@[simp] theorem emit_flash (s : State) (o : Out) : (s.emit o).flash = s.flash := rfl
@[simp] theorem emit_glob (s : State) (o : Out) : (s.emit o).glob = s.glob := rfl
@[simp] theorem emit_tamper (s : State) (o : Out) : (s.emit o).tamper = s.tamper := rfl
@[simp] theorem emit_witness (s : State) (o : Out) : (s.emit o).witness = s.witness := rfl
@[simp] theorem emit_card (s : State) (o : Out) : (s.emit o).card = s.card := rfl
@[simp] theorem emit_cust (s : State) (o : Out) : (s.emit o).cust = s.cust := rfl
@[simp] theorem emit_pins (s : State) (o : Out) : (s.emit o).pins = s.pins := rfl
@[simp] theorem emit_rf (s : State) (o : Out) : (s.emit o).rf = s.rf := rfl
@[simp] theorem emit_hdr (s : State) (o : Out) : (s.emit o).hdr = s.hdr := rfl
@[simp] theorem emit_latch (s : State) (o : Out) : (s.emit o).latch = s.latch := rfl
@[simp] theorem emit_free (s : State) (o : Out) : (s.emit o).free = s.free := rfl
@[simp] theorem emit_pending (s : State) (o : Out) : (s.emit o).pending = s.pending := rfl

/-! ### at' -/

@[simp] theorem at'_rig (s : State) (c : Nat) : (s.at' c).rig = s.rig := rfl
@[simp] theorem at'_adm (s : State) (c : Nat) : (s.at' c).adm = s.adm := rfl
@[simp] theorem at'_sheaves (s : State) (c : Nat) : (s.at' c).sheaves = s.sheaves := rfl
@[simp] theorem at'_naris (s : State) (c : Nat) : (s.at' c).naris = s.naris := rfl
@[simp] theorem at'_iram (s : State) (c : Nat) : (s.at' c).iram = s.iram := rfl
@[simp] theorem at'_dram (s : State) (c : Nat) : (s.at' c).dram = s.dram := rfl
@[simp] theorem at'_ymem (s : State) (c : Nat) : (s.at' c).ymem = s.ymem := rfl
@[simp] theorem at'_narisRam (s : State) (c : Nat) : (s.at' c).narisRam = s.narisRam := rfl
@[simp] theorem at'_unitPuts (s : State) (c : Nat) : (s.at' c).unitPuts = s.unitPuts := rfl
@[simp] theorem at'_yards (s : State) (c : Nat) : (s.at' c).yards = s.yards := rfl
@[simp] theorem at'_pools (s : State) (c : Nat) : (s.at' c).pools = s.pools := rfl
@[simp] theorem at'_flights (s : State) (c : Nat) : (s.at' c).flights = s.flights := rfl
@[simp] theorem at'_macs (s : State) (c : Nat) : (s.at' c).macs = s.macs := rfl
@[simp] theorem at'_serial (s : State) (c : Nat) : (s.at' c).serial = s.serial := rfl
@[simp] theorem at'_bne (s : State) (c : Nat) : (s.at' c).bne = s.bne := rfl
@[simp] theorem at'_pu (s : State) (c : Nat) : (s.at' c).pu = s.pu := rfl
@[simp] theorem at'_cleat (s : State) (c : Nat) : (s.at' c).cleat = s.cleat := rfl
@[simp] theorem at'_host (s : State) (c : Nat) : (s.at' c).host = s.host := rfl
@[simp] theorem at'_parts (s : State) (c : Nat) : (s.at' c).parts = s.parts := rfl
@[simp] theorem at'_stay (s : State) (c : Nat) : (s.at' c).stay = s.stay := rfl
@[simp] theorem at'_spring (s : State) (c : Nat) : (s.at' c).spring = s.spring := rfl
@[simp] theorem at'_art (s : State) (c : Nat) : (s.at' c).art = s.art := rfl
@[simp] theorem at'_cvus (s : State) (c : Nat) : (s.at' c).cvus = s.cvus := rfl
@[simp] theorem at'_flash (s : State) (c : Nat) : (s.at' c).flash = s.flash := rfl
@[simp] theorem at'_glob (s : State) (c : Nat) : (s.at' c).glob = s.glob := rfl
@[simp] theorem at'_tamper (s : State) (c : Nat) : (s.at' c).tamper = s.tamper := rfl
@[simp] theorem at'_witness (s : State) (c : Nat) : (s.at' c).witness = s.witness := rfl
@[simp] theorem at'_card (s : State) (c : Nat) : (s.at' c).card = s.card := rfl
@[simp] theorem at'_cust (s : State) (c : Nat) : (s.at' c).cust = s.cust := rfl
@[simp] theorem at'_pins (s : State) (c : Nat) : (s.at' c).pins = s.pins := rfl
@[simp] theorem at'_rf (s : State) (c : Nat) : (s.at' c).rf = s.rf := rfl
@[simp] theorem at'_hdr (s : State) (c : Nat) : (s.at' c).hdr = s.hdr := rfl
@[simp] theorem at'_latch (s : State) (c : Nat) : (s.at' c).latch = s.latch := rfl
@[simp] theorem at'_outbound (s : State) (c : Nat) : (s.at' c).outbound = s.outbound := rfl
@[simp] theorem at'_free (s : State) (c : Nat) : (s.at' c).free = s.free := rfl
@[simp] theorem at'_pending (s : State) (c : Nat) : (s.at' c).pending = s.pending := rfl

/-! ### draw -/

@[simp] theorem draw_frame (s : State) : (s.draw.2).frame = s.frame := rfl
@[simp] theorem draw_rig (s : State) : (s.draw.2).rig = s.rig := rfl
@[simp] theorem draw_adm (s : State) : (s.draw.2).adm = s.adm := rfl
@[simp] theorem draw_sheaves (s : State) : (s.draw.2).sheaves = s.sheaves := rfl
@[simp] theorem draw_naris (s : State) : (s.draw.2).naris = s.naris := rfl
@[simp] theorem draw_iram (s : State) : (s.draw.2).iram = s.iram := rfl
@[simp] theorem draw_dram (s : State) : (s.draw.2).dram = s.dram := rfl
@[simp] theorem draw_ymem (s : State) : (s.draw.2).ymem = s.ymem := rfl
@[simp] theorem draw_narisRam (s : State) : (s.draw.2).narisRam = s.narisRam := rfl
@[simp] theorem draw_unitPuts (s : State) : (s.draw.2).unitPuts = s.unitPuts := rfl
@[simp] theorem draw_yards (s : State) : (s.draw.2).yards = s.yards := rfl
@[simp] theorem draw_pools (s : State) : (s.draw.2).pools = s.pools := rfl
@[simp] theorem draw_flights (s : State) : (s.draw.2).flights = s.flights := rfl
@[simp] theorem draw_macs (s : State) : (s.draw.2).macs = s.macs := rfl
@[simp] theorem draw_serial (s : State) : (s.draw.2).serial = s.serial := rfl
@[simp] theorem draw_bne (s : State) : (s.draw.2).bne = s.bne := rfl
@[simp] theorem draw_pu (s : State) : (s.draw.2).pu = s.pu := rfl
@[simp] theorem draw_cleat (s : State) : (s.draw.2).cleat = s.cleat := rfl
@[simp] theorem draw_host (s : State) : (s.draw.2).host = s.host := rfl
@[simp] theorem draw_parts (s : State) : (s.draw.2).parts = s.parts := rfl
@[simp] theorem draw_stay (s : State) : (s.draw.2).stay = s.stay := rfl
@[simp] theorem draw_spring (s : State) : (s.draw.2).spring = s.spring := rfl
@[simp] theorem draw_art (s : State) : (s.draw.2).art = s.art := rfl
@[simp] theorem draw_cvus (s : State) : (s.draw.2).cvus = s.cvus := rfl
@[simp] theorem draw_flash (s : State) : (s.draw.2).flash = s.flash := rfl
@[simp] theorem draw_glob (s : State) : (s.draw.2).glob = s.glob := rfl
@[simp] theorem draw_tamper (s : State) : (s.draw.2).tamper = s.tamper := rfl
@[simp] theorem draw_witness (s : State) : (s.draw.2).witness = s.witness := rfl
@[simp] theorem draw_card (s : State) : (s.draw.2).card = s.card := rfl
@[simp] theorem draw_cust (s : State) : (s.draw.2).cust = s.cust := rfl
@[simp] theorem draw_pins (s : State) : (s.draw.2).pins = s.pins := rfl
@[simp] theorem draw_rf (s : State) : (s.draw.2).rf = s.rf := rfl
@[simp] theorem draw_hdr (s : State) : (s.draw.2).hdr = s.hdr := rfl
@[simp] theorem draw_latch (s : State) : (s.draw.2).latch = s.latch := rfl
@[simp] theorem draw_outbound (s : State) : (s.draw.2).outbound = s.outbound := rfl
@[simp] theorem draw_pending (s : State) : (s.draw.2).pending = s.pending := rfl

/-! ### setYard -/

@[simp] theorem setYard_frame (s : State) (y : Nat) (v : Yard) : (s.setYard y v).frame = s.frame := rfl
@[simp] theorem setYard_rig (s : State) (y : Nat) (v : Yard) : (s.setYard y v).rig = s.rig := rfl
@[simp] theorem setYard_adm (s : State) (y : Nat) (v : Yard) : (s.setYard y v).adm = s.adm := rfl
@[simp] theorem setYard_sheaves (s : State) (y : Nat) (v : Yard) : (s.setYard y v).sheaves = s.sheaves := rfl
@[simp] theorem setYard_naris (s : State) (y : Nat) (v : Yard) : (s.setYard y v).naris = s.naris := rfl
@[simp] theorem setYard_iram (s : State) (y : Nat) (v : Yard) : (s.setYard y v).iram = s.iram := rfl
@[simp] theorem setYard_dram (s : State) (y : Nat) (v : Yard) : (s.setYard y v).dram = s.dram := rfl
@[simp] theorem setYard_ymem (s : State) (y : Nat) (v : Yard) : (s.setYard y v).ymem = s.ymem := rfl
@[simp] theorem setYard_narisRam (s : State) (y : Nat) (v : Yard) : (s.setYard y v).narisRam = s.narisRam := rfl
@[simp] theorem setYard_unitPuts (s : State) (y : Nat) (v : Yard) : (s.setYard y v).unitPuts = s.unitPuts := rfl
@[simp] theorem setYard_pools (s : State) (y : Nat) (v : Yard) : (s.setYard y v).pools = s.pools := rfl
@[simp] theorem setYard_flights (s : State) (y : Nat) (v : Yard) : (s.setYard y v).flights = s.flights := rfl
@[simp] theorem setYard_macs (s : State) (y : Nat) (v : Yard) : (s.setYard y v).macs = s.macs := rfl
@[simp] theorem setYard_serial (s : State) (y : Nat) (v : Yard) : (s.setYard y v).serial = s.serial := rfl
@[simp] theorem setYard_bne (s : State) (y : Nat) (v : Yard) : (s.setYard y v).bne = s.bne := rfl
@[simp] theorem setYard_pu (s : State) (y : Nat) (v : Yard) : (s.setYard y v).pu = s.pu := rfl
@[simp] theorem setYard_cleat (s : State) (y : Nat) (v : Yard) : (s.setYard y v).cleat = s.cleat := rfl
@[simp] theorem setYard_host (s : State) (y : Nat) (v : Yard) : (s.setYard y v).host = s.host := rfl
@[simp] theorem setYard_parts (s : State) (y : Nat) (v : Yard) : (s.setYard y v).parts = s.parts := rfl
@[simp] theorem setYard_stay (s : State) (y : Nat) (v : Yard) : (s.setYard y v).stay = s.stay := rfl
@[simp] theorem setYard_spring (s : State) (y : Nat) (v : Yard) : (s.setYard y v).spring = s.spring := rfl
@[simp] theorem setYard_art (s : State) (y : Nat) (v : Yard) : (s.setYard y v).art = s.art := rfl
@[simp] theorem setYard_cvus (s : State) (y : Nat) (v : Yard) : (s.setYard y v).cvus = s.cvus := rfl
@[simp] theorem setYard_flash (s : State) (y : Nat) (v : Yard) : (s.setYard y v).flash = s.flash := rfl
@[simp] theorem setYard_glob (s : State) (y : Nat) (v : Yard) : (s.setYard y v).glob = s.glob := rfl
@[simp] theorem setYard_tamper (s : State) (y : Nat) (v : Yard) : (s.setYard y v).tamper = s.tamper := rfl
@[simp] theorem setYard_witness (s : State) (y : Nat) (v : Yard) : (s.setYard y v).witness = s.witness := rfl
@[simp] theorem setYard_card (s : State) (y : Nat) (v : Yard) : (s.setYard y v).card = s.card := rfl
@[simp] theorem setYard_cust (s : State) (y : Nat) (v : Yard) : (s.setYard y v).cust = s.cust := rfl
@[simp] theorem setYard_pins (s : State) (y : Nat) (v : Yard) : (s.setYard y v).pins = s.pins := rfl
@[simp] theorem setYard_rf (s : State) (y : Nat) (v : Yard) : (s.setYard y v).rf = s.rf := rfl
@[simp] theorem setYard_hdr (s : State) (y : Nat) (v : Yard) : (s.setYard y v).hdr = s.hdr := rfl
@[simp] theorem setYard_latch (s : State) (y : Nat) (v : Yard) : (s.setYard y v).latch = s.latch := rfl
@[simp] theorem setYard_outbound (s : State) (y : Nat) (v : Yard) : (s.setYard y v).outbound = s.outbound := rfl
@[simp] theorem setYard_free (s : State) (y : Nat) (v : Yard) : (s.setYard y v).free = s.free := rfl
@[simp] theorem setYard_pending (s : State) (y : Nat) (v : Yard) : (s.setYard y v).pending = s.pending := rfl

/-! ### setSheave -/

@[simp] theorem setSheave_frame (s : State) (y l : Nat) (v : Sheave) : (s.setSheave y l v).frame = s.frame := rfl
@[simp] theorem setSheave_rig (s : State) (y l : Nat) (v : Sheave) : (s.setSheave y l v).rig = s.rig := rfl
@[simp] theorem setSheave_adm (s : State) (y l : Nat) (v : Sheave) : (s.setSheave y l v).adm = s.adm := rfl
@[simp] theorem setSheave_naris (s : State) (y l : Nat) (v : Sheave) : (s.setSheave y l v).naris = s.naris := rfl
@[simp] theorem setSheave_iram (s : State) (y l : Nat) (v : Sheave) : (s.setSheave y l v).iram = s.iram := rfl
@[simp] theorem setSheave_dram (s : State) (y l : Nat) (v : Sheave) : (s.setSheave y l v).dram = s.dram := rfl
@[simp] theorem setSheave_ymem (s : State) (y l : Nat) (v : Sheave) : (s.setSheave y l v).ymem = s.ymem := rfl
@[simp] theorem setSheave_narisRam (s : State) (y l : Nat) (v : Sheave) : (s.setSheave y l v).narisRam = s.narisRam := rfl
@[simp] theorem setSheave_unitPuts (s : State) (y l : Nat) (v : Sheave) : (s.setSheave y l v).unitPuts = s.unitPuts := rfl
@[simp] theorem setSheave_yards (s : State) (y l : Nat) (v : Sheave) : (s.setSheave y l v).yards = s.yards := rfl
@[simp] theorem setSheave_pools (s : State) (y l : Nat) (v : Sheave) : (s.setSheave y l v).pools = s.pools := rfl
@[simp] theorem setSheave_flights (s : State) (y l : Nat) (v : Sheave) : (s.setSheave y l v).flights = s.flights := rfl
@[simp] theorem setSheave_macs (s : State) (y l : Nat) (v : Sheave) : (s.setSheave y l v).macs = s.macs := rfl
@[simp] theorem setSheave_serial (s : State) (y l : Nat) (v : Sheave) : (s.setSheave y l v).serial = s.serial := rfl
@[simp] theorem setSheave_bne (s : State) (y l : Nat) (v : Sheave) : (s.setSheave y l v).bne = s.bne := rfl
@[simp] theorem setSheave_pu (s : State) (y l : Nat) (v : Sheave) : (s.setSheave y l v).pu = s.pu := rfl
@[simp] theorem setSheave_cleat (s : State) (y l : Nat) (v : Sheave) : (s.setSheave y l v).cleat = s.cleat := rfl
@[simp] theorem setSheave_host (s : State) (y l : Nat) (v : Sheave) : (s.setSheave y l v).host = s.host := rfl
@[simp] theorem setSheave_parts (s : State) (y l : Nat) (v : Sheave) : (s.setSheave y l v).parts = s.parts := rfl
@[simp] theorem setSheave_stay (s : State) (y l : Nat) (v : Sheave) : (s.setSheave y l v).stay = s.stay := rfl
@[simp] theorem setSheave_spring (s : State) (y l : Nat) (v : Sheave) : (s.setSheave y l v).spring = s.spring := rfl
@[simp] theorem setSheave_art (s : State) (y l : Nat) (v : Sheave) : (s.setSheave y l v).art = s.art := rfl
@[simp] theorem setSheave_cvus (s : State) (y l : Nat) (v : Sheave) : (s.setSheave y l v).cvus = s.cvus := rfl
@[simp] theorem setSheave_flash (s : State) (y l : Nat) (v : Sheave) : (s.setSheave y l v).flash = s.flash := rfl
@[simp] theorem setSheave_glob (s : State) (y l : Nat) (v : Sheave) : (s.setSheave y l v).glob = s.glob := rfl
@[simp] theorem setSheave_tamper (s : State) (y l : Nat) (v : Sheave) : (s.setSheave y l v).tamper = s.tamper := rfl
@[simp] theorem setSheave_witness (s : State) (y l : Nat) (v : Sheave) : (s.setSheave y l v).witness = s.witness := rfl
@[simp] theorem setSheave_card (s : State) (y l : Nat) (v : Sheave) : (s.setSheave y l v).card = s.card := rfl
@[simp] theorem setSheave_cust (s : State) (y l : Nat) (v : Sheave) : (s.setSheave y l v).cust = s.cust := rfl
@[simp] theorem setSheave_pins (s : State) (y l : Nat) (v : Sheave) : (s.setSheave y l v).pins = s.pins := rfl
@[simp] theorem setSheave_rf (s : State) (y l : Nat) (v : Sheave) : (s.setSheave y l v).rf = s.rf := rfl
@[simp] theorem setSheave_hdr (s : State) (y l : Nat) (v : Sheave) : (s.setSheave y l v).hdr = s.hdr := rfl
@[simp] theorem setSheave_latch (s : State) (y l : Nat) (v : Sheave) : (s.setSheave y l v).latch = s.latch := rfl
@[simp] theorem setSheave_outbound (s : State) (y l : Nat) (v : Sheave) : (s.setSheave y l v).outbound = s.outbound := rfl
@[simp] theorem setSheave_free (s : State) (y l : Nat) (v : Sheave) : (s.setSheave y l v).free = s.free := rfl
@[simp] theorem setSheave_pending (s : State) (y l : Nat) (v : Sheave) : (s.setSheave y l v).pending = s.pending := rfl

/-! ### setPool -/

@[simp] theorem setPool_frame (s : State) (k : Nat) (p : Pool) : (s.setPool k p).frame = s.frame := rfl
@[simp] theorem setPool_rig (s : State) (k : Nat) (p : Pool) : (s.setPool k p).rig = s.rig := rfl
@[simp] theorem setPool_adm (s : State) (k : Nat) (p : Pool) : (s.setPool k p).adm = s.adm := rfl
@[simp] theorem setPool_sheaves (s : State) (k : Nat) (p : Pool) : (s.setPool k p).sheaves = s.sheaves := rfl
@[simp] theorem setPool_naris (s : State) (k : Nat) (p : Pool) : (s.setPool k p).naris = s.naris := rfl
@[simp] theorem setPool_iram (s : State) (k : Nat) (p : Pool) : (s.setPool k p).iram = s.iram := rfl
@[simp] theorem setPool_dram (s : State) (k : Nat) (p : Pool) : (s.setPool k p).dram = s.dram := rfl
@[simp] theorem setPool_ymem (s : State) (k : Nat) (p : Pool) : (s.setPool k p).ymem = s.ymem := rfl
@[simp] theorem setPool_narisRam (s : State) (k : Nat) (p : Pool) : (s.setPool k p).narisRam = s.narisRam := rfl
@[simp] theorem setPool_unitPuts (s : State) (k : Nat) (p : Pool) : (s.setPool k p).unitPuts = s.unitPuts := rfl
@[simp] theorem setPool_yards (s : State) (k : Nat) (p : Pool) : (s.setPool k p).yards = s.yards := rfl
@[simp] theorem setPool_flights (s : State) (k : Nat) (p : Pool) : (s.setPool k p).flights = s.flights := rfl
@[simp] theorem setPool_macs (s : State) (k : Nat) (p : Pool) : (s.setPool k p).macs = s.macs := rfl
@[simp] theorem setPool_serial (s : State) (k : Nat) (p : Pool) : (s.setPool k p).serial = s.serial := rfl
@[simp] theorem setPool_bne (s : State) (k : Nat) (p : Pool) : (s.setPool k p).bne = s.bne := rfl
@[simp] theorem setPool_pu (s : State) (k : Nat) (p : Pool) : (s.setPool k p).pu = s.pu := rfl
@[simp] theorem setPool_cleat (s : State) (k : Nat) (p : Pool) : (s.setPool k p).cleat = s.cleat := rfl
@[simp] theorem setPool_host (s : State) (k : Nat) (p : Pool) : (s.setPool k p).host = s.host := rfl
@[simp] theorem setPool_parts (s : State) (k : Nat) (p : Pool) : (s.setPool k p).parts = s.parts := rfl
@[simp] theorem setPool_stay (s : State) (k : Nat) (p : Pool) : (s.setPool k p).stay = s.stay := rfl
@[simp] theorem setPool_spring (s : State) (k : Nat) (p : Pool) : (s.setPool k p).spring = s.spring := rfl
@[simp] theorem setPool_art (s : State) (k : Nat) (p : Pool) : (s.setPool k p).art = s.art := rfl
@[simp] theorem setPool_cvus (s : State) (k : Nat) (p : Pool) : (s.setPool k p).cvus = s.cvus := rfl
@[simp] theorem setPool_flash (s : State) (k : Nat) (p : Pool) : (s.setPool k p).flash = s.flash := rfl
@[simp] theorem setPool_glob (s : State) (k : Nat) (p : Pool) : (s.setPool k p).glob = s.glob := rfl
@[simp] theorem setPool_tamper (s : State) (k : Nat) (p : Pool) : (s.setPool k p).tamper = s.tamper := rfl
@[simp] theorem setPool_witness (s : State) (k : Nat) (p : Pool) : (s.setPool k p).witness = s.witness := rfl
@[simp] theorem setPool_card (s : State) (k : Nat) (p : Pool) : (s.setPool k p).card = s.card := rfl
@[simp] theorem setPool_cust (s : State) (k : Nat) (p : Pool) : (s.setPool k p).cust = s.cust := rfl
@[simp] theorem setPool_pins (s : State) (k : Nat) (p : Pool) : (s.setPool k p).pins = s.pins := rfl
@[simp] theorem setPool_rf (s : State) (k : Nat) (p : Pool) : (s.setPool k p).rf = s.rf := rfl
@[simp] theorem setPool_hdr (s : State) (k : Nat) (p : Pool) : (s.setPool k p).hdr = s.hdr := rfl
@[simp] theorem setPool_latch (s : State) (k : Nat) (p : Pool) : (s.setPool k p).latch = s.latch := rfl
@[simp] theorem setPool_outbound (s : State) (k : Nat) (p : Pool) : (s.setPool k p).outbound = s.outbound := rfl
@[simp] theorem setPool_free (s : State) (k : Nat) (p : Pool) : (s.setPool k p).free = s.free := rfl
@[simp] theorem setPool_pending (s : State) (k : Nat) (p : Pool) : (s.setPool k p).pending = s.pending := rfl

/-! ### ymemWrite -/

@[simp] theorem ymemWrite_frame (s : State) (y a : Nat) (bs : List Byte) : (s.ymemWrite y a bs).frame = s.frame := rfl
@[simp] theorem ymemWrite_rig (s : State) (y a : Nat) (bs : List Byte) : (s.ymemWrite y a bs).rig = s.rig := rfl
@[simp] theorem ymemWrite_adm (s : State) (y a : Nat) (bs : List Byte) : (s.ymemWrite y a bs).adm = s.adm := rfl
@[simp] theorem ymemWrite_sheaves (s : State) (y a : Nat) (bs : List Byte) : (s.ymemWrite y a bs).sheaves = s.sheaves := rfl
@[simp] theorem ymemWrite_naris (s : State) (y a : Nat) (bs : List Byte) : (s.ymemWrite y a bs).naris = s.naris := rfl
@[simp] theorem ymemWrite_iram (s : State) (y a : Nat) (bs : List Byte) : (s.ymemWrite y a bs).iram = s.iram := rfl
@[simp] theorem ymemWrite_dram (s : State) (y a : Nat) (bs : List Byte) : (s.ymemWrite y a bs).dram = s.dram := rfl
@[simp] theorem ymemWrite_narisRam (s : State) (y a : Nat) (bs : List Byte) : (s.ymemWrite y a bs).narisRam = s.narisRam := rfl
@[simp] theorem ymemWrite_unitPuts (s : State) (y a : Nat) (bs : List Byte) : (s.ymemWrite y a bs).unitPuts = s.unitPuts := rfl
@[simp] theorem ymemWrite_yards (s : State) (y a : Nat) (bs : List Byte) : (s.ymemWrite y a bs).yards = s.yards := rfl
@[simp] theorem ymemWrite_pools (s : State) (y a : Nat) (bs : List Byte) : (s.ymemWrite y a bs).pools = s.pools := rfl
@[simp] theorem ymemWrite_flights (s : State) (y a : Nat) (bs : List Byte) : (s.ymemWrite y a bs).flights = s.flights := rfl
@[simp] theorem ymemWrite_macs (s : State) (y a : Nat) (bs : List Byte) : (s.ymemWrite y a bs).macs = s.macs := rfl
@[simp] theorem ymemWrite_serial (s : State) (y a : Nat) (bs : List Byte) : (s.ymemWrite y a bs).serial = s.serial := rfl
@[simp] theorem ymemWrite_bne (s : State) (y a : Nat) (bs : List Byte) : (s.ymemWrite y a bs).bne = s.bne := rfl
@[simp] theorem ymemWrite_pu (s : State) (y a : Nat) (bs : List Byte) : (s.ymemWrite y a bs).pu = s.pu := rfl
@[simp] theorem ymemWrite_cleat (s : State) (y a : Nat) (bs : List Byte) : (s.ymemWrite y a bs).cleat = s.cleat := rfl
@[simp] theorem ymemWrite_host (s : State) (y a : Nat) (bs : List Byte) : (s.ymemWrite y a bs).host = s.host := rfl
@[simp] theorem ymemWrite_parts (s : State) (y a : Nat) (bs : List Byte) : (s.ymemWrite y a bs).parts = s.parts := rfl
@[simp] theorem ymemWrite_stay (s : State) (y a : Nat) (bs : List Byte) : (s.ymemWrite y a bs).stay = s.stay := rfl
@[simp] theorem ymemWrite_spring (s : State) (y a : Nat) (bs : List Byte) : (s.ymemWrite y a bs).spring = s.spring := rfl
@[simp] theorem ymemWrite_art (s : State) (y a : Nat) (bs : List Byte) : (s.ymemWrite y a bs).art = s.art := rfl
@[simp] theorem ymemWrite_cvus (s : State) (y a : Nat) (bs : List Byte) : (s.ymemWrite y a bs).cvus = s.cvus := rfl
@[simp] theorem ymemWrite_flash (s : State) (y a : Nat) (bs : List Byte) : (s.ymemWrite y a bs).flash = s.flash := rfl
@[simp] theorem ymemWrite_glob (s : State) (y a : Nat) (bs : List Byte) : (s.ymemWrite y a bs).glob = s.glob := rfl
@[simp] theorem ymemWrite_tamper (s : State) (y a : Nat) (bs : List Byte) : (s.ymemWrite y a bs).tamper = s.tamper := rfl
@[simp] theorem ymemWrite_witness (s : State) (y a : Nat) (bs : List Byte) : (s.ymemWrite y a bs).witness = s.witness := rfl
@[simp] theorem ymemWrite_card (s : State) (y a : Nat) (bs : List Byte) : (s.ymemWrite y a bs).card = s.card := rfl
@[simp] theorem ymemWrite_cust (s : State) (y a : Nat) (bs : List Byte) : (s.ymemWrite y a bs).cust = s.cust := rfl
@[simp] theorem ymemWrite_pins (s : State) (y a : Nat) (bs : List Byte) : (s.ymemWrite y a bs).pins = s.pins := rfl
@[simp] theorem ymemWrite_rf (s : State) (y a : Nat) (bs : List Byte) : (s.ymemWrite y a bs).rf = s.rf := rfl
@[simp] theorem ymemWrite_hdr (s : State) (y a : Nat) (bs : List Byte) : (s.ymemWrite y a bs).hdr = s.hdr := rfl
@[simp] theorem ymemWrite_latch (s : State) (y a : Nat) (bs : List Byte) : (s.ymemWrite y a bs).latch = s.latch := rfl
@[simp] theorem ymemWrite_outbound (s : State) (y a : Nat) (bs : List Byte) : (s.ymemWrite y a bs).outbound = s.outbound := rfl
@[simp] theorem ymemWrite_free (s : State) (y a : Nat) (bs : List Byte) : (s.ymemWrite y a bs).free = s.free := rfl
@[simp] theorem ymemWrite_pending (s : State) (y a : Nat) (bs : List Byte) : (s.ymemWrite y a bs).pending = s.pending := rfl

/-! ### updItem -/

@[simp] theorem updItem_frame (s : State) (id : Nat) (f : Item → Item) : (s.updItem id f).frame = s.frame := rfl
@[simp] theorem updItem_rig (s : State) (id : Nat) (f : Item → Item) : (s.updItem id f).rig = s.rig := rfl
@[simp] theorem updItem_sheaves (s : State) (id : Nat) (f : Item → Item) : (s.updItem id f).sheaves = s.sheaves := rfl
@[simp] theorem updItem_naris (s : State) (id : Nat) (f : Item → Item) : (s.updItem id f).naris = s.naris := rfl
@[simp] theorem updItem_iram (s : State) (id : Nat) (f : Item → Item) : (s.updItem id f).iram = s.iram := rfl
@[simp] theorem updItem_dram (s : State) (id : Nat) (f : Item → Item) : (s.updItem id f).dram = s.dram := rfl
@[simp] theorem updItem_ymem (s : State) (id : Nat) (f : Item → Item) : (s.updItem id f).ymem = s.ymem := rfl
@[simp] theorem updItem_narisRam (s : State) (id : Nat) (f : Item → Item) : (s.updItem id f).narisRam = s.narisRam := rfl
@[simp] theorem updItem_unitPuts (s : State) (id : Nat) (f : Item → Item) : (s.updItem id f).unitPuts = s.unitPuts := rfl
@[simp] theorem updItem_yards (s : State) (id : Nat) (f : Item → Item) : (s.updItem id f).yards = s.yards := rfl
@[simp] theorem updItem_pools (s : State) (id : Nat) (f : Item → Item) : (s.updItem id f).pools = s.pools := rfl
@[simp] theorem updItem_flights (s : State) (id : Nat) (f : Item → Item) : (s.updItem id f).flights = s.flights := rfl
@[simp] theorem updItem_macs (s : State) (id : Nat) (f : Item → Item) : (s.updItem id f).macs = s.macs := rfl
@[simp] theorem updItem_serial (s : State) (id : Nat) (f : Item → Item) : (s.updItem id f).serial = s.serial := rfl
@[simp] theorem updItem_bne (s : State) (id : Nat) (f : Item → Item) : (s.updItem id f).bne = s.bne := rfl
@[simp] theorem updItem_pu (s : State) (id : Nat) (f : Item → Item) : (s.updItem id f).pu = s.pu := rfl
@[simp] theorem updItem_cleat (s : State) (id : Nat) (f : Item → Item) : (s.updItem id f).cleat = s.cleat := rfl
@[simp] theorem updItem_host (s : State) (id : Nat) (f : Item → Item) : (s.updItem id f).host = s.host := rfl
@[simp] theorem updItem_parts (s : State) (id : Nat) (f : Item → Item) : (s.updItem id f).parts = s.parts := rfl
@[simp] theorem updItem_stay (s : State) (id : Nat) (f : Item → Item) : (s.updItem id f).stay = s.stay := rfl
@[simp] theorem updItem_spring (s : State) (id : Nat) (f : Item → Item) : (s.updItem id f).spring = s.spring := rfl
@[simp] theorem updItem_art (s : State) (id : Nat) (f : Item → Item) : (s.updItem id f).art = s.art := rfl
@[simp] theorem updItem_cvus (s : State) (id : Nat) (f : Item → Item) : (s.updItem id f).cvus = s.cvus := rfl
@[simp] theorem updItem_flash (s : State) (id : Nat) (f : Item → Item) : (s.updItem id f).flash = s.flash := rfl
@[simp] theorem updItem_glob (s : State) (id : Nat) (f : Item → Item) : (s.updItem id f).glob = s.glob := rfl
@[simp] theorem updItem_tamper (s : State) (id : Nat) (f : Item → Item) : (s.updItem id f).tamper = s.tamper := rfl
@[simp] theorem updItem_witness (s : State) (id : Nat) (f : Item → Item) : (s.updItem id f).witness = s.witness := rfl
@[simp] theorem updItem_card (s : State) (id : Nat) (f : Item → Item) : (s.updItem id f).card = s.card := rfl
@[simp] theorem updItem_cust (s : State) (id : Nat) (f : Item → Item) : (s.updItem id f).cust = s.cust := rfl
@[simp] theorem updItem_pins (s : State) (id : Nat) (f : Item → Item) : (s.updItem id f).pins = s.pins := rfl
@[simp] theorem updItem_rf (s : State) (id : Nat) (f : Item → Item) : (s.updItem id f).rf = s.rf := rfl
@[simp] theorem updItem_hdr (s : State) (id : Nat) (f : Item → Item) : (s.updItem id f).hdr = s.hdr := rfl
@[simp] theorem updItem_latch (s : State) (id : Nat) (f : Item → Item) : (s.updItem id f).latch = s.latch := rfl
@[simp] theorem updItem_outbound (s : State) (id : Nat) (f : Item → Item) : (s.updItem id f).outbound = s.outbound := rfl
@[simp] theorem updItem_free (s : State) (id : Nat) (f : Item → Item) : (s.updItem id f).free = s.free := rfl
@[simp] theorem updItem_pending (s : State) (id : Nat) (f : Item → Item) : (s.updItem id f).pending = s.pending := rfl

/-! ### setPart -/

@[simp] theorem setPart_frame (s : State) (p : Nat) (v : Part) : (s.setPart p v).frame = s.frame := rfl
@[simp] theorem setPart_rig (s : State) (p : Nat) (v : Part) : (s.setPart p v).rig = s.rig := rfl
@[simp] theorem setPart_adm (s : State) (p : Nat) (v : Part) : (s.setPart p v).adm = s.adm := rfl
@[simp] theorem setPart_sheaves (s : State) (p : Nat) (v : Part) : (s.setPart p v).sheaves = s.sheaves := rfl
@[simp] theorem setPart_naris (s : State) (p : Nat) (v : Part) : (s.setPart p v).naris = s.naris := rfl
@[simp] theorem setPart_iram (s : State) (p : Nat) (v : Part) : (s.setPart p v).iram = s.iram := rfl
@[simp] theorem setPart_dram (s : State) (p : Nat) (v : Part) : (s.setPart p v).dram = s.dram := rfl
@[simp] theorem setPart_ymem (s : State) (p : Nat) (v : Part) : (s.setPart p v).ymem = s.ymem := rfl
@[simp] theorem setPart_narisRam (s : State) (p : Nat) (v : Part) : (s.setPart p v).narisRam = s.narisRam := rfl
@[simp] theorem setPart_unitPuts (s : State) (p : Nat) (v : Part) : (s.setPart p v).unitPuts = s.unitPuts := rfl
@[simp] theorem setPart_yards (s : State) (p : Nat) (v : Part) : (s.setPart p v).yards = s.yards := rfl
@[simp] theorem setPart_pools (s : State) (p : Nat) (v : Part) : (s.setPart p v).pools = s.pools := rfl
@[simp] theorem setPart_flights (s : State) (p : Nat) (v : Part) : (s.setPart p v).flights = s.flights := rfl
@[simp] theorem setPart_macs (s : State) (p : Nat) (v : Part) : (s.setPart p v).macs = s.macs := rfl
@[simp] theorem setPart_serial (s : State) (p : Nat) (v : Part) : (s.setPart p v).serial = s.serial := rfl
@[simp] theorem setPart_bne (s : State) (p : Nat) (v : Part) : (s.setPart p v).bne = s.bne := rfl
@[simp] theorem setPart_pu (s : State) (p : Nat) (v : Part) : (s.setPart p v).pu = s.pu := rfl
@[simp] theorem setPart_cleat (s : State) (p : Nat) (v : Part) : (s.setPart p v).cleat = s.cleat := rfl
@[simp] theorem setPart_host (s : State) (p : Nat) (v : Part) : (s.setPart p v).host = s.host := rfl
@[simp] theorem setPart_stay (s : State) (p : Nat) (v : Part) : (s.setPart p v).stay = s.stay := rfl
@[simp] theorem setPart_spring (s : State) (p : Nat) (v : Part) : (s.setPart p v).spring = s.spring := rfl
@[simp] theorem setPart_art (s : State) (p : Nat) (v : Part) : (s.setPart p v).art = s.art := rfl
@[simp] theorem setPart_cvus (s : State) (p : Nat) (v : Part) : (s.setPart p v).cvus = s.cvus := rfl
@[simp] theorem setPart_flash (s : State) (p : Nat) (v : Part) : (s.setPart p v).flash = s.flash := rfl
@[simp] theorem setPart_glob (s : State) (p : Nat) (v : Part) : (s.setPart p v).glob = s.glob := rfl
@[simp] theorem setPart_tamper (s : State) (p : Nat) (v : Part) : (s.setPart p v).tamper = s.tamper := rfl
@[simp] theorem setPart_witness (s : State) (p : Nat) (v : Part) : (s.setPart p v).witness = s.witness := rfl
@[simp] theorem setPart_card (s : State) (p : Nat) (v : Part) : (s.setPart p v).card = s.card := rfl
@[simp] theorem setPart_cust (s : State) (p : Nat) (v : Part) : (s.setPart p v).cust = s.cust := rfl
@[simp] theorem setPart_pins (s : State) (p : Nat) (v : Part) : (s.setPart p v).pins = s.pins := rfl
@[simp] theorem setPart_rf (s : State) (p : Nat) (v : Part) : (s.setPart p v).rf = s.rf := rfl
@[simp] theorem setPart_hdr (s : State) (p : Nat) (v : Part) : (s.setPart p v).hdr = s.hdr := rfl
@[simp] theorem setPart_latch (s : State) (p : Nat) (v : Part) : (s.setPart p v).latch = s.latch := rfl
@[simp] theorem setPart_outbound (s : State) (p : Nat) (v : Part) : (s.setPart p v).outbound = s.outbound := rfl
@[simp] theorem setPart_free (s : State) (p : Nat) (v : Part) : (s.setPart p v).free = s.free := rfl
@[simp] theorem setPart_pending (s : State) (p : Nat) (v : Part) : (s.setPart p v).pending = s.pending := rfl

/-! ### setRing -/

@[simp] theorem setRing_frame (s : State) (r : Nat) (v : Ring) : (s.setRing r v).frame = s.frame := rfl
@[simp] theorem setRing_rig (s : State) (r : Nat) (v : Ring) : (s.setRing r v).rig = s.rig := rfl
@[simp] theorem setRing_adm (s : State) (r : Nat) (v : Ring) : (s.setRing r v).adm = s.adm := rfl
@[simp] theorem setRing_sheaves (s : State) (r : Nat) (v : Ring) : (s.setRing r v).sheaves = s.sheaves := rfl
@[simp] theorem setRing_naris (s : State) (r : Nat) (v : Ring) : (s.setRing r v).naris = s.naris := rfl
@[simp] theorem setRing_iram (s : State) (r : Nat) (v : Ring) : (s.setRing r v).iram = s.iram := rfl
@[simp] theorem setRing_dram (s : State) (r : Nat) (v : Ring) : (s.setRing r v).dram = s.dram := rfl
@[simp] theorem setRing_ymem (s : State) (r : Nat) (v : Ring) : (s.setRing r v).ymem = s.ymem := rfl
@[simp] theorem setRing_narisRam (s : State) (r : Nat) (v : Ring) : (s.setRing r v).narisRam = s.narisRam := rfl
@[simp] theorem setRing_unitPuts (s : State) (r : Nat) (v : Ring) : (s.setRing r v).unitPuts = s.unitPuts := rfl
@[simp] theorem setRing_yards (s : State) (r : Nat) (v : Ring) : (s.setRing r v).yards = s.yards := rfl
@[simp] theorem setRing_pools (s : State) (r : Nat) (v : Ring) : (s.setRing r v).pools = s.pools := rfl
@[simp] theorem setRing_flights (s : State) (r : Nat) (v : Ring) : (s.setRing r v).flights = s.flights := rfl
@[simp] theorem setRing_macs (s : State) (r : Nat) (v : Ring) : (s.setRing r v).macs = s.macs := rfl
@[simp] theorem setRing_serial (s : State) (r : Nat) (v : Ring) : (s.setRing r v).serial = s.serial := rfl
@[simp] theorem setRing_bne (s : State) (r : Nat) (v : Ring) : (s.setRing r v).bne = s.bne := rfl
@[simp] theorem setRing_pu (s : State) (r : Nat) (v : Ring) : (s.setRing r v).pu = s.pu := rfl
@[simp] theorem setRing_cleat (s : State) (r : Nat) (v : Ring) : (s.setRing r v).cleat = s.cleat := rfl
@[simp] theorem setRing_parts (s : State) (r : Nat) (v : Ring) : (s.setRing r v).parts = s.parts := rfl
@[simp] theorem setRing_stay (s : State) (r : Nat) (v : Ring) : (s.setRing r v).stay = s.stay := rfl
@[simp] theorem setRing_spring (s : State) (r : Nat) (v : Ring) : (s.setRing r v).spring = s.spring := rfl
@[simp] theorem setRing_art (s : State) (r : Nat) (v : Ring) : (s.setRing r v).art = s.art := rfl
@[simp] theorem setRing_cvus (s : State) (r : Nat) (v : Ring) : (s.setRing r v).cvus = s.cvus := rfl
@[simp] theorem setRing_flash (s : State) (r : Nat) (v : Ring) : (s.setRing r v).flash = s.flash := rfl
@[simp] theorem setRing_glob (s : State) (r : Nat) (v : Ring) : (s.setRing r v).glob = s.glob := rfl
@[simp] theorem setRing_tamper (s : State) (r : Nat) (v : Ring) : (s.setRing r v).tamper = s.tamper := rfl
@[simp] theorem setRing_witness (s : State) (r : Nat) (v : Ring) : (s.setRing r v).witness = s.witness := rfl
@[simp] theorem setRing_card (s : State) (r : Nat) (v : Ring) : (s.setRing r v).card = s.card := rfl
@[simp] theorem setRing_cust (s : State) (r : Nat) (v : Ring) : (s.setRing r v).cust = s.cust := rfl
@[simp] theorem setRing_pins (s : State) (r : Nat) (v : Ring) : (s.setRing r v).pins = s.pins := rfl
@[simp] theorem setRing_rf (s : State) (r : Nat) (v : Ring) : (s.setRing r v).rf = s.rf := rfl
@[simp] theorem setRing_hdr (s : State) (r : Nat) (v : Ring) : (s.setRing r v).hdr = s.hdr := rfl
@[simp] theorem setRing_latch (s : State) (r : Nat) (v : Ring) : (s.setRing r v).latch = s.latch := rfl
@[simp] theorem setRing_outbound (s : State) (r : Nat) (v : Ring) : (s.setRing r v).outbound = s.outbound := rfl
@[simp] theorem setRing_free (s : State) (r : Nat) (v : Ring) : (s.setRing r v).free = s.free := rfl
@[simp] theorem setRing_pending (s : State) (r : Nat) (v : Ring) : (s.setRing r v).pending = s.pending := rfl

/-! ### sendMsix -/

@[simp] theorem sendMsix_frame (s : State) (v : Nat) : (s.sendMsix v).frame = s.frame := by
  unfold State.sendMsix; dsimp only; split
  · rfl
  · split <;> rfl
@[simp] theorem sendMsix_rig (s : State) (v : Nat) : (s.sendMsix v).rig = s.rig := by
  unfold State.sendMsix; dsimp only; split
  · rfl
  · split <;> rfl
@[simp] theorem sendMsix_adm (s : State) (v : Nat) : (s.sendMsix v).adm = s.adm := by
  unfold State.sendMsix; dsimp only; split
  · rfl
  · split <;> rfl
@[simp] theorem sendMsix_sheaves (s : State) (v : Nat) : (s.sendMsix v).sheaves = s.sheaves := by
  unfold State.sendMsix; dsimp only; split
  · rfl
  · split <;> rfl
@[simp] theorem sendMsix_naris (s : State) (v : Nat) : (s.sendMsix v).naris = s.naris := by
  unfold State.sendMsix; dsimp only; split
  · rfl
  · split <;> rfl
@[simp] theorem sendMsix_iram (s : State) (v : Nat) : (s.sendMsix v).iram = s.iram := by
  unfold State.sendMsix; dsimp only; split
  · rfl
  · split <;> rfl
@[simp] theorem sendMsix_dram (s : State) (v : Nat) : (s.sendMsix v).dram = s.dram := by
  unfold State.sendMsix; dsimp only; split
  · rfl
  · split <;> rfl
@[simp] theorem sendMsix_ymem (s : State) (v : Nat) : (s.sendMsix v).ymem = s.ymem := by
  unfold State.sendMsix; dsimp only; split
  · rfl
  · split <;> rfl
@[simp] theorem sendMsix_narisRam (s : State) (v : Nat) : (s.sendMsix v).narisRam = s.narisRam := by
  unfold State.sendMsix; dsimp only; split
  · rfl
  · split <;> rfl
@[simp] theorem sendMsix_unitPuts (s : State) (v : Nat) : (s.sendMsix v).unitPuts = s.unitPuts := by
  unfold State.sendMsix; dsimp only; split
  · rfl
  · split <;> rfl
@[simp] theorem sendMsix_yards (s : State) (v : Nat) : (s.sendMsix v).yards = s.yards := by
  unfold State.sendMsix; dsimp only; split
  · rfl
  · split <;> rfl
@[simp] theorem sendMsix_pools (s : State) (v : Nat) : (s.sendMsix v).pools = s.pools := by
  unfold State.sendMsix; dsimp only; split
  · rfl
  · split <;> rfl
@[simp] theorem sendMsix_flights (s : State) (v : Nat) : (s.sendMsix v).flights = s.flights := by
  unfold State.sendMsix; dsimp only; split
  · rfl
  · split <;> rfl
@[simp] theorem sendMsix_macs (s : State) (v : Nat) : (s.sendMsix v).macs = s.macs := by
  unfold State.sendMsix; dsimp only; split
  · rfl
  · split <;> rfl
@[simp] theorem sendMsix_serial (s : State) (v : Nat) : (s.sendMsix v).serial = s.serial := by
  unfold State.sendMsix; dsimp only; split
  · rfl
  · split <;> rfl
@[simp] theorem sendMsix_bne (s : State) (v : Nat) : (s.sendMsix v).bne = s.bne := by
  unfold State.sendMsix; dsimp only; split
  · rfl
  · split <;> rfl
@[simp] theorem sendMsix_pu (s : State) (v : Nat) : (s.sendMsix v).pu = s.pu := by
  unfold State.sendMsix; dsimp only; split
  · rfl
  · split <;> rfl
@[simp] theorem sendMsix_cleat (s : State) (v : Nat) : (s.sendMsix v).cleat = s.cleat := by
  unfold State.sendMsix; dsimp only; split
  · rfl
  · split <;> rfl
@[simp] theorem sendMsix_parts (s : State) (v : Nat) : (s.sendMsix v).parts = s.parts := by
  unfold State.sendMsix; dsimp only; split
  · rfl
  · split <;> rfl
@[simp] theorem sendMsix_stay (s : State) (v : Nat) : (s.sendMsix v).stay = s.stay := by
  unfold State.sendMsix; dsimp only; split
  · rfl
  · split <;> rfl
@[simp] theorem sendMsix_spring (s : State) (v : Nat) : (s.sendMsix v).spring = s.spring := by
  unfold State.sendMsix; dsimp only; split
  · rfl
  · split <;> rfl
@[simp] theorem sendMsix_art (s : State) (v : Nat) : (s.sendMsix v).art = s.art := by
  unfold State.sendMsix; dsimp only; split
  · rfl
  · split <;> rfl
@[simp] theorem sendMsix_cvus (s : State) (v : Nat) : (s.sendMsix v).cvus = s.cvus := by
  unfold State.sendMsix; dsimp only; split
  · rfl
  · split <;> rfl
@[simp] theorem sendMsix_flash (s : State) (v : Nat) : (s.sendMsix v).flash = s.flash := by
  unfold State.sendMsix; dsimp only; split
  · rfl
  · split <;> rfl
@[simp] theorem sendMsix_glob (s : State) (v : Nat) : (s.sendMsix v).glob = s.glob := by
  unfold State.sendMsix; dsimp only; split
  · rfl
  · split <;> rfl
@[simp] theorem sendMsix_tamper (s : State) (v : Nat) : (s.sendMsix v).tamper = s.tamper := by
  unfold State.sendMsix; dsimp only; split
  · rfl
  · split <;> rfl
@[simp] theorem sendMsix_witness (s : State) (v : Nat) : (s.sendMsix v).witness = s.witness := by
  unfold State.sendMsix; dsimp only; split
  · rfl
  · split <;> rfl
@[simp] theorem sendMsix_card (s : State) (v : Nat) : (s.sendMsix v).card = s.card := by
  unfold State.sendMsix; dsimp only; split
  · rfl
  · split <;> rfl
@[simp] theorem sendMsix_cust (s : State) (v : Nat) : (s.sendMsix v).cust = s.cust := by
  unfold State.sendMsix; dsimp only; split
  · rfl
  · split <;> rfl
@[simp] theorem sendMsix_pins (s : State) (v : Nat) : (s.sendMsix v).pins = s.pins := by
  unfold State.sendMsix; dsimp only; split
  · rfl
  · split <;> rfl
@[simp] theorem sendMsix_hdr (s : State) (v : Nat) : (s.sendMsix v).hdr = s.hdr := by
  unfold State.sendMsix; dsimp only; split
  · rfl
  · split <;> rfl
@[simp] theorem sendMsix_latch (s : State) (v : Nat) : (s.sendMsix v).latch = s.latch := by
  unfold State.sendMsix; dsimp only; split
  · rfl
  · split <;> rfl
@[simp] theorem sendMsix_free (s : State) (v : Nat) : (s.sendMsix v).free = s.free := by
  unfold State.sendMsix; dsimp only; split
  · rfl
  · split <;> rfl
@[simp] theorem sendMsix_pending (s : State) (v : Nat) : (s.sendMsix v).pending = s.pending := by
  unfold State.sendMsix; dsimp only; split
  · rfl
  · split <;> rfl

/-! ### mgrMsg -/

@[simp] theorem mgrMsg_frame (s : State) : (s.mgrMsg).frame = s.frame := sendMsix_frame s _
@[simp] theorem mgrMsg_rig (s : State) : (s.mgrMsg).rig = s.rig := sendMsix_rig s _
@[simp] theorem mgrMsg_adm (s : State) : (s.mgrMsg).adm = s.adm := sendMsix_adm s _
@[simp] theorem mgrMsg_sheaves (s : State) : (s.mgrMsg).sheaves = s.sheaves := sendMsix_sheaves s _
@[simp] theorem mgrMsg_naris (s : State) : (s.mgrMsg).naris = s.naris := sendMsix_naris s _
@[simp] theorem mgrMsg_iram (s : State) : (s.mgrMsg).iram = s.iram := sendMsix_iram s _
@[simp] theorem mgrMsg_dram (s : State) : (s.mgrMsg).dram = s.dram := sendMsix_dram s _
@[simp] theorem mgrMsg_ymem (s : State) : (s.mgrMsg).ymem = s.ymem := sendMsix_ymem s _
@[simp] theorem mgrMsg_narisRam (s : State) : (s.mgrMsg).narisRam = s.narisRam := sendMsix_narisRam s _
@[simp] theorem mgrMsg_unitPuts (s : State) : (s.mgrMsg).unitPuts = s.unitPuts := sendMsix_unitPuts s _
@[simp] theorem mgrMsg_yards (s : State) : (s.mgrMsg).yards = s.yards := sendMsix_yards s _
@[simp] theorem mgrMsg_pools (s : State) : (s.mgrMsg).pools = s.pools := sendMsix_pools s _
@[simp] theorem mgrMsg_flights (s : State) : (s.mgrMsg).flights = s.flights := sendMsix_flights s _
@[simp] theorem mgrMsg_macs (s : State) : (s.mgrMsg).macs = s.macs := sendMsix_macs s _
@[simp] theorem mgrMsg_serial (s : State) : (s.mgrMsg).serial = s.serial := sendMsix_serial s _
@[simp] theorem mgrMsg_bne (s : State) : (s.mgrMsg).bne = s.bne := sendMsix_bne s _
@[simp] theorem mgrMsg_pu (s : State) : (s.mgrMsg).pu = s.pu := sendMsix_pu s _
@[simp] theorem mgrMsg_cleat (s : State) : (s.mgrMsg).cleat = s.cleat := sendMsix_cleat s _
@[simp] theorem mgrMsg_parts (s : State) : (s.mgrMsg).parts = s.parts := sendMsix_parts s _
@[simp] theorem mgrMsg_stay (s : State) : (s.mgrMsg).stay = s.stay := sendMsix_stay s _
@[simp] theorem mgrMsg_spring (s : State) : (s.mgrMsg).spring = s.spring := sendMsix_spring s _
@[simp] theorem mgrMsg_art (s : State) : (s.mgrMsg).art = s.art := sendMsix_art s _
@[simp] theorem mgrMsg_cvus (s : State) : (s.mgrMsg).cvus = s.cvus := sendMsix_cvus s _
@[simp] theorem mgrMsg_flash (s : State) : (s.mgrMsg).flash = s.flash := sendMsix_flash s _
@[simp] theorem mgrMsg_glob (s : State) : (s.mgrMsg).glob = s.glob := sendMsix_glob s _
@[simp] theorem mgrMsg_tamper (s : State) : (s.mgrMsg).tamper = s.tamper := sendMsix_tamper s _
@[simp] theorem mgrMsg_witness (s : State) : (s.mgrMsg).witness = s.witness := sendMsix_witness s _
@[simp] theorem mgrMsg_card (s : State) : (s.mgrMsg).card = s.card := sendMsix_card s _
@[simp] theorem mgrMsg_cust (s : State) : (s.mgrMsg).cust = s.cust := sendMsix_cust s _
@[simp] theorem mgrMsg_pins (s : State) : (s.mgrMsg).pins = s.pins := sendMsix_pins s _
@[simp] theorem mgrMsg_hdr (s : State) : (s.mgrMsg).hdr = s.hdr := sendMsix_hdr s _
@[simp] theorem mgrMsg_latch (s : State) : (s.mgrMsg).latch = s.latch := sendMsix_latch s _
@[simp] theorem mgrMsg_free (s : State) : (s.mgrMsg).free = s.free := sendMsix_free s _
@[simp] theorem mgrMsg_pending (s : State) : (s.mgrMsg).pending = s.pending := sendMsix_pending s _

/-! ### raise -/

@[simp] theorem raise_frame (s : State) (k bit : Nat) : (s.raise k bit).frame = s.frame := by
  unfold State.raise; dsimp only; split
  · rfl
  · split
    · exact mgrMsg_frame _
    · rfl
@[simp] theorem raise_rig (s : State) (k bit : Nat) : (s.raise k bit).rig = s.rig := by
  unfold State.raise; dsimp only; split
  · rfl
  · split
    · exact mgrMsg_rig _
    · rfl
@[simp] theorem raise_adm (s : State) (k bit : Nat) : (s.raise k bit).adm = s.adm := by
  unfold State.raise; dsimp only; split
  · rfl
  · split
    · exact mgrMsg_adm _
    · rfl
@[simp] theorem raise_sheaves (s : State) (k bit : Nat) : (s.raise k bit).sheaves = s.sheaves := by
  unfold State.raise; dsimp only; split
  · rfl
  · split
    · exact mgrMsg_sheaves _
    · rfl
@[simp] theorem raise_naris (s : State) (k bit : Nat) : (s.raise k bit).naris = s.naris := by
  unfold State.raise; dsimp only; split
  · rfl
  · split
    · exact mgrMsg_naris _
    · rfl
@[simp] theorem raise_iram (s : State) (k bit : Nat) : (s.raise k bit).iram = s.iram := by
  unfold State.raise; dsimp only; split
  · rfl
  · split
    · exact mgrMsg_iram _
    · rfl
@[simp] theorem raise_dram (s : State) (k bit : Nat) : (s.raise k bit).dram = s.dram := by
  unfold State.raise; dsimp only; split
  · rfl
  · split
    · exact mgrMsg_dram _
    · rfl
@[simp] theorem raise_ymem (s : State) (k bit : Nat) : (s.raise k bit).ymem = s.ymem := by
  unfold State.raise; dsimp only; split
  · rfl
  · split
    · exact mgrMsg_ymem _
    · rfl
@[simp] theorem raise_narisRam (s : State) (k bit : Nat) : (s.raise k bit).narisRam = s.narisRam := by
  unfold State.raise; dsimp only; split
  · rfl
  · split
    · exact mgrMsg_narisRam _
    · rfl
@[simp] theorem raise_unitPuts (s : State) (k bit : Nat) : (s.raise k bit).unitPuts = s.unitPuts := by
  unfold State.raise; dsimp only; split
  · rfl
  · split
    · exact mgrMsg_unitPuts _
    · rfl
@[simp] theorem raise_yards (s : State) (k bit : Nat) : (s.raise k bit).yards = s.yards := by
  unfold State.raise; dsimp only; split
  · rfl
  · split
    · exact mgrMsg_yards _
    · rfl
@[simp] theorem raise_pools (s : State) (k bit : Nat) : (s.raise k bit).pools = s.pools := by
  unfold State.raise; dsimp only; split
  · rfl
  · split
    · exact mgrMsg_pools _
    · rfl
@[simp] theorem raise_flights (s : State) (k bit : Nat) : (s.raise k bit).flights = s.flights := by
  unfold State.raise; dsimp only; split
  · rfl
  · split
    · exact mgrMsg_flights _
    · rfl
@[simp] theorem raise_macs (s : State) (k bit : Nat) : (s.raise k bit).macs = s.macs := by
  unfold State.raise; dsimp only; split
  · rfl
  · split
    · exact mgrMsg_macs _
    · rfl
@[simp] theorem raise_serial (s : State) (k bit : Nat) : (s.raise k bit).serial = s.serial := by
  unfold State.raise; dsimp only; split
  · rfl
  · split
    · exact mgrMsg_serial _
    · rfl
@[simp] theorem raise_bne (s : State) (k bit : Nat) : (s.raise k bit).bne = s.bne := by
  unfold State.raise; dsimp only; split
  · rfl
  · split
    · exact mgrMsg_bne _
    · rfl
@[simp] theorem raise_pu (s : State) (k bit : Nat) : (s.raise k bit).pu = s.pu := by
  unfold State.raise; dsimp only; split
  · rfl
  · split
    · exact mgrMsg_pu _
    · rfl
@[simp] theorem raise_cleat (s : State) (k bit : Nat) : (s.raise k bit).cleat = s.cleat := by
  unfold State.raise; dsimp only; split
  · rfl
  · split
    · exact mgrMsg_cleat _
    · rfl
@[simp] theorem raise_parts (s : State) (k bit : Nat) : (s.raise k bit).parts = s.parts := by
  unfold State.raise; dsimp only; split
  · rfl
  · split
    · exact mgrMsg_parts _
    · rfl
@[simp] theorem raise_stay (s : State) (k bit : Nat) : (s.raise k bit).stay = s.stay := by
  unfold State.raise; dsimp only; split
  · rfl
  · split
    · exact mgrMsg_stay _
    · rfl
@[simp] theorem raise_spring (s : State) (k bit : Nat) : (s.raise k bit).spring = s.spring := by
  unfold State.raise; dsimp only; split
  · rfl
  · split
    · exact mgrMsg_spring _
    · rfl
@[simp] theorem raise_art (s : State) (k bit : Nat) : (s.raise k bit).art = s.art := by
  unfold State.raise; dsimp only; split
  · rfl
  · split
    · exact mgrMsg_art _
    · rfl
@[simp] theorem raise_cvus (s : State) (k bit : Nat) : (s.raise k bit).cvus = s.cvus := by
  unfold State.raise; dsimp only; split
  · rfl
  · split
    · exact mgrMsg_cvus _
    · rfl
@[simp] theorem raise_flash (s : State) (k bit : Nat) : (s.raise k bit).flash = s.flash := by
  unfold State.raise; dsimp only; split
  · rfl
  · split
    · exact mgrMsg_flash _
    · rfl
@[simp] theorem raise_glob (s : State) (k bit : Nat) : (s.raise k bit).glob = s.glob := by
  unfold State.raise; dsimp only; split
  · rfl
  · split
    · exact mgrMsg_glob _
    · rfl
@[simp] theorem raise_tamper (s : State) (k bit : Nat) : (s.raise k bit).tamper = s.tamper := by
  unfold State.raise; dsimp only; split
  · rfl
  · split
    · exact mgrMsg_tamper _
    · rfl
@[simp] theorem raise_witness (s : State) (k bit : Nat) : (s.raise k bit).witness = s.witness := by
  unfold State.raise; dsimp only; split
  · rfl
  · split
    · exact mgrMsg_witness _
    · rfl
@[simp] theorem raise_card (s : State) (k bit : Nat) : (s.raise k bit).card = s.card := by
  unfold State.raise; dsimp only; split
  · rfl
  · split
    · exact mgrMsg_card _
    · rfl
@[simp] theorem raise_cust (s : State) (k bit : Nat) : (s.raise k bit).cust = s.cust := by
  unfold State.raise; dsimp only; split
  · rfl
  · split
    · exact mgrMsg_cust _
    · rfl
@[simp] theorem raise_pins (s : State) (k bit : Nat) : (s.raise k bit).pins = s.pins := by
  unfold State.raise; dsimp only; split
  · rfl
  · split
    · exact mgrMsg_pins _
    · rfl
@[simp] theorem raise_latch (s : State) (k bit : Nat) : (s.raise k bit).latch = s.latch := by
  unfold State.raise; dsimp only; split
  · rfl
  · split
    · exact mgrMsg_latch _
    · rfl
@[simp] theorem raise_free (s : State) (k bit : Nat) : (s.raise k bit).free = s.free := by
  unfold State.raise; dsimp only; split
  · rfl
  · split
    · exact mgrMsg_free _
    · rfl
@[simp] theorem raise_pending (s : State) (k bit : Nat) : (s.raise k bit).pending = s.pending := by
  unfold State.raise; dsimp only; split
  · rfl
  · split
    · exact mgrMsg_pending _
    · rfl

end Sys2Proof.Laws
end

