-- ==== Sys2Proof/Laws/Ops.lean ====
section
/-!
SUPPORT. What the shared operations do, each said once: a read after a write of a register field, a header, a yard, a
Sheave, a pool, a partition, a ring or an item; what a refusal and a raised interrupt leave.
-/
set_option autoImplicit false

namespace Sys2Proof.Laws

open Sys2Proof Sys2Proof.Machine

/-! ### Register fields -/

@[simp] theorem reg_setReg_self (s : State) (F : Field) (v : Nat) : (s.setReg F v).reg F = v % 2 ^ F.width := by
  simp [State.reg, State.setReg, Nat.xor_assoc]

theorem reg_setReg (s : State) (F G : Field) (v : Nat) :
    (s.setReg F v).reg G = if G.key = F.key then (v % 2 ^ F.width ^^^ F.reset) ^^^ G.reset else s.reg G := by
  simp only [State.reg, State.setReg, get_put]
  split <;> rfl

theorem reg_setReg_ne (s : State) (F G : Field) (v : Nat) (h : G.key ≠ F.key) : (s.setReg F v).reg G = s.reg G := by
  simp [reg_setReg, h]

theorem reg_congr (s t : State) (F : Field) (h : t.rf = s.rf) : t.reg F = s.reg F := by simp [State.reg, h]

@[simp] theorem reg_setHd (s : State) (k : Nat) (h : Hdr) (F : Field) : (s.setHd k h).reg F = s.reg F := rfl
@[simp] theorem reg_updHd (s : State) (k : Nat) (f : Hdr → Hdr) (F : Field) : (s.updHd k f).reg F = s.reg F := rfl
@[simp] theorem reg_refuse (s : State) (k c i : Nat) (F : Field) : (s.refuse k c i).reg F = s.reg F := rfl
@[simp] theorem reg_setDetail (s : State) (k b : Nat) (v : Bool) (F : Field) : (s.setDetail k b v).reg F = s.reg F := rfl
@[simp] theorem reg_emit (s : State) (o : Out) (F : Field) : (s.emit o).reg F = s.reg F := rfl
@[simp] theorem reg_setYard (s : State) (y : Nat) (v : Yard) (F : Field) : (s.setYard y v).reg F = s.reg F := rfl
@[simp] theorem reg_setSheave (s : State) (y l : Nat) (v : Sheave) (F : Field) : (s.setSheave y l v).reg F = s.reg F := rfl
@[simp] theorem reg_setPool (s : State) (k : Nat) (p : Pool) (F : Field) : (s.setPool k p).reg F = s.reg F := rfl
@[simp] theorem reg_setPart (s : State) (p : Nat) (v : Part) (F : Field) : (s.setPart p v).reg F = s.reg F := rfl
@[simp] theorem reg_setRing (s : State) (r : Nat) (v : Ring) (F : Field) : (s.setRing r v).reg F = s.reg F := rfl

/-- A counter counts, and wraps at its width. -/
theorem reg_inc_self (s : State) (F : Field) : (s.inc F).reg F = (s.reg F + 1) % 2 ^ F.width := by simp [State.inc]

/-- A saturating counter stays at its greatest value. -/
theorem reg_sat_self (s : State) (F : Field) (h : s.reg F = 2 ^ F.width - 1) : (s.sat F).reg F = s.reg F := by
  have := Nat.two_pow_pos F.width
  simp only [State.sat, reg_setReg_self, h]
  rw [Nat.min_eq_left (by omega)]
  exact Nat.mod_eq_of_lt (by omega)

/-! ### Headers -/

@[simp] theorem hd_setHd_self (s : State) (k : Nat) (h : Hdr) : (s.setHd k h).hd k = h := by simp [State.hd, State.setHd]

theorem hd_setHd_ne (s : State) (k j : Nat) (h : Hdr) (n : j ≠ k) : (s.setHd k h).hd j = s.hd j := by
  simp [State.hd, State.setHd, get_put, n]

@[simp] theorem hd_setReg (s : State) (F : Field) (v k : Nat) : (s.setReg F v).hd k = s.hd k := rfl

/-- A refusal sets ERR_CODE and ERR_INFO of its page and nothing else of the header (R577). -/
theorem hd_refuse (s : State) (k c i j : Nat) :
    (s.refuse k c i).hd j = if j = k then { s.hd k with errCode := c % 256, errInfo := i % 2 ^ 32 } else s.hd j := by
  by_cases h : j = k
  · subst h; simp [State.refuse, State.updHd]
  · simp [State.refuse, State.updHd, hd_setHd_ne, h]

/-- A refusal changes headers only. -/
theorem refuse_eq (s : State) (k c i : Nat) : s.refuse k c i = { s with hdr := (s.refuse k c i).hdr } := rfl

/-! ### Tables of the state -/

@[simp] theorem yard_setYard_self (s : State) (y : Nat) (v : Yard) : (s.setYard y v).yard y = v := by simp [State.yard, State.setYard]

theorem yard_setYard_ne (s : State) (y z : Nat) (v : Yard) (h : z ≠ y) : (s.setYard y v).yard z = s.yard z := by
  simp [State.yard, State.setYard, get_put, h]

@[simp] theorem pool_setPool_self (s : State) (k : Nat) (p : Pool) : (s.setPool k p).pool k = p := by simp [State.pool, State.setPool]

theorem pool_setPool_ne (s : State) (k j : Nat) (p : Pool) (h : j ≠ k) : (s.setPool k p).pool j = s.pool j := by
  simp [State.pool, State.setPool, get_put, h]

@[simp] theorem part_setPart_self (s : State) (p : Nat) (v : Part) : (s.setPart p v).part p = v := by simp [State.part, State.setPart]

theorem part_setPart_ne (s : State) (p q : Nat) (v : Part) (h : q ≠ p) : (s.setPart p v).part q = s.part q := by
  simp [State.part, State.setPart, get_put, h]

@[simp] theorem ring_setRing_self (s : State) (r : Nat) (v : Ring) : (s.setRing r v).ring r = v := by simp [State.ring, State.setRing]

theorem ring_setRing_ne (s : State) (r q : Nat) (v : Ring) (h : q ≠ r) : (s.setRing r v).ring q = s.ring q := by
  simp [State.ring, State.setRing, get_put, h]

@[simp] theorem sheave_setSheave_self (s : State) (y l : Nat) (v : Sheave) : (s.setSheave y l v).sheave y l = v := by
  simp [State.sheave, State.setSheave]

theorem sheave_setSheave_ne (s : State) (y l z m : Nat) (v : Sheave) (hl : l < 16) (hm : m < 16) (h : z ≠ y ∨ m ≠ l) :
    (s.setSheave y l v).sheave z m = s.sheave z m := by
  have : shKey z m ≠ shKey y l := by
    simp only [shKey]
    omega
  simp [State.sheave, State.setSheave, get_put, this]

/-- A changed item is found under its number. -/
theorem item_updItem (s : State) (id : Nat) (f : Item → Item) (hf : ∀ i, (f i).id = i.id) : (s.updItem id f).item id = (s.item id).map f := by
  simp only [State.item, State.updItem]
  induction s.adm.items with
  | nil => rfl
  | cons i is ih =>
    by_cases h : i.id = id
    · simp [h, hf]
    · simp [h, ih]

/-! ### Yard memory -/

theorem get_putBytes (m : SMap Byte) (a k : Nat) (bs : List Byte) :
    SMap.get 0 (SMap.putBytes m a bs) k = if h : a ≤ k ∧ k < a + bs.length then bs[k - a]'(by omega) else SMap.get 0 m k := by
  induction bs generalizing m a with
  | nil =>
    have : ¬ (a ≤ k ∧ k < a + ([] : List Byte).length) := by simp only [List.length_nil]; omega
    rw [dif_neg this]
    rfl
  | cons b bs ih =>
    simp only [SMap.putBytes, ih, get_put, List.length_cons]
    by_cases h1 : a + 1 ≤ k ∧ k < a + 1 + bs.length
    · have h2 : a ≤ k ∧ k < a + (bs.length + 1) := by omega
      have h3 : k - a = (k - (a + 1)) + 1 := by omega
      rw [dif_pos h1, dif_pos h2]
      simp [h3]
    · by_cases h4 : k = a
      · subst h4
        have h5 : k ≤ k ∧ k < k + (bs.length + 1) := by omega
        rw [dif_neg h1, if_pos rfl, dif_pos h5]
        simp
      · have h2 : ¬ (a ≤ k ∧ k < a + (bs.length + 1)) := by omega
        rw [dif_neg h1, if_neg h4, dif_neg h2]

/-- What was written is read back. -/
theorem ymemRead_ymemWrite_self (s : State) (y a : Nat) (bs : List Byte) : (s.ymemWrite y a bs).ymemRead y a bs.length = bs := by
  apply List.ext_getElem
  · simp [State.ymemRead, SMap.bytes]
  · intro i h1 h2
    simp only [State.ymemRead, State.ymemWrite, SMap.bytes, List.getElem_map, List.getElem_range]
    rw [get_putBytes]
    have h : y * 0x40000 + a ≤ y * 0x40000 + a + i ∧ y * 0x40000 + a + i < y * 0x40000 + a + bs.length := by omega
    rw [dif_pos h]
    congr 1
    omega

/-- A write of yard memory leaves every byte outside it. -/
theorem ymem_ymemWrite_ne (s : State) (y a k : Nat) (bs : List Byte) (h : k < y * 0x40000 + a ∨ y * 0x40000 + a + bs.length ≤ k) :
    SMap.get 0 (s.ymemWrite y a bs).ymem k = SMap.get 0 s.ymem k := by
  simp only [State.ymemWrite]
  rw [get_putBytes, dif_neg (by omega)]

/-! ### Interrupts (R353, R575) -/

/-- A bit that is set stays set, and a raise sets its bit. -/
theorem raise_hd (s : State) (k bit j : Nat) :
    (s.raise k bit).hd j = if j = k ∧ bitOf (s.hd k).intStat bit = false then { s.hd k with intStat := orBit (s.hd k).intStat bit } else s.hd j := by
  have hm : ∀ t : State, t.mgrMsg.hd j = t.hd j := by
    intro t
    simp [State.hd]
  unfold State.raise
  dsimp only
  by_cases hb : bitOf (s.hd k).intStat bit = true
  · simp [hb]
  · have hb' : bitOf (s.hd k).intStat bit = false := by simpa using hb
    by_cases hj : j = k
    · subst hj
      simp only [hb', Bool.false_eq_true, if_false, and_self, if_true]
      split
      · rw [hm, hd_setHd_self]
      · rw [hd_setHd_self]
    · simp only [hb', Bool.false_eq_true, if_false, hj, false_and]
      split
      · rw [hm, hd_setHd_ne _ _ _ _ hj]
      · rw [hd_setHd_ne _ _ _ _ hj]

/-- A message of a vector is sent, or its pending bit set, and nothing else. -/
theorem sendMsix_cases (s : State) (v : Nat) :
    (∃ m, s.sendMsix v = { s with host := { s.host with msix := m } })
    ∨ ∃ x, s.sendMsix v = (s.inc Reg.HOSTIF.MSI_CNT).emit x := by
  unfold State.sendMsix
  dsimp only
  split
  · exact Or.inl ⟨s.host.msix, rfl⟩
  · split
    · exact Or.inl ⟨_, rfl⟩
    · exact Or.inr ⟨_, rfl⟩

end Sys2Proof.Laws
end

