-- ==== Sys2Proof/Laws/Access.lean ====
section
/-!
SUPPORT. What the operations behind accesses, draws and interrupts do, each said once: what a permitted access, a serving rill and a free flash
bank give, and what a new configuration of the endpoint changes.
-/
set_option autoImplicit false

namespace Sys2Proof.Laws

open Sys2Proof Sys2Proof.Machine

/-! ### Interrupts -/

/-- A message of a vector changes the pending bit of a vector, a count and what has been sent, and nothing else. -/
theorem sendMsix_changes (s : State) (v : Nat) : ∃ m r o,
    s.sendMsix v = { s with host := { s.host with msix := m }, rf := r, outbound := o } := by
  rcases sendMsix_cases s v with ⟨m, h⟩ | ⟨x, h⟩
  · exact ⟨m, s.rf, s.outbound, h⟩
  · exact ⟨s.host.msix, _, _, h⟩

/-- A raised interrupt changes headers and what its message changes, and nothing else. -/
theorem raise_changes (s : State) (k bit : Nat) : ∃ h m r o,
    s.raise k bit = { s with hdr := h, host := { s.host with msix := m }, rf := r, outbound := o } := by
  unfold State.raise
  dsimp only
  split
  · exact ⟨s.hdr, s.host.msix, s.rf, s.outbound, rfl⟩
  · split
    · obtain ⟨m, r, o, h⟩ := sendMsix_changes (s.setHd k { s.hd k with intStat := orBit (s.hd k).intStat bit })
        ((s.setHd k { s.hd k with intStat := orBit (s.hd k).intStat bit }).reg Reg.HOSTIF.MGR_VECTOR)
      exact ⟨_, m, r, o, h⟩
    · exact ⟨_, s.host.msix, s.rf, s.outbound, rfl⟩

/-! ### Draws of rills -/

@[simp] theorem draw_eq (s : State) : s.draw = (s.free, { s with free := s.free + 1 }) := rfl

/-- A rill that serves gives the next draw. -/
theorem rillDraw_serves (s : State) (r c : Nat) (h : s.rillServes r = true) :
    s.rillDraw r c = (some s.free, State.rillCalls { s with free := s.free + 1 } r c) := by
  simp [State.rillDraw, h]

/-- A rill that refuses gives nothing, and the refusal counts. -/
theorem rillDraw_refuses (s : State) (r c : Nat) (h : s.rillServes r = false) : s.rillDraw r c = (none, s.rillRefused r) := by
  simp [State.rillDraw, h]

/-! ### Access rules -/

/-- A permitted access changes nothing. -/
theorem netAccess_ok (s : State) (i : Nat) (p : Option Nat) (imp : Bool) (k : AccKind) (a n : Nat) (h : s.artOk i p k a n = true) :
    s.netAccess i p imp k a n = (true, s) := by
  simp [State.netAccess, h]

/-- An access answers what the rules permit. -/
@[simp] theorem netAccess_fst (s : State) (i : Nat) (p : Option Nat) (imp : Bool) (k : AccKind) (a n : Nat) :
    (s.netAccess i p imp k a n).1 = s.artOk i p k a n := by
  unfold State.netAccess
  split <;> simp_all

/-! ### Banks of the flash -/

/-- With no operation running, no bank is taken. -/
theorem bankTaken_free (s : State) (a : Nat) (h : s.flash.op = none) : s.bankTaken a = false := by simp [State.bankTaken, h]

theorem vaultTaken_free (s : State) (h : s.flash.op = none) : s.vaultTaken = false := by simp [State.vaultTaken, bankTaken_free s _ h]

/-! ### The endpoint's configuration -/

/-- A new configuration changes the host's part and the register file, and nothing else. -/
theorem setCfg_frame (s : State) (c : PcieCfg) (b : PcieBars) :
    s.setCfg c b = { s with host := { s.host with cfg := c, bars := b }, rf := (s.setCfg c b).rf } := rfl

end Sys2Proof.Laws
end

