-- ==== Sys2Proof/Laws/Bytes.lean ====
section
/-!
SUPPORT. Lengths of byte strings, and what little-endian fields hold.
-/
set_option autoImplicit false

namespace Sys2Proof.Laws

open Sys2Proof Sys2Proof.Machine

@[simp] theorem leBytes_length (n v : Nat) : (leBytes n v).length = n := by simp [leBytes]

@[simp] theorem beBytes_length (n v : Nat) : (beBytes n v).length = n := by simp [beBytes]

@[simp] theorem fitBytes_length (n : Nat) (bs : List Byte) : (fitBytes n bs).length = n := by
  simp only [fitBytes, List.length_take, List.length_append, List.length_replicate]
  omega

theorem fitBytes_getD (n : Nat) (bs : List Byte) (k : Nat) (h : k < n) : (fitBytes n bs).getD k 0 = bs.getD k 0 := by
  by_cases hk : k < bs.length
  · simp [fitBytes, List.getD, h, List.getElem?_append_left hk]
  · have hk' : bs.length ≤ k := by omega
    have hr : k - bs.length < n - bs.length := by omega
    simp [fitBytes, List.getD, h, List.getElem?_append_right hk', List.getElem?_eq_none hk', hr]

@[simp] theorem xorBytes_length (a b : List Byte) : (xorBytes a b).length = min a.length b.length := by simp [xorBytes]

@[simp] theorem leNat_nil : leNat [] = 0 := rfl

theorem leNat_lt (bs : List Byte) : leNat bs < 256 ^ bs.length := by
  induction bs with
  | nil => simp [leNat]
  | cons b bs ih =>
    have := b.isLt
    simp only [leNat, List.length_cons, Nat.pow_succ]
    omega

@[simp] theorem ghashStep_length (h y b : List Byte) : (ghashStep h y b).length = 16 := by simp [ghashStep]

@[simp] theorem ghash_length (h a c : List Byte) : (ghash h a c).length = 16 := by simp [ghash]

theorem gcmTag_length_le (key iv aad ct : List Byte) : (gcmTag key iv aad ct).length ≤ 16 := by
  simp only [gcmTag, xorBytes_length, ghash_length]
  omega

end Sys2Proof.Laws
end

