-- ==== Sys2Proof/Laws/Memory.lean ====
section
/-!
SUPPORT. Every operation over the memories keeps their canonical form (Memory.wf).
-/
set_option autoImplicit false

namespace Sys2Proof.Laws

open Sys2Proof Sys2Proof.Machine

theorem wf_reset : Memory.wf State.reset = true := by decide

theorem wf_iff (s : State) : Memory.wf s = true ↔
    SMap.wf 0 s.ymem = true ∧ SMap.wf 0 s.iram = true ∧ SMap.wf 0 s.dram = true ∧ SMap.wf 0 s.narisRam = true
    ∧ SMap.wf 0 s.witness.mem = true ∧ SMap.wf 0 s.cust.win = true ∧ SMap.wf 0xFF s.flash.mem = true ∧ SMap.wf 0 s.rf = true := by
  simp only [Memory.wf, Bool.and_eq_true]
  constructor
  · rintro ⟨⟨⟨⟨⟨⟨⟨a, b⟩, c⟩, d⟩, e⟩, f⟩, g⟩, h⟩
    exact ⟨a, b, c, d, e, f, g, h⟩
  · rintro ⟨a, b, c, d, e, f, g, h⟩
    exact ⟨⟨⟨⟨⟨⟨⟨a, b⟩, c⟩, d⟩, e⟩, f⟩, g⟩, h⟩

/-- States with the same memories are canonical together. -/
theorem wf_congr (s t : State) (h1 : t.ymem = s.ymem) (h2 : t.iram = s.iram) (h3 : t.dram = s.dram) (h4 : t.narisRam = s.narisRam)
    (h5 : t.witness.mem = s.witness.mem) (h6 : t.cust.win = s.cust.win) (h7 : t.flash.mem = s.flash.mem) (h8 : t.rf = s.rf) :
    Memory.wf t = Memory.wf s := by
  simp only [Memory.wf, h1, h2, h3, h4, h5, h6, h7, h8]

@[simp] theorem wf_setReg (s : State) (F : Field) (v : Nat) (h : Memory.wf s = true) : Memory.wf (s.setReg F v) = true := by
  rw [wf_iff] at *
  obtain ⟨a, b, c, d, e, f, g, r⟩ := h
  exact ⟨a, b, c, d, e, f, g, wf_put 0 _ _ _ r⟩

@[simp] theorem wf_ymemWrite (s : State) (y a : Nat) (bs : List Byte) (h : Memory.wf s = true) : Memory.wf (s.ymemWrite y a bs) = true := by
  rw [wf_iff] at *
  obtain ⟨x, b, c, d, e, f, g, r⟩ := h
  exact ⟨wf_putBytes _ _ _ x, b, c, d, e, f, g, r⟩

@[simp] theorem wf_memPut (s : State) (y l : Nat) (r : Region) (a : Nat) (bs : List Byte) (h : Memory.wf s = true) : Memory.wf (s.memPut y l r a bs) = true := by
  unfold State.memPut
  split
  · rw [wf_iff] at *
    obtain ⟨x, b, c, d, e, f, g, r⟩ := h
    exact ⟨x, b, wf_putBytes _ _ _ c, d, e, f, g, r⟩
  · exact wf_ymemWrite _ _ _ _ h

@[simp] theorem wf_witWrite (s : State) (a : Nat) (bs : List Byte) (h : Memory.wf s = true) : Memory.wf (s.witWrite a bs) = true := by
  rw [wf_iff] at *
  obtain ⟨x, b, c, d, e, f, g, r⟩ := h
  exact ⟨x, b, c, d, wf_putBytes _ _ _ e, f, g, r⟩

@[simp] theorem wf_cerPut (s : State) (bs : List Byte) (h : Memory.wf s = true) : Memory.wf (s.cerPut bs) = true := by
  unfold State.cerPut
  apply wf_setReg
  rw [wf_iff] at *
  obtain ⟨x, b, c, d, e, f, g, r⟩ := h
  exact ⟨x, b, c, d, e, wf_putBytes _ _ _ f, g, r⟩

@[simp] theorem wf_setBit (s : State) (F : Field) (b : Bool) (h : Memory.wf s = true) : Memory.wf (s.setBit F b) = true := wf_setReg _ _ _ h

@[simp] theorem wf_setDetail (s : State) (k n : Nat) (b : Bool) (h : Memory.wf s = true) : Memory.wf (s.setDetail k n b) = true := h

@[simp] theorem wf_sendMsix (s : State) (v : Nat) (h : Memory.wf s = true) : Memory.wf (s.sendMsix v) = true := by
  obtain ⟨m, e⟩ | ⟨x, e⟩ := sendMsix_cases s v
  · rw [e]; exact h
  · rw [e]; exact wf_setReg s _ _ h

@[simp] theorem wf_raise (s : State) (k n : Nat) (h : Memory.wf s = true) : Memory.wf (s.raise k n) = true := by
  unfold State.raise
  dsimp only
  split
  · exact h
  · split
    · unfold State.mgrMsg
      exact wf_sendMsix _ _ h
    · exact h

@[simp] theorem wf_cleatCmdLost (s : State) (h : Memory.wf s = true) : Memory.wf s.cleatCmdLost = true := by
  unfold State.cleatCmdLost
  split
  · exact h
  · split
    · exact wf_raise _ _ _ (wf_setBit _ _ _ (wf_setDetail _ _ _ _ (wf_setBit _ _ _ h)))
    · exact wf_setDetail _ _ _ _ (wf_setBit _ _ _ h)

@[simp] theorem wf_wipe (s : State) (h : Memory.wf s = true) : Memory.wf s.wipe = true := by
  have h' := wf_cleatCmdLost s h
  unfold State.wipe
  generalize s.cleatCmdLost = s' at h'
  clear h
  revert h'
  intro h
  rw [wf_iff] at *
  obtain ⟨x, b, c, d, e, f, g, r⟩ := h
  exact ⟨rfl, rfl, rfl, d, e, f, g, r⟩

/-- The flash array of a state, replaced by a canonical one. -/
theorem wf_flash (s : State) (fl : FlashSt) (h : Memory.wf s = true) (hf : SMap.wf 0xFF fl.mem = true) : Memory.wf { s with flash := fl } = true := by
  rw [wf_iff] at *
  obtain ⟨x, b, c, d, e, f, _, r⟩ := h
  exact ⟨x, b, c, d, e, f, hf, r⟩

theorem wf_arrayProgram (k : Nat) (us : List (List Byte)) (s : State) (h : Memory.wf s = true) : Memory.wf (State.arrayProgram s k us) = true := by
  induction us generalizing s k with
  | nil => simpa [State.arrayProgram] using h
  | cons u us ih =>
    have h7 : ∀ t : State, Memory.wf t = true → SMap.wf 0xFF t.flash.mem = true := fun t ht => ((wf_iff t).mp ht).2.2.2.2.2.2.1
    have hd : Memory.wf s.draw.2 = true := h
    unfold State.arrayProgram
    dsimp only
    apply ih
    exact wf_flash _ _ (by split <;> assumption) (wf_putRun _ _ _ _ (h7 _ h))

theorem wf_arrayErase (s : State) (area phys : Nat) (h : Memory.wf s = true) : Memory.wf (s.arrayErase area phys) = true := by
  unfold State.arrayErase
  exact wf_flash _ _ h (wf_clear _ _ _ _ ((wf_iff s).mp h).2.2.2.2.2.2.1)

theorem wf_fillSheave (s : State) (r : Rig) (y l p : Nat) (h : Memory.wf s = true) : Memory.wf (s.fillSheave r y l p) = true := by
  have key : ∀ (b : Nat) (ts : List TableRec) (m : SMap Byte), SMap.wf 0 m = true →
      SMap.wf 0 (ts.foldl (fun m t => if t.kind = 2 then SMap.putRun 0 m (b + t.off) t.data else m) m) = true := by
    intro b ts
    induction ts with
    | nil => exact fun m w => w
    | cons t ts ih =>
      intro m w
      apply ih
      dsimp only
      split
      · exact wf_putRun _ _ _ _ w
      · exact w
  rw [wf_iff] at *
  obtain ⟨x, b, c, d, e, f, g, q⟩ := h
  exact ⟨x, wf_putRun _ _ _ _ (wf_clear _ _ _ _ b), key _ _ _ (wf_clear _ _ _ _ c), d, e, f, g, q⟩

end Sys2Proof.Laws
end

