-- ==== Sys2Proof/Machine/Services.lean ====
section
/-!
DEFINITION. Transaction services of the standard rig, first part (R288 to R303): what the code of a standard class posts and
writes, as functions of its keys, its PARAM, its input and the random draws. A class is Sheave code of the rig, so these
functions are no commands of the block: they say what that code computes with the units the commands drive.
-/
set_option autoImplicit false

namespace Sys2Proof.Machine

/-! ### Reasons, statuses and the 8 B result (R290 to R292) -/

/-- Status of each REASON code (Table 9.2). -/
def reasonStatus (r : Nat) : Nat :=
  if r = 0x00 then 0x00
  else if r = 0x10 || r = 0x11 || r = 0x12 || r = 0x13 || r = 0x20 then 0x01
  else if r = 0x21 || r = 0x22 then stKeyUsage
  else if r = 0x60 then 0x13
  else 0x0B

/-- The checks of a service in its step order: REASON of the check, its bit of CHECKS, and whether it failed. -/
structure SvcCheck where
  reason : Nat
  bit    : Option Nat := none
  failed : Bool
  deriving DecidableEq, Repr

/-- REASON names the first failure in the step order (R292). -/
def firstReason (cs : List SvcCheck) : Nat := ((cs.find? SvcCheck.failed).map SvcCheck.reason).getD 0

/-- CHECKS shows all the failures (R291, R292). -/
def checkBits (cs : List SvcCheck) : Nat :=
  cs.foldl (fun v c => match c.bit with
    | some b => if c.failed then orBit v b else v
    | none => v) 0

/-- What a standard class posts: status, the 8 B result and the output, and the link that an audited class writes to its chain
block (R315). -/
structure SvcPost where
  status : Nat
  result : List Byte
  out    : List Byte
  link   : Option (List Byte) := none
  deriving DecidableEq, Repr

/-- The post of a class from its checks, result bytes 2 to 7 and output; INPUT_RANGE and KEY_USAGE write none
(R291, R292). A status that a port latched replaces it, with a zero result (R120). -/
def svcPost (cs : List SvcCheck) (tail out : List Byte) (latch : Option Nat) : SvcPost :=
  match latch with
  | some st => { status := st, result := List.replicate 8 0, out := [] }
  | none =>
    let r := firstReason cs
    let st := reasonStatus r
    { status := st, result := [BitVec.ofNat 8 r, BitVec.ofNat 8 (checkBits cs)] ++ fitBytes 6 tail, out := if st = 0 || st = 1 then out else [] }

/-- A key as QKEY gives it: ALG, USAGE and material; a refused one has ALG 0. -/
structure SvcKey where
  alg   : Nat := 0
  usage : Nat := 0
  mat   : List Byte := []
  deriving DecidableEq, Repr

/-- ALG AES-128, AES-192 or AES-256. -/
def SvcKey.isAes (k : SvcKey) : Bool := decide (1 ≤ k.alg) && decide (k.alg ≤ 3)

/-- ALG 2-key or 3-key TDES. -/
def SvcKey.isTdes (k : SvcKey) : Bool := k.alg == 4 || k.alg == 5

/-- Block length of the key's cipher. -/
def SvcKey.bl (k : SvcKey) : Nat := if k.isTdes then 8 else 16

/-- One block enciphered; a key of another algorithm gives zeros. -/
def SvcKey.enc (k : SvcKey) (b : List Byte) : List Byte :=
  if k.isTdes then tdesEnc k.mat b else if k.isAes then aesEnc k.mat b else List.replicate 16 0

/-- One block deciphered; a key of another algorithm gives zeros. -/
def SvcKey.dec (k : SvcKey) (b : List Byte) : List Byte :=
  if k.isTdes then tdesDec k.mat b else if k.isAes then aesDec k.mat b else List.replicate 16 0

/-- A service request: descriptor words KEY1 and KEY2, PARAM, the keys that QKEY gave, the input, the output length limit
OUT_LEN, and the number of the random draw (R290). -/
structure SvcReq where
  h1    : Nat
  h2    : Nat
  key1  : SvcKey
  key2  : SvcKey
  param : List Byte
  input : List Byte
  draw  : Nat
  outLen : Nat := 0
  latch : Option Nat := none
  deriving DecidableEq, Repr

/-- Byte `i` of a string as a number. -/
def byteOf (b : List Byte) (i : Nat) : Nat := (b.getD i 0).toNat

/-- PARAM byte `i`. -/
def SvcReq.p (q : SvcReq) (i : Nat) : Nat := byteOf q.param i

/-- Bytes of a string that must be zero. -/
def zeroFrom (b : List Byte) (i : Nat) : Bool := (b.drop i).all (· == 0)

/-! ### Padding and MACs (R302, Table 9.7a) -/

/-- Padding method 1 of ISO/IEC 9797-1; an empty message becomes one block of zeros. -/
def padM1 (bl : Nat) (m : List Byte) : List Byte := fitBytes (max bl (ceilDiv m.length bl * bl)) m

/-- Padding method 2 of ISO/IEC 9797-1. -/
def padM2 (bl : Nat) (m : List Byte) : List Byte := fitBytes ((m.length / bl + 1) * bl) (m ++ [0x80])

/-- A CBC chain from zero over whole blocks. -/
def cbcMac (enc : List Byte → List Byte) (bl : Nat) (m : List Byte) : List Byte :=
  (blocks bl m).foldl (fun c b => enc (xorBytes c b)) (List.replicate bl 0)

/-- CMAC (SP 800-38B). -/
def cmac (k : SvcKey) (m : List Byte) : List Byte :=
  let bl := k.bl
  let k1 := cmacDouble (k.enc (List.replicate bl 0))
  let n := if m.isEmpty then 1 else ceilDiv m.length bl
  let last := m.drop ((n - 1) * bl)
  let last := if last.length = bl then xorBytes last k1 else xorBytes (padM2 bl last) (cmacDouble k1)
  cbcMac k.enc bl (m.take ((n - 1) * bl) ++ last)

/-- The retail MAC: MAC algorithm 3 with a 2-key TDES key, over whole blocks. -/
def retailMac (k : SvcKey) (m : List Byte) : List Byte :=
  let h := cbcMac (desEnc (k.mat.take 8)) 8 m
  desEnc (k.mat.take 8) (desDec (cut k.mat 8 8) h)

/-- The tag of an algorithm of Table 9.7a with a padding method; none for a code that the table does not list. -/
def macTag (alg pad : Nat) (k : SvcKey) (m : List Byte) : List Byte :=
  let padded (bl : Nat) : List Byte := if pad = 1 then padM1 bl m else padM2 bl m
  if alg = 0x01 then cbcMac k.enc k.bl (padded k.bl)
  else if alg = 0x03 then retailMac k (padded 8)
  else if alg = 0x05 then cmac k m
  else if alg = 0x10 then hmac sha256 64 k.mat m
  else if alg = 0x11 then hmac sha512 128 k.mat m
  else if alg = 0x12 then hmac sha3_256 136 k.mat m
  else []

/-- A key whose ALG suits the algorithm. -/
def macKeyOk (alg : Nat) (k : SvcKey) : Bool :=
  if alg = 0x01 || alg = 0x05 then k.isAes || k.isTdes else if alg = 0x03 then k.alg == 4 else k.alg == 8

/-- Algorithm, padding code and MLEN that Table 9.7a lists, for a key of block length `bl`. -/
def macParamOk (alg pad mlen bl : Nat) : Bool :=
  let range (lo hi : Nat) : Bool := decide (lo ≤ mlen) && decide (mlen ≤ hi)
  if alg = 0x01 then (pad == 1 || pad == 2) && range 4 bl
  else if alg = 0x03 then (pad == 1 || pad == 2) && range 4 8
  else pad == 0 && (if alg = 0x05 then range 4 bl else if alg = 0x10 || alg = 0x12 then range 10 32 else alg == 0x11 && range 16 32)

/-- The PARAM checks and the key check of the MAC services (R290, R303). -/
def SvcReq.macChecks (q : SvcReq) : List SvcCheck :=
  [ { reason := 0x01, failed := q.h2 != 0 || !zeroFrom q.param 3 || !macParamOk (q.p 0) (q.p 1) (q.p 2) (if macKeyOk (q.p 0) q.key1 then q.key1.bl else 16) },
    { reason := 0x22, failed := !macKeyOk (q.p 0) q.key1 } ]

/-- MAC_GEN: the leftmost MLEN bytes of the tag (R303). -/
def macGen (q : SvcReq) : SvcPost :=
  svcPost q.macChecks [] ((macTag (q.p 0) (q.p 1) q.key1 q.input).take (q.p 2)) q.latch

/-- MAC_VER: the MAC of all but the last MLEN bytes against those (R303). -/
def macVer (q : SvcReq) : SvcPost :=
  let n := q.input.length - q.p 2
  let cs := q.macChecks ++ [
    { reason := 0x02, failed := decide (q.input.length < q.p 2) },
    { reason := 0x10, bit := some (Config.checkBit 0x0302 % 8), failed := (macTag (q.p 0) (q.p 1) q.key1 (q.input.take n)).take (q.p 2) != q.input.drop n } ]
  svcPost cs [] [] q.latch

/-! ### PIN translation (R293 to R297) -/

/-- Table 9.4: a translation from one format to another, DOWN allowing format 4 to 0 and 3. -/
def xlateOk (fi fo : Nat) (down : Bool) : Bool :=
  if fo = 1 then fi == 1
  else if fi = 4 then fo == 4 || down
  else true

/-- Digits of a PAN, packed and left-justified. -/
def panDigits (len : Nat) (b : List Byte) : List Nat := (nibbles b).take len

/-- The PAN field of a format (Table 9.3): zero for format 1. -/
def panField (f len : Nat) (pan : List Byte) : List Byte :=
  let ds := panDigits len pan
  if f = 4 then fitBytes 16 (ofNibbles ([len - 12] ++ ds ++ List.replicate (31 - ds.length) 0))
  else if f = 1 then List.replicate 16 0
  else
    let r := ds.dropLast.drop (ds.dropLast.length - 12)
    fitBytes 16 (ofNibbles ([0, 0, 0, 0] ++ List.replicate (12 - r.length) 0 ++ r))

/-- A key whose algorithm suits a format (Table 9.3). -/
def pinKeyOk (f : Nat) (k : SvcKey) : Bool := if f = 4 then k.isAes else k.isTdes

/-- The plain PIN field of a source block (R293, R294). -/
def pinPlain (f : Nat) (k : SvcKey) (blk pan : List Byte) : List Byte :=
  if f = 4 then k.dec (xorBytes (k.dec blk) pan)
  else
    let d := k.dec (blk.take 8)
    if f = 1 then d else xorBytes d (pan.take 8)

/-- The output block under the destination key (R293). -/
def pinSeal (f : Nat) (k : SvcKey) (field pan : List Byte) : List Byte :=
  if f = 4 then k.enc (xorBytes (k.enc field) pan)
  else k.enc (if f = 1 then field else xorBytes field (pan.take 8))

/-- The translation of one block: the new block, and whether the unit set FORMAT_ERR; the result is then zero. -/
def pinXlateBlock (fi fo : Nat) (k1 k2 : SvcKey) (blk panIn panOut : List Byte) (draw : Nat) : List Byte × Bool :=
  let n := if fo = 4 then 16 else 8
  match pinOf fi (pinPlain fi k1 blk panIn) with
  | none => (List.replicate n 0, true)
  | some pin => (fitBytes n (pinSeal fo k2 (pinField fo pin draw) panOut), false)

/-- The PAN of Table 9.5 is well formed: 12 to 19 digits, filled with 0xF, or absent where both formats are 1. -/
def panOk (fi fo : Nat) (b : List Byte) : Bool :=
  let len := byteOf b 0
  if fi = 1 && fo = 1 then len == 0
  else decide (12 ≤ len) && decide (len ≤ 19) && (nibbles (cut b 1 10)).zipIdx.all fun (x : Nat × Nat) => if x.2 < len then decide (x.1 ≤ 9) else x.1 == 0xF

/-- Steps that both PIN services share after the source key is known. -/
def SvcReq.pinXlate (q : SvcReq) (src : SvcKey) (first : List SvcCheck) (down : Bool) : SvcPost :=
  let fi := q.p 0 % 16
  let fo := q.p 0 / 16
  let len := byteOf q.input 0x10
  let pan := cut q.input 0x11 10
  let (blk, bad) := pinXlateBlock fi fo src q.key2 (q.input.take 16) (panField fi len pan) (panField fo len pan) q.draw
  let keysOk := pinKeyOk fi src && pinKeyOk fo q.key2
  let cs := first ++ [
    { reason := 0x22, failed := !keysOk },
    { reason := 0x21, failed := !xlateOk fi fo down },
    { reason := 0x20, bit := some (Config.checkBit 0x0101 % 8), failed := bad } ]
  svcPost cs [BitVec.ofNat 8 fo] blk q.latch

/-- PARAM of the PIN services: two known formats, no reserved bit. -/
def SvcReq.pinParamOk (q : SvcReq) (flags : Nat) : Bool :=
  pinFormat (q.p 0 % 16) && pinFormat (q.p 0 / 16) && (q.p 1 ||| flags) == flags && zeroFrom q.param 2

/-- PIN_XLATE (R293 to R296). -/
def pinXlate (q : SvcReq) : SvcPost :=
  q.pinXlate q.key1 [
    { reason := 0x01, failed := !q.pinParamOk 1 },
    { reason := 0x02, failed := q.input.length != 32 || !panOk (q.p 0 % 16) (q.p 0 / 16) (q.input.drop 0x10) } ] (bitOf (q.p 1) 0)

/-! #### AES DUKPT (R297, ANSI X9.24-3) -/

/-- One derivation block: block counter, usage, algorithm and length of the key, and 8 B of diversification. -/
def dukptData (i usage bits : Nat) (div : List Byte) : List Byte :=
  [0x01, BitVec.ofNat 8 i] ++ beBytes 2 usage ++ beBytes 2 (if bits = 128 then 2 else if bits = 192 then 3 else 4) ++ beBytes 2 bits ++ div

/-- A key of `bits` bits derived under a key: one block, and a second for AES-256. -/
def dukptDerive (key : List Byte) (usage bits : Nat) (div : List Byte) : List Byte :=
  aesEnc key (dukptData 1 usage bits div) ++ (if bits = 256 then aesEnc key (dukptData 2 usage bits div) else [])

/-- The initial key from the BDK and the initial key ID: BDK ID and derivation ID. -/
def dukptInitial (bdk ikid : List Byte) : List Byte := dukptDerive bdk 0x8001 (8 * bdk.length) ikid

/-- One bits of a transaction counter, from the most significant. -/
def counterBits (c : Nat) : List Nat := ((List.range 32).reverse).filter fun i => bitOf c i

/-- The intermediate key after the one bits of a counter. -/
def dukptIntermediate (ik derivId : List Byte) (c : Nat) : List Byte :=
  ((counterBits c).foldl (fun (st : List Byte × Nat) i =>
    let w := st.2 + 2 ^ i
    (dukptDerive st.1 0x8000 (8 * ik.length) (derivId ++ beBytes 4 w), w)) (ik, 0)).1

/-- The PIN encryption working key of a KSN. -/
def dukptPinKey (bdk ksn : List Byte) (bits : Nat) : List Byte :=
  let c := beNat (cut ksn 8 4)
  let ik := dukptInitial bdk (ksn.take 8)
  dukptDerive (dukptIntermediate ik (cut ksn 4 4) c) 0x1000 bits (cut ksn 4 8)

/-- A counter that AES DUKPT allows. -/
def ksnCounterOk (c : Nat) : Bool := c != 0 && decide ((counterBits c).length ≤ 16)

/-- Derivations that the class runs every time (R297). -/
def dukptDerivations : Nat := 18

/-- PIN_XLATE_DUKPT (R297). -/
def pinXlateDukpt (q : SvcReq) : SvcPost :=
  let bits := if q.p 1 / 2 % 4 = 1 then 256 else 128
  let ksn := cut q.input 0x20 12
  let bdkOk := q.key1.alg == 1 || q.key1.alg == 3
  let src : SvcKey := if bdkOk then { alg := if bits = 256 then 3 else 1, usage := 8, mat := dukptPinKey q.key1.mat ksn bits } else {}
  q.pinXlate src [
    { reason := 0x01, failed := !q.pinParamOk 7 || q.p 0 % 16 != 4 || decide (1 < q.p 1 / 2 % 4) },
    { reason := 0x02, failed := q.input.length != 44 || !panOk 4 (q.p 0 / 16) (q.input.drop 0x10) },
    { reason := 0x30, failed := !ksnCounterOk (beNat (cut ksn 8 4)) },
    { reason := 0x22, failed := !bdkOk || decide (8 * q.key1.mat.length < bits) } ] (bitOf (q.p 1) 0)

/-! ### The standard PIN translation layout (R298) -/

/-- Slot `k` of the layout: start, end, yard, slot, logical Sheave and EGRESS unit, and the windows of the two reads, of the
cipher pair and of EGRESS. -/
structure PinSlot where
  start : Nat
  stop  : Nat
  yard  : Nat
  slot  : Nat
  lsheave : Nat
  unit  : Nat
  pair  : Nat
  read1 : Nat × Nat
  read2 : Nat × Nat
  cipher : Nat × Nat
  egress : Nat × Nat
  deriving DecidableEq, Repr

/-- The 80 slots of the layout. -/
def pinLayout (k : Nat) : PinSlot :=
  let s := 100 + 120 * k
  { start := s, stop := s + 300, yard := k % 64, slot := k / 64, lsheave := 0, unit := 0, pair := k % 32, read1 := (s + 10, s + 70), read2 := (s + 70, s + 130), cipher := (s + 72, s + 210), egress := (s + 260, s + 300) }

/-! ### EMV cryptograms (R299 to R301) -/

/-- PAN digits and PAN sequence number, left-padded with zeros to `n` digits and cut to the last `n`. -/
def panSeq (n len : Nat) (pan : List Byte) (seq : Byte) : List Byte :=
  let ds := panDigits len pan ++ nibbles [seq]
  let ds := List.replicate (n - ds.length) 0 ++ ds
  ofNibbles (ds.drop (ds.length - n))

/-- The ICC master key: option A under TDES, option C under AES (Annex A1.4). -/
def iccMaster (k : SvcKey) (len : Nat) (pan : List Byte) (seq : Byte) : SvcKey :=
  if k.isTdes then
    let y := panSeq 16 len pan seq
    { alg := 4, usage := 16, mat := k.enc y ++ k.enc (y.map fun b => b ^^^ 0xFF) }
  else { alg := 1, usage := 16, mat := k.enc (panSeq 32 len pan seq) }

/-- The session key for the cryptogram, from the ATC (Annex A1.3). -/
def emvSession (mk : SvcKey) (atc : List Byte) : SvcKey :=
  if mk.isTdes then
    let r (b : Byte) := fitBytes 8 (atc.take 2 ++ [b])
    { alg := 4, usage := 4, mat := mk.enc (r 0xF0) ++ mk.enc (r 0x0F) }
  else { alg := 1, usage := 4, mat := mk.enc (fitBytes 16 (atc.take 2)) }

/-- The MAC of the ARQC and of ARPC method 2: CMAC for AES, the retail MAC for TDES, over data padded with method 2. -/
def emvMac (sk : SvcKey) (m : List Byte) : List Byte :=
  if sk.isTdes then retailMac sk (padM2 8 m) else (cmac sk (padM2 16 m)).take 8

/-- The ARPC of a method from the session key, the ARQC, and ARC or CSU with the proprietary data. -/
def arpcOf (sk : SvcKey) (method : Nat) (arqc code data : List Byte) : List Byte :=
  if method = 1 then (sk.enc (xorBytes (fitBytes sk.bl arqc) (fitBytes sk.bl (code.take 2)))).take 8
  else (emvMac sk (arqc ++ code ++ data)).take 4

/-- A key from which EMV_CRYPTO derives. -/
def emvKeyOk (k : SvcKey) : Bool := k.alg == 1 || k.alg == 4

/-- EMV_CRYPTO (R299 to R301). -/
def emvCrypto (q : SvcReq) : SvcPost :=
  let d := q.input
  let n := byteOf d 0x28 + 256 * byteOf d 0x29
  let propLen := byteOf d 0x1C
  let sk := emvSession (iccMaster q.key1 (byteOf d 0) (cut d 1 10) (d.getD 0x0B 0)) (cut d 0x0C 2)
  let arqc := cut d 0x10 8
  let cs : List SvcCheck := [
    { reason := 0x01, failed := q.h2 != 0 || !zeroFrom q.param 1 || !(q.p 0 == 1 || q.p 0 == 2) },
    { reason := 0x02, failed := d.length != 48 + n || decide (n < 8) || decide (256 < n) || decide (byteOf d 0 < 12) || decide (19 < byteOf d 0)
        || (q.p 0 == 2 && decide (8 < propLen)) },
    { reason := 0x22, failed := !emvKeyOk q.key1 },
    { reason := 0x11, bit := some 0, failed := (emvMac sk (cut d 0x30 n)).take 8 != arqc } ]
  svcPost cs (cut d 0x0C 2) (arpcOf sk (q.p 0) arqc (cut d 0x18 4) (cut d 0x20 propLen)) q.latch

end Sys2Proof.Machine
end

