-- ==== Sys2Proof/Machine/ServiceKeys.lean ====
section
/-!
DEFINITION. Transaction services of the standard rig, second part: the key block services KB_IMPORT and KB_UNWRAP
(R304 to R307). The derivation of the two protection keys and the layout of the clear key field are those of TR-31 and
X9.143 (notes/assumptions/62.md).
-/
set_option autoImplicit false

namespace Sys2Proof.Machine

/-! ### ASCII fields -/

/-- The digit of an ASCII character in a base up to 16, capitals only; none for another character. -/
def hexDigit (b : Byte) : Option Nat :=
  let n := b.toNat
  if 0x30 ≤ n ∧ n ≤ 0x39 then some (n - 0x30) else if 0x41 ≤ n ∧ n ≤ 0x46 then some (n - 0x37) else none

/-- A number in ASCII digits of a base. -/
def asciiNat (base : Nat) (b : List Byte) : Option Nat :=
  b.foldl (fun v x => v.bind fun n => (hexDigit x).bind fun d => if d < base then some (base * n + d) else none) (some 0)

/-- Bytes written as pairs of hexadecimal characters. -/
def hexText : List Byte → Option (List Byte)
  | a :: b :: r => (hexDigit a).bind fun x => (hexDigit b).bind fun y => (hexText r).map fun l => BitVec.ofNat 8 (16 * x + y) :: l
  | [] => some []
  | _ => none

/-- Character `i` of a text as a one-character text. -/
def charAt (b : List Byte) (i : Nat) : Nat := byteOf b i

/-- A character is one of a text's. -/
def oneOf (c : Nat) (t : String) : Bool := t.toList.any fun x => x.toNat == c

/-! ### The block (R304) -/

/-- A parsed key block: version, header with its optional blocks, enciphered key field and MAC. -/
structure KeyBlock where
  ver   : Nat
  head  : List Byte
  field : List Byte
  mac   : List Byte
  deriving DecidableEq, Repr

/-- Length of one optional block and the least that it may be: two hexadecimal characters, or, after 00, as many pairs of them
as the next two say (X9.143). -/
def optLen (t : List Byte) : Option (Nat × Nat) :=
  match asciiNat 16 (cut t 2 2) with
  | some 0 => (asciiNat 16 (cut t 4 2)).bind fun k => if k = 0 then none else (asciiNat 16 (cut t 6 (2 * k))).map fun n => (n, 6 + 2 * k)
  | some n => some (n, 4)
  | none => none

/-- Length of the optional blocks that start a text. -/
def optBlocks : Nat → List Byte → Option Nat
  | 0, _ => some 0
  | n + 1, t =>
    match optLen t with
    | none => none
    | some (len, least) => if len < least || t.length < len then none else (optBlocks n (t.drop len)).map (· + len)

/-- Versions that the services accept: B under TDES, D under AES. -/
def kbVersionOk (t : List Byte) (k : SvcKey) : Bool := (charAt t 0 == 0x42 && k.isTdes) || (charAt t 0 == 0x44 && k.isAes)

/-- The block of a text, where its header meets the rules: digits, length equal to IN_LEN, optional blocks, reserved
characters, hexadecimal key field and MAC, whole blocks of the cipher. -/
def keyBlock (t : List Byte) : Option KeyBlock :=
  let bl := if charAt t 0 = 0x42 then 8 else 16
  let ok := t.all (fun b => decide (0x20 ≤ b.toNat) && decide (b.toNat ≤ 0x7E)) && asciiNat 10 (cut t 1 4) == some t.length
    && cut t 14 2 == ascii "00" && oneOf (charAt t 11) "NES"
  match if ok then asciiNat 10 (cut t 12 2) else none with
  | none => none
  | some n =>
    match optBlocks n (t.drop 16) with
    | none => none
    | some o =>
      let body := t.drop (16 + o)
      match hexText body with
      | none => none
      | some raw =>
        if raw.length < 2 * bl || raw.length % bl ≠ 0 || (16 + o) % bl ≠ 0 then none
        else some { ver := charAt t 0, head := t.take (16 + o), field := raw.take (raw.length - bl), mac := raw.drop (raw.length - bl) }

/-- A protection key derived from KEY1: usage 0 for encryption, 1 for authentication; of KEY1's algorithm and length. `duse` is
its DUSE: PIN for the encryption key of KB_IMPORT, DEC for that of KB_UNWRAP (R304), and MAC for the authentication key. -/
def kbDerive (k : SvcKey) (usage duse : Nat) : SvcKey :=
  let bits := 8 * k.mat.length
  let code := if k.isTdes then (if bits = 128 then 0 else 1) else (if bits = 128 then 2 else if bits = 192 then 3 else 4)
  let blk (i : Nat) : List Byte := cmac k ([BitVec.ofNat 8 i] ++ beBytes 2 usage ++ [0] ++ beBytes 2 code ++ beBytes 2 bits)
  { k with usage := duse, mat := (blk 1 ++ blk 2 ++ blk 3).take k.mat.length }

/-- CBC decipherment. -/
def cbcDec (k : SvcKey) (iv ct : List Byte) : List Byte :=
  ((blocks k.bl ct).foldl (fun (st : List Byte × List Byte) b => (st.1 ++ xorBytes (k.dec b) st.2, b)) ([], iv)).1

/-- DUSE of the encryption key of an import, of an unwrap, and of the authentication key, as USAGE bits (Table 8.3). -/
def dusePin : Nat := 0x08
def duseDec : Nat := 0x02
def duseMac : Nat := 0x04

/-- The clear key field of a block, under an encryption key of the service's DUSE. -/
def KeyBlock.clear (b : KeyBlock) (k : SvcKey) (duse : Nat) : List Byte := cbcDec (kbDerive k 0 duse) b.mac b.field

/-- The MAC over header and clear key field agrees. -/
def KeyBlock.macOk (b : KeyBlock) (k : SvcKey) (duse : Nat) : Bool := cmac (kbDerive k 1 duseMac) (b.head ++ b.clear k duse) == b.mac

/-- The key of a clear field: a length in bits, then the key; none where the length does not fit the field. -/
def clearKey (f : List Byte) : Option (List Byte) :=
  let bits := beNat (f.take 2)
  if bits % 8 = 0 && bits / 8 + 2 ≤ f.length then some (cut f 2 (bits / 8)) else none

/-! ### Usage and algorithm (R305, Table 9.7) -/

/-- USAGE of an imported entry from key usage and mode of use (Table 9.7). -/
def kbUsage (head : List Byte) : Option Nat :=
  let u := cut head 5 2
  let m := charAt head 8
  let is (t : String) : Bool := u == ascii t
  if is "P0" then (if oneOf m "EDB" then some 0x08 else none)
  else if is "M1" || is "M3" || is "M6" || is "M7" then (if oneOf m "CGV" then some 0x04 else none)
  else if is "D0" then (if oneOf m "E" then some 0x01 else if oneOf m "D" then some 0x02 else if oneOf m "B" then some 0x03 else none)
  else if is "E0" || is "B0" then (if oneOf m "X" then some 0x10 else none)
  else if is "K0" || is "K1" then (if oneOf m "BDE" then some 0x50 else none)
  else none

/-- ALG of an imported entry from the algorithm character and the key length. -/
def kbAlg (head : List Byte) (n : Nat) : Option Nat :=
  let a := charAt head 7
  if oneOf a "A" then (if n = 16 then some 1 else if n = 24 then some 2 else if n = 32 then some 3 else none)
  else if oneOf a "T" then (if n = 16 then some 4 else if n = 24 then some 5 else none)
  else if oneOf a "H" then (if 1 ≤ n && n ≤ 32 then some 8 else none)
  else none

/-! ### KB_IMPORT (R306) -/

/-- The template of the KSTORE (R267, R306). An exportability of N forces EXPORT NEVER and leaves out the EXPORT bit. -/
def kbTemplate (q : SvcReq) (head : List Byte) (alg usage : Nat) (klen : Nat) : List Byte :=
  let never := oneOf (charAt head 11) "N"
  let ex := if never then 0 else q.p 1
  let u := if never then clrBit usage 7 else usage
  [BitVec.ofNat 8 alg, BitVec.ofNat 8 klen, BitVec.ofNat 8 u, 0, BitVec.ofNat 8 ex, 0, BitVec.ofNat 8 (q.p 0 % 2), 0] ++ leBytes 2 (8 * klen) ++ List.replicate 6 0
    ++ fitBytes 16 head ++ leBytes 4 0 ++ cut q.param 4 4 ++ cut q.param 8 6 ++ [0, 0]

/-- What KB_IMPORT asks of the Cleat store: the protecting HANDLE, the template and the material. -/
structure KbStore where
  handle : Nat
  tmpl : List Byte
  mat  : List Byte
  deriving DecidableEq, Repr

/-- The checks that both services make while they parse and on KEY1, up to the tag: INPUT_RANGE found in the header comes
before the tag (R292). -/
def SvcReq.kbChecks (q : SvcReq) (paramOk : Bool) (need duse : Nat) (import' : Bool) : List SvcCheck :=
  let b := keyBlock q.input
  [ { reason := 0x01, failed := q.h2 != 0 || !paramOk },
    { reason := 0x40, failed := !(charAt q.input 0 == 0x42 || charAt q.input 0 == 0x44) },
    { reason := 0x41, failed := b.isNone },
    { reason := 0x42, failed := import' && b.any fun b => (kbUsage b.head).isNone || !oneOf (charAt b.head 7) "ATH" },
    { reason := 0x22, failed := q.key1.usage &&& need != need || !kbVersionOk q.input q.key1 },
    { reason := 0x12, bit := some 0, failed := b.any fun b => !b.macOk q.key1 duse } ]

/-- A clear key field whose length field does not fit it, found once the tag holds (Table 9.2, BAD_LENGTH). -/
def SvcReq.kbLengthCheck (q : SvcReq) (duse : Nat) : SvcCheck :=
  { reason := 0x02, failed := (keyBlock q.input).any fun b => (clearKey (b.clear q.key1 duse)).isNone }

/-- KEY1 of KB_IMPORT holds DERIVE and WRAP, that of KB_UNWRAP DERIVE and DEC (R306, R307). -/
def kbImportKey : Nat := 0x50
def kbUnwrapKey : Nat := 0x12

/-- The checks of KB_IMPORT; the last needs the clear length (R305, R306). -/
def SvcReq.importChecks (q : SvcReq) : List SvcCheck :=
  let paramOk := zeroFrom q.param 14 && cut q.param 2 2 == [0, 0] && decide (q.p 0 < 2) && decide (q.p 1 ≤ 2)
  q.kbChecks paramOk kbImportKey dusePin true ++ [q.kbLengthCheck dusePin,
    { reason := 0x42, failed := (keyBlock q.input).any fun b =>
        (clearKey (b.clear q.key1 dusePin)).any fun k => (kbAlg b.head k.length).isNone }]

/-- The KSTORE that KB_IMPORT issues: only when every check holds. -/
def kbStore (q : SvcReq) : Option KbStore :=
  if firstReason q.importChecks ≠ 0 then none
  else
    match keyBlock q.input with
    | none => none
    | some b =>
      match clearKey (b.clear q.key1 dusePin), kbUsage b.head with
      | some k, some u => (kbAlg b.head k.length).map fun a => { handle := q.h1, tmpl := kbTemplate q b.head a u k.length, mat := k }
      | _, _ => none

/-- KB_IMPORT, given KREASON and the handle that its KSTORE answered (R306). -/
def kbImport (q : SvcReq) (kreason handle : Nat) : SvcPost :=
  let stored := (kbStore q).isSome
  let cs := q.importChecks ++ [{ reason := 0x60, failed := stored && kreason != 0 }]
  svcPost cs ([BitVec.ofNat 8 (if stored then kreason else 0), 0] ++ leBytes 4 (if stored && kreason == 0 then handle else 0)) [] q.latch

/-! ### KB_UNWRAP (R307) -/

/-- The key bytes that KB_UNWRAP releases. Where the deciphered length field does not fit, which a wrong tag makes likely, the
spec states no key length: it is a free number of the bytes after the length field (notes/assumptions/62.md). -/
def unwrapKey (f : List Byte) : List Byte :=
  (clearKey f).getD (cut f 2 (Config.unwrapLen f % (f.length - 1)))

/-- KB_UNWRAP: header and clear key, after a tag mismatch too; none where KEY1 lacks DERIVE or DEC. -/
def kbUnwrap (q : SvcReq) : SvcPost :=
  let cs := q.kbChecks (zeroFrom q.param 0) kbUnwrapKey duseDec false ++ [q.kbLengthCheck duseDec]
  let k := ((keyBlock q.input).map fun b => unwrapKey (b.clear q.key1 duseDec)).getD []
  svcPost cs [BitVec.ofNat 8 k.length] (q.input.take 16 ++ k) q.latch

end Sys2Proof.Machine
end

