-- ==== Sys2Proof/Machine/ServiceMsg.lean ====
section
/-!
DEFINITION. Transaction services of the standard rig, third part: message translation between ISO 8583 and ISO 20022
(R308 to R311). A map is the content of a TABLES record; its layout in bytes is Plotik's, so a map stands here as the data
that R308 says it holds (notes/assumptions/62.md).
-/
set_option autoImplicit false

namespace Sys2Proof.Machine

/-! ### Maps (R308, Table 9.8) -/

/-- Encoding of a data element. -/
inductive DeEnc where
  | ascii | bcd | binary
  deriving DecidableEq, Repr

/-- Length rule of a data element: fixed, or a length in two or three digits before it. -/
inductive DeLen where
  | fixed | llvar | lllvar
  deriving DecidableEq, Repr

/-- Conversions of Table 9.8. -/
inductive Conv where
  | copy | decimal | amount | datetime | code | binary
  deriving DecidableEq, Repr

/-- A data element of the map's ISO 8583 side: number, encoding, length rule, fixed or greatest length. -/
structure DeFmt where
  de   : Nat
  enc  : DeEnc
  rule : DeLen
  len  : Nat
  deriving DecidableEq, Repr

/-- An entry of a map: one data element or subfield (offset and length in the element) and one ISO 20022 element, as the
numbers of its names from the root down in the element name table. -/
structure MapEnt where
  de        : Nat
  sub       : Option (Nat × Nat) := none
  path      : List Nat
  mandatory : Bool
  conv      : Conv
  codes     : List (List Byte × List Byte) := []
  deriving DecidableEq, Repr

/-- A map: direction, ISO 8583 version digit and MTI, ISO 20022 message identifier and namespace, element name table, formats, entries, the MAC
field, the currencies (numeric code, letters, exponent) and the century rule: years from `pivot` on are of the earlier
century, and `year` dates a time that names none. -/
structure MsgMap where
  toXml   : Bool
  version : Nat
  mti     : List Byte
  mtiBcd  : Bool
  msgId   : List Byte
  ns      : List Byte
  names   : List (List Byte)
  fmts    : List DeFmt
  ents    : List MapEnt
  macDe   : Nat
  curr    : List (List Byte × List Byte × Nat)
  pivot   : Nat
  year    : Nat
  deriving DecidableEq, Repr

/-- A failure: REASON, element and byte offset (R311). -/
structure MsgErr where
  reason : Nat
  elem   : Nat := 0
  off    : Nat := 0
  deriving DecidableEq, Repr

/-! ### Digits -/

/-- ASCII digits of a number in at least `n` places. -/
def decText (n v : Nat) : List Byte :=
  let d := (toString v).toList.map fun c => BitVec.ofNat 8 c.toNat
  List.replicate (n - d.length) 0x30 ++ d

/-- A text of decimal digits only. -/
def isDigits (t : List Byte) : Bool := !t.isEmpty && t.all fun b => decide (0x30 ≤ b.toNat) && decide (b.toNat ≤ 0x39)

/-- The number of a text of decimal digits. -/
def decNat (t : List Byte) : Option Nat := if isDigits t then asciiNat 10 t else none

/-- Packed digits as text; none where a nibble is no digit. -/
def bcdText (b : List Byte) : Option (List Byte) :=
  if (nibbles b).all (· ≤ 9) then some ((nibbles b).map fun n => BitVec.ofNat 8 (0x30 + n)) else none

/-- Text digits packed, an odd number with a leading zero. -/
def bcdPack (t : List Byte) : List Byte :=
  let ds := t.map fun b => b.toNat % 16
  ofNibbles (if ds.length % 2 = 1 then 0 :: ds else ds)

/-! ### The ISO 8583 side -/

/-- The elements that a bitmap lists, in order; bit 1 says that a second one follows. -/
def bitmapDes (b : List Byte) : List Nat := (List.range (8 * b.length)).filterMap fun i => if i ≠ 0 ∧ i ≠ 64 ∧ (b.getD (i / 8) 0).getLsbD (7 - i % 8) then some (i + 1) else none

/-- A data element as read: number, value (text for ASCII and packed digits, bytes for binary), offset of its start. -/
structure DeVal where
  de  : Nat
  val : List Byte
  off : Nat
  deriving DecidableEq, Repr

/-- Read one data element at `off`: its value and the offset after it. -/
def readDe (f : DeFmt) (m : List Byte) (off : Nat) : Option (List Byte × Nat) :=
  let digits := match f.rule with
    | .fixed => 0
    | .llvar => 2
    | .lllvar => 3
  let lenBytes := if f.enc = .bcd then (digits + 1) / 2 else digits
  let raw := cut m off lenBytes
  let len := if digits = 0 then some f.len else if f.enc = .bcd then (bcdText raw).bind decNat else decNat raw
  match len with
  | none => none
  | some n =>
    let bytes := if f.enc = .bcd then (n + 1) / 2 else n
    let p := off + lenBytes
    if f.len < n || m.length < p + bytes || raw.length < lenBytes then none
    else
      let v := cut m p bytes
      match f.enc with
      | .bcd => (bcdText v).map fun t => (t.drop (t.length - n), p + bytes)
      | _ => some (v, p + bytes)

/-- Read the listed elements in order; the first failure names its element and offset. -/
def readDes (fs : List DeFmt) (m : List Byte) : List Nat → Nat → Except MsgErr (List DeVal)
  | [], off => if off = m.length then .ok [] else .error { reason := 0x50, off := off }
  | d :: ds, off =>
    match (fs.find? fun f => f.de == d).bind fun f => readDe f m off with
    | none => .error { reason := 0x50, elem := d, off := off }
    | some (v, off') =>
      match readDes fs m ds off' with
      | .ok l => .ok ({ de := d, val := v, off := off } :: l)
      | .error e => .error e

/-- A message under a map: its MTI as text and its elements. -/
def readIso (mp : MsgMap) (m : List Byte) : Except MsgErr (List Byte × List DeVal) :=
  let n := if mp.mtiBcd then 2 else 4
  let mti := if mp.mtiBcd then (bcdText (m.take 2)).getD [] else m.take 4
  let map1 := cut m n 8
  let maps := if (map1.getD 0 0).getLsbD 7 then cut m n 16 else map1
  let want := if (map1.getD 0 0).getLsbD 7 then 16 else 8
  if !isDigits mti || mti.length ≠ 4 || (byteOf mti 0) ≠ 0x30 + mp.version then .error { reason := 0x50 }
  else if maps.length < want then .error { reason := 0x50, elem := want / 16, off := n }
  else (readDes mp.fmts m (bitmapDes maps) (n + maps.length)).map fun l => (mti, l)

/-- One data element as written; none where the value does not fit the format. -/
def writeDe (f : DeFmt) (v : List Byte) : Option (List Byte) :=
  let body := if f.enc = .bcd then bcdPack v else v
  let len (n : Nat) : List Byte := if f.enc = .bcd then bcdPack (decText n v.length) else decText n v.length
  if f.enc = .bcd && !isDigits v || f.len < v.length then none
  else match f.rule with
    | .fixed => if v.length = f.len then some body else none
    | .llvar => some (len 2 ++ body)
    | .lllvar => some (len 3 ++ body)

/-- The bitmap of a set of elements, with the second one where an element above 64 is present. -/
def writeBitmap (ds : List Nat) : List Byte :=
  let n := if ds.any (64 < ·) then 16 else 8
  let ds := if n = 16 then 1 :: ds else ds
  (List.range n).map fun i => BitVec.ofNat 8 ((List.range 8).foldl (fun v j => v * 2 + (if ds.contains (8 * i + j + 1) then 1 else 0)) 0)

/-- A message from its elements in order; the first that does not fit is the failure. -/
def writeIso (mp : MsgMap) (vs : List (Nat × List Byte)) : Except MsgErr (List Byte) :=
  let head := (if mp.mtiBcd then bcdPack mp.mti else mp.mti) ++ writeBitmap (vs.map Prod.fst)
  vs.foldl (fun m (e : Nat × List Byte) => m.bind fun m =>
    match (mp.fmts.find? fun f => f.de == e.1).bind fun f => writeDe f e.2 with
    | some b => .ok (m ++ b)
    | none => .error { reason := 0x52, elem := e.1 }) (.ok head)

/-! ### XML (R309) -/

/-- The five predefined entities. -/
def xmlEntities : List (String × Nat) := [("lt;", 0x3C), ("gt;", 0x3E), ("amp;", 0x26), ("quot;", 0x22), ("apos;", 0x27)]

/-- Character data with its entity references replaced; none for another reference or a bare `<`. -/
def xmlText : Nat → List Byte → Option (List Byte)
  | 0, t => if t.isEmpty then some [] else none
  | _, [] => some []
  | n + 1, b :: r =>
    if b = 0x26 then
      match xmlEntities.find? fun e => (ascii e.1).isPrefixOf r with
      | some e => (xmlText n (r.drop e.1.length)).map fun l => BitVec.ofNat 8 e.2 :: l
      | none => none
    else if b = 0x3C then none
    else (xmlText n r).map fun l => b :: l

/-- Character data as written. -/
def xmlEscape (t : List Byte) : List Byte := t.flatMap fun b =>
  match xmlEntities.find? fun e => e.2 == b.toNat with
  | some e => 0x26 :: ascii e.1
  | none => [b]

/-- White space of XML. -/
def xmlSpace (b : Byte) : Bool := b == 0x20 || b == 0x09 || b == 0x0A || b == 0x0D

/-- A character of a name, as far as the model tells names from marks. -/
def xmlNameChar (b : Byte) : Bool := !xmlSpace b && !(ascii "<>/=&'!?" ++ [0x22]).contains b

/-- A text is UTF-8. -/
def utf8 : Nat → List Byte → Bool
  | 0, t => t.isEmpty
  | _, [] => true
  | n + 1, b :: r =>
    let tail (k lo : Nat) : Bool :=
      let c := r.take k
      let v := c.foldl (fun v x => v * 64 + x.toNat % 64) (b.toNat % 2 ^ (6 - k))
      c.length == k && c.all (fun x => x.toNat / 64 == 2) && decide (lo ≤ v) && decide (v ≤ 0x10FFFF) && !(decide (0xD800 ≤ v) && decide (v ≤ 0xDFFF)) && utf8 n (r.drop k)
    if b.toNat < 0x80 then utf8 n r
    else if b.toNat / 32 = 6 then tail 1 0x80
    else if b.toNat / 16 = 14 then tail 2 0x800
    else if b.toNat / 8 = 30 then tail 3 0x10000
    else false

/-- Attributes up to the end of a tag: their names and values, whether the tag closes itself, and what follows. -/
def xmlAttrs : Nat → List Byte → Option (List (List Byte × List Byte) × Bool × List Byte)
  | 0, _ => none
  | n + 1, t =>
    match t.dropWhile xmlSpace with
    | 0x3E :: r => some ([], false, r)
    | 0x2F :: 0x3E :: r => some ([], true, r)
    | u =>
      let name := u.takeWhile xmlNameChar
      match (u.drop name.length).dropWhile xmlSpace with
      | 0x3D :: r =>
        match r.dropWhile xmlSpace with
        | q :: v =>
          let val := v.takeWhile (· != q)
          if name.isEmpty || !(q == 0x22 || q == 0x27) || v.length ≤ val.length then none
          else match xmlText val.length val, xmlAttrs n (v.drop (val.length + 1)) with
            | some x, some (l, c, rest) => some ((name, x) :: l, c, rest)
            | _, _ => none
        | [] => none
      | _ => none

/-- The bytes of a text that stand before its first that is no UTF-8. -/
def utf8Prefix (t : List Byte) : Nat :=
  ((List.range (t.length + 1)).reverse.find? fun n => utf8 n (t.take n)).getD 0

/-- An element as read: its number in the document, counted by opening tags from 0, its path of names from the root, its
attributes, its character data, the offset of its tag. -/
structure XmlEl where
  idx   : Nat := 0
  path  : List (List Byte)
  attrs : List (List Byte × List Byte)
  text  : List Byte
  off   : Nat
  deriving DecidableEq, Repr

/-- Append character data to the innermost open element. -/
def addText (x : List Byte) : List XmlEl → List XmlEl
  | e :: r => { e with text := e.text ++ x } :: r
  | [] => []

/-- A failure of the parser at an offset: its element is the innermost one that is open, and outside the root the next
(R311, notes/assumptions/62.md). -/
def xmlFail (open' done : List XmlEl) (off : Nat) : MsgErr :=
  { reason := 0x50, elem := (open'.head?.map XmlEl.idx).getD done.length, off := off }

/-- Read a document: `open'` are the elements not yet closed, innermost first; `done` those closed. -/
def xmlRead (total : Nat) : Nat → List Byte → List XmlEl → List XmlEl → Except MsgErr (List XmlEl)
  | 0, t, open', done => .error (xmlFail open' done (total - t.length))
  | n + 1, t, open', done =>
    let fail : Except MsgErr (List XmlEl) := .error (xmlFail open' done (total - t.length))
    match t with
    | [] => if open'.isEmpty && !done.isEmpty then .ok done else fail
    | 0x3C :: 0x2F :: r =>
      let name := r.takeWhile xmlNameChar
      match open', (r.drop name.length).dropWhile xmlSpace with
      | e :: es, 0x3E :: rest => if e.path.getLast? == some name then xmlRead total n rest es (done ++ [e]) else fail
      | _, _ => fail
    | 0x3C :: r =>
      let name := r.takeWhile xmlNameChar
      match xmlAttrs t.length (r.drop name.length) with
      | none => fail
      | some (as, self, rest) =>
        let e : XmlEl := { idx := open'.length + done.length, path := ((open'.head?.map XmlEl.path).getD []) ++ [name], attrs := as, text := [], off := total - t.length }
        if name.isEmpty || (open'.isEmpty && !done.isEmpty) then fail
        else if self then xmlRead total n rest open' (done ++ [e]) else xmlRead total n rest (e :: open') done
    | _ =>
      let chunk := t.takeWhile (· != 0x3C)
      match xmlText chunk.length chunk with
      | none => fail
      | some x => if open'.isEmpty && !chunk.all xmlSpace then fail else xmlRead total n (t.drop chunk.length) (addText x open') done

/-- Opening tags in a text, the one at which it ends included: the number of the element that a fault after it concerns. -/
def xmlOpened (t : List Byte) : Nat := ((t.zip (t.drop 1)).filter fun (p : Byte × Byte) => p.1 == 0x3C && p.2 != 0x2F).length - 1

/-- The elements of a document under a namespace; MSG_SYNTAX for what the parser refuses: text that is no UTF-8, an element
twice, a root of another namespace (R308, R309). -/
def xmlElems (ns doc : List Byte) : Except MsgErr (List XmlEl) :=
  if !utf8 doc.length doc then .error { reason := 0x50, elem := xmlOpened (doc.take (utf8Prefix doc)), off := utf8Prefix doc }
  else (xmlRead doc.length (doc.length + 1) doc [] []).bind fun l =>
    match l.find? fun e => e.idx == 0 && !e.attrs.contains (ascii "xmlns", ns), l.find? fun e => l.any fun x => x.path == e.path && decide (x.idx < e.idx) with
    | some e, _ => .error { reason := 0x50, elem := 0, off := e.off }
    | none, some e => .error { reason := 0x50, elem := e.idx, off := e.off }
    | none, none => .ok l

/-- An element to be written: path, attributes, text. -/
structure XmlLeaf where
  path  : List (List Byte)
  attrs : List (List Byte × List Byte)
  text  : List Byte
  deriving DecidableEq, Repr

/-- An opening tag. -/
def xmlOpen (name : List Byte) (attrs : List (List Byte × List Byte)) : List Byte :=
  [0x3C] ++ name ++ attrs.flatMap (fun a => [0x20] ++ a.1 ++ [0x3D, 0x22] ++ xmlEscape a.2 ++ [0x22]) ++ [0x3E]

/-- A closing tag. -/
def xmlClose (name : List Byte) : List Byte := [0x3C, 0x2F] ++ name ++ [0x3E]

/-- Names that two paths share from the root. -/
def sharedPath : List (List Byte) → List (List Byte) → Nat
  | a :: r, b :: t => if a = b then 1 + sharedPath r t else 0
  | _, _ => 0

/-- The document of a list of leaves, without white space between elements; the root carries the namespace (R309). -/
def xmlWrite (ns : List Byte) (ls : List XmlLeaf) : List Byte :=
  let attr (k : Nat) (as : List (List Byte × List Byte)) : List (List Byte × List Byte) := (if k = 0 then [(ascii "xmlns", ns)] else []) ++ as
  let (out, last) := ls.foldl (fun (st : List Byte × List (List Byte)) l =>
    let n := min (sharedPath st.2 l.path) (l.path.length - 1)
    let shut := (st.2.drop n).reverse.flatMap xmlClose
    let opened := (l.path.drop n).zipIdx.flatMap fun (x : List Byte × Nat) =>
      xmlOpen x.1 (attr (n + x.2) (if n + x.2 + 1 = l.path.length then l.attrs else []))
    (st.1 ++ shut ++ opened ++ xmlEscape l.text, l.path)) ([], [])
  out ++ last.reverse.flatMap xmlClose

/-! ### Conversions (Table 9.8) -/

/-- The alphabet of Base64. -/
def b64Chars : List Byte := ascii "ABCDEFGHIJKLMNOPQRSTUVWXYZabcdefghijklmnopqrstuvwxyz0123456789+/"

/-- Base64 of bytes. -/
def b64 (bs : List Byte) : List Byte :=
  (blocks 3 bs).flatMap fun g =>
    let v := beNat (fitBytes 3 g)
    (List.range 4).map fun i => if i ≤ g.length then b64Chars.getD (v / 64 ^ (3 - i) % 64) 0 else 0x3D

/-- Bytes of a Base64 text; none where it is not one. -/
def unb64 (t : List Byte) : Option (List Byte) :=
  let pad := if t.drop (t.length - 2) = [0x3D, 0x3D] then 2 else if t.drop (t.length - 1) = [0x3D] then 1 else 0
  let core := t.take (t.length - pad)
  if t.length % 4 ≠ 0 || !core.all (b64Chars.contains ·) then none
  else
    let all := (blocks 4 (core ++ List.replicate pad 0x41)).flatMap fun g => beBytes 3 (g.foldl (fun v c => v * 64 + b64Chars.idxOf c) 0)
    some (all.take (all.length - pad))

/-- A year of two digits under the century rule. -/
def centuryYear (mp : MsgMap) (yy : Nat) : Nat := if mp.pivot ≤ yy then 1900 + yy else 2000 + yy

/-- A date and a time of day that exist. -/
def dateOk (mo dd hh mi ss : Nat) : Bool := decide (1 ≤ mo) && decide (mo ≤ 12) && decide (1 ≤ dd) && decide (dd ≤ 31) && decide (hh ≤ 23) && decide (mi ≤ 59) && decide (ss ≤ 59)

/-- A date-time of ISO 8601. -/
def isoDateTime (y mo dd : Nat) (time : Option (Nat × Nat × Nat)) : List Byte :=
  decText 4 y ++ [0x2D] ++ decText 2 mo ++ [0x2D] ++ decText 2 dd ++ (match time with
    | some (h, m, s) => [0x54] ++ decText 2 h ++ [0x3A] ++ decText 2 m ++ [0x3A] ++ decText 2 s
    | none => [])

/-- Digits `i` and `i + 1` of a text. -/
def two (t : List Byte) (i : Nat) : Nat := (asciiNat 10 (cut t i 2)).getD 0

/-- DATETIME to ISO 8601, by the length of the element. -/
def dateOut (mp : MsgMap) (v : List Byte) : Option (List Byte) :=
  if !isDigits v then none
  else if v.length = 10 then
    if dateOk (two v 0) (two v 2) (two v 4) (two v 6) (two v 8) then some (isoDateTime mp.year (two v 0) (two v 2) (some (two v 4, two v 6, two v 8))) else none
  else if v.length = 6 then
    if dateOk (two v 2) (two v 4) 0 0 0 then some (isoDateTime (centuryYear mp (two v 0)) (two v 2) (two v 4) none) else none
  else if v.length = 12 then
    if dateOk (two v 2) (two v 4) (two v 6) (two v 8) (two v 10) then
      some (isoDateTime (centuryYear mp (two v 0)) (two v 2) (two v 4) (some (two v 6, two v 8, two v 10))) else none
  else none

/-- ISO 8601 to DATETIME digits of a length. -/
def dateIn (t : List Byte) (len : Nat) : Option (List Byte) :=
  let date := cut t 2 2 ++ cut t 5 2 ++ cut t 8 2
  let time := cut t 11 2 ++ cut t 14 2 ++ cut t 17 2
  let form (n : Nat) (marks : List (Nat × Nat)) : Bool := t.length == n && marks.all fun m => byteOf t m.1 == m.2
  let v := if len = 6 && form 10 [(4, 0x2D), (7, 0x2D)] then some date
    else if form 19 [(4, 0x2D), (7, 0x2D), (10, 0x54), (13, 0x3A), (16, 0x3A)] then
      (if len = 12 then some (date ++ time) else if len = 10 then some (date.drop 2 ++ time) else none)
    else none
  v.bind fun d => if isDigits d && isDigits (t.take 4) then some d else none

/-- A numeric value without leading zeros. -/
def stripZeros (v : List Byte) : List Byte :=
  let r := v.dropWhile (· == 0x30)
  if r.isEmpty then [0x30] else r

/-- An amount of `e` decimal places as a decimal text. -/
def amountOut (e : Nat) (v : List Byte) : List Byte :=
  let t := List.replicate (e + 1 - v.length) 0x30 ++ v
  stripZeros (t.take (t.length - e)) ++ (if e = 0 then [] else [0x2E] ++ t.drop (t.length - e))

/-- A decimal text as digits with `e` decimal places; none for more places or another character. -/
def amountIn (e : Nat) (t : List Byte) : Option (List Byte) :=
  let whole := t.takeWhile (· != 0x2E)
  let frac := t.drop (whole.length + 1)
  if isDigits whole && (frac.isEmpty || isDigits frac) && decide (frac.length ≤ e) && (t.length == whole.length || !frac.isEmpty) then
    some (whole ++ frac ++ List.replicate (e - frac.length) 0x30) else none

/-- The value of an element or subfield on the ISO 8583 side. -/
def MapEnt.part (e : MapEnt) (v : List Byte) : List Byte := match e.sub with
  | some (o, n) => cut v o n
  | none => v

/-- Letters and exponent of the currency of DE 49. -/
def MsgMap.currency (mp : MsgMap) (de49 : List Byte) : Option (List Byte × Nat) := (mp.curr.find? fun c => c.1 == de49).map Prod.snd

/-- A value of the ISO 8583 side as text and attributes of the ISO 20022 side. -/
def convOut (mp : MsgMap) (e : MapEnt) (de49 : List Byte) (v : List Byte) : Option (List Byte × List (List Byte × List Byte)) :=
  match e.conv with
  | .copy => if utf8 v.length v then some (v, []) else none
  | .decimal => if isDigits v then some (stripZeros v, []) else none
  | .amount => if !isDigits v then none else (mp.currency de49).map fun c => (amountOut c.2 v, [(ascii "Ccy", c.1)])
  | .datetime => (dateOut mp v).map fun t => (t, [])
  | .code => (e.codes.find? fun c => c.1 == v).map fun c => (c.2, [])
  | .binary => some (b64 v, [])

/-- A text padded with leading zeros to the fixed length of its element; none where it is longer. -/
def padDigits (f : DeFmt) (t : List Byte) : Option (List Byte) :=
  if f.len < t.length then none else some (if f.rule = .fixed then List.replicate (f.len - t.length) 0x30 ++ t else t)

/-- An element of the ISO 20022 side as a value of the ISO 8583 side. -/
def convIn (mp : MsgMap) (e : MapEnt) (f : DeFmt) (x : XmlEl) : Option (List Byte) :=
  match e.conv with
  | .copy => some x.text
  | .decimal => if isDigits x.text then padDigits f (stripZeros x.text) else none
  | .amount => ((x.attrs.find? fun a => a.1 == ascii "Ccy").bind fun a => mp.curr.find? fun c => c.2.1 == a.2).bind fun c => (amountIn c.2.2 x.text).bind fun v => padDigits f (if f.rule = .fixed then v else stripZeros v)
  | .datetime => dateIn x.text (match e.sub with
    | some (_, n) => n
    | none => f.len)
  | .code => (e.codes.find? fun c => c.2 == x.text).map Prod.fst
  | .binary => unb64 x.text

/-! ### Translation -/

/-- The value of an element of a message. -/
def deOf (vs : List DeVal) (d : Nat) : Option DeVal := vs.find? fun v => v.de == d

/-- The leaves of the output document; the first failure ends the translation. -/
def xmlLeaves (mp : MsgMap) (vs : List DeVal) : Except MsgErr (List XmlLeaf) :=
  let de49 := ((deOf vs 49).map DeVal.val).getD []
  mp.ents.foldl (fun l e => l.bind fun l =>
    match deOf vs e.de with
    | none => if e.mandatory then .error { reason := 0x51, elem := e.de } else .ok l
    | some v =>
      match convOut mp e de49 (e.part v.val) with
      | none => .error { reason := 0x52, elem := e.de, off := v.off }
      | some (t, as) => .ok (l ++ [{ path := e.path.map fun i => mp.names.getD i [], attrs := as, text := t }])) (.ok [])

/-- The data elements of the output message by number; subfields of one element fill it in place. -/
def isoFields (mp : MsgMap) (xs : List XmlEl) : Except MsgErr (List (Nat × List Byte)) :=
  mp.ents.zipIdx.foldl (fun l (x : MapEnt × Nat) => l.bind fun l =>
    let e := x.1
    match xs.find? fun el => el.path == e.path.map fun i => mp.names.getD i [] with
    | none => if e.mandatory then .error { reason := 0x51, elem := x.2 } else .ok l
    | some el =>
      match (mp.fmts.find? fun f => f.de == e.de).bind fun f => (convIn mp e f el).map fun v => (f, v) with
      | none => .error { reason := 0x52, elem := el.idx, off := el.off }
      | some (f, v) =>
        let old := ((l.find? fun (p : Nat × List Byte) => p.1 == e.de).map Prod.snd).getD (List.replicate f.len 0x20)
        let new := match e.sub with
          | some (o, n) => old.take o ++ fitBytes n v ++ old.drop (o + n)
          | none => v
        .ok (l.filter (fun p => p.1 != e.de) ++ [(e.de, new)])) (.ok [])

/-- A value that does not fit its data element failed at the element of the document that gave it. -/
def MsgMap.source (mp : MsgMap) (xs : List XmlEl) (e : MsgErr) : MsgErr :=
  match (mp.ents.find? fun x => x.de == e.elem).bind fun x => xs.find? fun el => el.path == x.path.map fun i => mp.names.getD i [] with
  | some el => { e with elem := el.idx, off := el.off }
  | none => e

/-- Elements in ascending order. -/
def byNumber (l : List (Nat × List Byte)) : List (Nat × List Byte) := l.mergeSort fun a b => decide (a.1 ≤ b.1)

/-- r ‖ s of an ECDSA P-256 signature over a SHA-256 digest, with the nonce of a random draw. -/
def p256Sign (k : SvcKey) (digest : List Byte) (draw : Nat) : List Byte :=
  let (r, s) := p256.sign (beNat (k.mat.take 32)) (extraBits p256.n (randBytes draw 48)) (beNat digest)
  beBytes 32 r ++ beBytes 32 s

/-- An ECDSA P-256 signature r ‖ s verifies under a public key x ‖ y. -/
def p256Verify (k : SvcKey) (digest sig : List Byte) : Bool :=
  let r := beNat (sig.take 32)
  let s := beNat (sig.drop 32)
  decide (1 ≤ r) && decide (r < p256.n) && decide (1 ≤ s) && decide (s < p256.n)
    && p256.verify (beNat (k.mat.take 32), beNat (cut k.mat 32 32)) (beNat digest) r s

/-- PARAM, length and key checks of both directions. -/
def SvcReq.msgChecks (q : SvcReq) (maps : List MsgMap) (toXml : Bool) (alg : Nat) : List SvcCheck :=
  [ { reason := 0x01, failed := !zeroFrom q.param 1 || (match maps[q.p 0]? with
      | some m => m.toXml != toXml
      | none => true) },
    { reason := 0x02, failed := decide (4096 < q.input.length) },
    { reason := 0x22, failed := q.key1.alg != alg || !q.key2.isAes } ]

/-- Result bytes 2 to 7 of a translation (R311). -/
def msgTail (e : Option MsgErr) : List Byte := match e with
  | some e => leBytes 2 e.elem ++ leBytes 4 e.off
  | none => List.replicate 6 0

/-- The failure of a step. -/
def errOf {α : Type} (x : Except MsgErr α) : Option MsgErr := match x with
  | .error e => some e
  | .ok _ => none

/-- A check for each REASON of a message failure. -/
def msgCheck (e : Option MsgErr) : SvcCheck := { reason := (e.map MsgErr.reason).getD 0x50, failed := e.isSome }

/-- MSG_8583_20022 (R310): the MAC of the message, then the document and its signature. -/
def msgToXml (maps : List MsgMap) (q : SvcReq) : SvcPost :=
  let pre := q.msgChecks maps true 0x10
  match maps[q.p 0]? with
  | none => svcPost pre [] [] q.latch
  | some mp =>
    let parsed := readIso mp q.input
    let vs := (match parsed with
      | .ok p => p.2
      | .error _ => [])
    let leaves := parsed.bind fun p => xmlLeaves mp p.2
    let err := errOf leaves
    let mac := deOf vs mp.macDe
    let macBad := match mac with
      | some v => (cmac q.key2 (q.input.take v.off)).take 8 != v.val.take 8
      | none => true
    let doc := match leaves with
      | .ok l => xmlWrite mp.ns l
      | .error _ => []
    let cs := pre ++ [msgCheck err, { reason := 0x10, bit := some 0, failed := macBad }]
    svcPost cs (msgTail err) (doc ++ p256Sign q.key1 (sha256 doc) q.draw) q.latch

/-- MSG_20022_8583 (R310): the signature of the document, then the message with its CMAC. -/
def msgFromXml (maps : List MsgMap) (q : SvcReq) : SvcPost :=
  let pre := q.msgChecks maps false 0x18
  let n := q.input.length - 64
  let doc := q.input.take n
  match maps[q.p 0]? with
  | none => svcPost pre [] [] q.latch
  | some mp =>
    let els := xmlElems mp.ns doc
    let fields := els.bind (isoFields mp)
    let msg := fields.bind fun l =>
      match writeIso mp (byNumber ((l.filter fun p => p.1 != mp.macDe) ++ [(mp.macDe, List.replicate 8 0)])) with
      | .ok m => .ok m
      | .error e => .error (mp.source (els.toOption.getD []) e)
    let err := errOf msg
    let out := match msg with
      | .ok m =>
        let body := m.take (m.length - 8)
        body ++ (cmac q.key2 body).take 8
      | .error _ => []
    let cs := pre ++ [{ reason := 0x02, failed := decide (q.input.length < 64) }, msgCheck err,
      { reason := 0x13, bit := some 1, failed := !p256Verify q.key1 (sha256 doc) (q.input.drop n) }]
    svcPost cs (msgTail err) out q.latch

end Sys2Proof.Machine
end

