-- ==== Sys2Proof/Machine/ServiceAudit.lean ====
section
/-!
DEFINITION. Transaction services of the standard rig, fourth part: service words (R288, R289), scorecards (R312, R313), audit
records (R314, R318) and the authorization service (R319, R320).
-/
set_option autoImplicit false

namespace Sys2Proof.Machine

/-! ### Service words (R288, Table 9.1) -/

/-- AUDIT of a SERVICE word. -/
def svcAudit (w : Nat) : Bool := bitOf w 31

/-- SVC of a SERVICE word: 0 for a customer class. -/
def svcNumber (w : Nat) : Nat := w % 2 ^ 16

/-- A SERVICE word whose reserved bits are zero. -/
def svcWordOk (w : Nat) : Bool := bitsOf w 16 15 == 0

/-- The services of the standard library (Table 9.1). -/
def standardServices : List Nat :=
  [0x0101, 0x0102, 0x0201, 0x0301, 0x0302, 0x0401, 0x0402, 0x0501, 0x0502, 0x0601, 0x0701, 0x0702, 0x0801] ++ (List.range 5).map (0x0901 + ·) ++ (List.range 6).map (0x0A01 + ·)

/-- Services that use the second key handle; the handle of any other is zero (Table 9.1, R290). -/
def svcUsesKey2 (n : Nat) : Bool := [0x0101, 0x0102, 0x0501, 0x0502, 0x0801].contains n

/-! ### Scorecards (Table 9.9) -/

/-- A feature of a scorecard: the place of its value, BIAS, SCALE, and the entries of its table. -/
structure Feature where
  src   : Nat
  bias  : Int
  scale : Nat
  table : List Int
  deriving DecidableEq, Repr

/-- A scorecard: base score, thresholds and features. -/
structure Scorecard where
  base  : Int
  t1    : Int
  t2    : Int
  t3    : Int
  feats : List Feature
  deriving DecidableEq, Repr

/-- A signed word of a byte string. -/
def sWord (b : List Byte) (o : Nat) : Int := (BitVec.ofNat 32 (leNat (cut b o 4))).toInt

/-- The record at data RAM address `a` of a data RAM image that starts at 0x0001_0000 (Table 9.9). -/
def scorecardAt (ram : List Byte) (a : Nat) : Scorecard :=
  let r := ram.drop (a - 0x10000)
  { base := sWord r 0x04, t1 := sWord r 0x08, t2 := sWord r 0x0C, t3 := sWord r 0x10,
    feats := (List.range (leNat (cut r 0 2))).map fun j =>
      let f := r.drop (0x14 + 16 * j)
      let t := leNat (cut f 12 4) - 0x10000
      { src := leNat (cut f 0 4), bias := sWord f 4, scale := leNat (cut f 8 4),
        table := (List.range (leNat (cut ram (t - 4) 4))).map fun i => sWord ram (t + 4 * i) } }

/-- The 16.16 index of a feature value (R313). -/
def featIndex (f : Feature) (x : Nat) : Nat :=
  let d : Int := (x : Int) - f.bias
  if d < 0 then 0 else min 0xFFFFFFFF (d.toNat * f.scale)

/-- The look-up of a feature, by TLI: its points and V (R110). -/
def featPoints (f : Feature) (x : Nat) : Int × Bool :=
  let i := featIndex f x
  let k := i / 65536
  tliOf f.table.length k (i % 65536) (f.table.getD k 0) (f.table.getD (k + 1) 0) (f.table.getD (f.table.length - 1) 0)

/-- Score, band and CLAMPED. -/
structure Score where
  score   : Int
  band    : Nat
  clamped : Nat
  deriving DecidableEq, Repr

/-- A scorecard on the values of its features, in order (R313). -/
def Scorecard.eval (c : Scorecard) (xs : List Nat) : Score :=
  let ps := c.feats.zipIdx.map fun (e : Feature × Nat) => featPoints e.1 (xs.getD e.2 0)
  let sum := ps.foldl (fun v (p : Int × Bool) => v + p.1) c.base
  let score := max (-(2 ^ 31)) (min (2 ^ 31 - 1) sum)
  { score := score, band := if score < c.t1 then 0 else if score < c.t2 then 1 else if score < c.t3 then 2 else 3,
    clamped := (ps.filter Prod.snd).length }

/-- Result bytes 2 to 7 of a score. -/
def Score.tail (r : Score) : List Byte := [BitVec.ofNat 8 r.band, BitVec.ofNat 8 r.clamped] ++ leBytes 4 (BitVec.ofInt 32 r.score).toNat

/-- SCORE (R313): PARAM byte 0 is the scorecard number. -/
def scoreService (cards : List Scorecard) (q : SvcReq) : SvcPost :=
  let pre : SvcCheck := { reason := 0x01, failed := q.h1 != 0 || q.h2 != 0 || !zeroFrom q.param 1 || cards.length ≤ q.p 0 }
  match cards[q.p 0]? with
  | none => svcPost [pre] [] [] q.latch
  | some c =>
    let cs := [pre, { reason := 0x02, failed := q.input.length != 4 * c.feats.length }]
    svcPost cs (c.eval (c.feats.map fun f => leNat (cut q.input f.src 4))).tail [] q.latch

/-! ### Audit records (R314, R315, Table 9.10) -/

/-- What a record takes from the item, its class and its slot. -/
structure AuditItem where
  service   : Nat
  eframe    : Nat
  headFrame : Nat
  part      : Nat
  cls       : Nat
  ring      : Nat
  seq       : Nat
  tag       : Nat
  slotEnd   : Nat
  frames    : Nat
  keys      : List Nat
  deriving DecidableEq, Repr

/-- The 256 B record of an item and of what its class posts. -/
def auditRecord (a : AuditItem) (p : SvcPost) (detail : List Byte) : List Byte :=
  leBytes 4 0x5241584F ++ leBytes 4 a.service ++ leBytes 8 a.eframe ++ leBytes 8 a.headFrame ++ leBytes 1 a.part ++ leBytes 1 a.cls ++ leBytes 2 a.ring
    ++ leBytes 4 a.seq ++ leBytes 2 a.tag ++ leBytes 2 a.slotEnd ++ leBytes 1 p.status ++ fitBytes 2 p.result ++ leBytes 1 a.frames
    ++ fitBytes 8 p.result ++ fitBytes 24 (a.keys.flatMap (leBytes 4)) ++ fitBytes 184 detail

/-- The record link. -/
def recordLink (headIn record : List Byte) : List Byte := sha3_256 (fitBytes 32 headIn ++ record)

/-- The buffer bound of an audited class. -/
def auditBufOk (bufLen maxIn maxOut : Nat) : Bool := decide (maxIn + maxOut + 128 ≤ 64 * bufLen)

/-- A class posts with its link: L stands in the chain block where the class posts OK or AUTH_FAIL, and nowhere else (R315). -/
def SvcPost.linked (p : SvcPost) (l : List Byte) : SvcPost :=
  if p.status = 0 || p.status = 1 then { p with link := some l } else p

/-- What a standard class of Table 9.1 posts when its SERVICE word has AUDIT: beside its own output it builds the record of the
item, with the DETAIL of its service, and links it. The spec gives DETAIL fields to the services 0x0701, 0x0702 and 0x0801; that
of another service is zero (notes/assumptions/62.md). -/
def auditPost (a : AuditItem) (headIn : List Byte) (p : SvcPost) : SvcPost :=
  if svcAudit a.service then p.linked (recordLink headIn (auditRecord a p [])) else p

/-- AUDIT_ECDSA: record, L and signature (R318). -/
def auditEcdsa (a : AuditItem) (headIn : List Byte) (q : SvcReq) : SvcPost :=
  let cs : List SvcCheck := [
    { reason := 0x01, failed := q.h2 != 0 || !zeroFrom q.param 0 }, { reason := 0x02, failed := decide (184 < q.input.length) },
    { reason := 0x22, failed := q.key1.alg != 0x10 } ]
  let rec' := auditRecord a (svcPost cs [] [] q.latch) q.input
  let l := recordLink headIn rec'
  (svcPost cs [] (rec' ++ l ++ p256Sign q.key1 l q.draw) q.latch).linked l

/-- AUDIT_MLDSA: record, L and the ML-DSA-44 signature of L with the context OXAUDIT, when an iteration accepts within
`n` of them (R318). -/
def auditMldsa (a : AuditItem) (headIn : List Byte) (n : Nat) (q : SvcReq) : Option SvcPost :=
  let cs : List SvcCheck := [
    { reason := 0x01, failed := q.h2 != 0 || !zeroFrom q.param 0 }, { reason := 0x02, failed := decide (184 < q.input.length) },
    { reason := 0x22, failed := q.key1.alg != 0x40 } ]
  let rec' := auditRecord a (svcPost cs [] [] q.latch) q.input
  let l := recordLink headIn rec'
  let xi := q.key1.mat.take 32
  (mldsaLoop (mldsaPrep xi (mldsaMu (mldsaPk xi) (ascii "OXAUDIT") l) (randBytes q.draw 32)) n 0).map fun g =>
    (svcPost cs [] (rec' ++ l ++ g.1) q.latch).linked l

/-! ### AUTHORIZE (R319, R320) -/

/-- A class profile of AUTHORIZE: the request's message format (version, MTI coding, data elements), the MAC field, the EMV
tags for ARQC and ATC and those whose values are the transaction data, the PIN formats, the ARPC method, the scorecard whose
SRC are data element numbers, the elements copied into the response, and the response code table. -/
structure AuthProfile where
  msg      : MsgMap
  macDe    : Nat
  tagArqc  : Nat
  tagAtc   : Nat
  tagData  : List Nat
  fmtIn    : Nat
  fmtOut   : Nat
  method   : Nat
  card     : Scorecard
  copied   : List Nat
  codes    : List (List Byte)
  deriving DecidableEq, Repr

/-- The six handles of AUTHORIZE: KEY1 and KEY2 of the descriptor, KEY3 to KEY6 in PARAM bytes 0 to 15 (R319). -/
def SvcReq.handles (q : SvcReq) : List Nat := [q.h1, q.h2] ++ (List.range 4).map fun i => leNat (cut q.param (4 * i) 4)

/-- Tag and length of a BER-TLV object and what follows them: tags of one or two bytes, lengths of one to three. -/
def tlvHead (t : List Byte) : Option (Nat × Nat × List Byte) :=
  let b0 := byteOf t 0
  let two := b0 % 32 = 31
  let tag := if two then b0 * 256 + byteOf t 1 else b0
  let u := t.drop (if two then 2 else 1)
  match u with
  | [] => none
  | l :: r =>
    if l.toNat < 0x80 then some (tag, l.toNat, r)
    else if l = 0x81 && 1 ≤ r.length then some (tag, byteOf r 0, r.drop 1)
    else if l = 0x82 && 2 ≤ r.length then some (tag, beNat (r.take 2), r.drop 2)
    else none

/-- The objects of a BER-TLV text. -/
def tlvList : Nat → List Byte → Option (List (Nat × List Byte))
  | 0, t => if t.isEmpty then some [] else none
  | n + 1, t =>
    if t.isEmpty then some []
    else match tlvHead t with
      | none => none
      | some (tag, len, r) => if r.length < len then none else (tlvList n (r.drop len)).map fun l => (tag, r.take len) :: l

/-- The value of a tag. -/
def tlvGet (l : List (Nat × List Byte)) (tag : Nat) : Option (List Byte) := (l.find? fun (e : Nat × List Byte) => e.1 == tag).map Prod.snd

/-- What AUTHORIZE reads of a request. -/
structure AuthReq where
  mti   : List Byte
  vals  : List DeVal
  pan   : List Byte
  seq   : List Byte
  pin   : Option (List Byte)
  emv   : List (Nat × List Byte)
  mac   : DeVal
  arqc  : List Byte
  atc   : List Byte
  deriving DecidableEq, Repr

/-- The parse step. -/
def authParse (f : AuthProfile) (m : List Byte) : Except MsgErr AuthReq :=
  (readIso f.msg m).bind fun p =>
    let get (d : Nat) : Except MsgErr DeVal := match deOf p.2 d with
      | some v => .ok v
      | none => .error { reason := 0x51, elem := d }
    (get 2).bind fun pan => (get 55).bind fun de55 => (get f.macDe).bind fun mac =>
      match tlvList de55.val.length de55.val with
      | none => .error { reason := 0x50, elem := 55, off := de55.off }
      | some tl =>
        match tlvGet tl f.tagArqc, tlvGet tl f.tagAtc with
        | some arqc, some atc =>
          if !isDigits pan.val || pan.val.length < 12 || 19 < pan.val.length || arqc.length ≠ 8 || atc.length ≠ 2 then .error { reason := 0x52, elem := 2, off := pan.off }
          else .ok { mti := p.1, vals := p.2, pan := pan.val, seq := ((deOf p.2 23).map DeVal.val).getD (ascii "000"),
                     pin := (deOf p.2 52).map DeVal.val, emv := tl, mac := mac, arqc := arqc, atc := atc }
        | _, _ => .error { reason := 0x51, elem := 55, off := de55.off }

/-- A PAN in digits packed and left-justified in 10 B, filled with 0xF. -/
def panPacked (ds : List Nat) : List Byte := ofNibbles (ds ++ List.replicate (20 - ds.length) 0xF)

/-- A PAN with its first six and last four digits kept and the others set to 0xE. -/
def panMasked (ds : List Nat) : List Byte :=
  panPacked (ds.zipIdx.map fun (x : Nat × Nat) => if x.2 < 6 || ds.length ≤ x.2 + 4 then x.1 else 0xE)

/-- The digits of a text. -/
def textDigits (t : List Byte) : List Nat := t.map fun b => b.toNat % 16

/-- The response code: MAC failure, ARQC failure, band 3, band 2, otherwise (R320). -/
def authCode (codes : List (List Byte)) (macBad arqcBad : Bool) (band : Nat) : List Byte :=
  codes.getD (if macBad then 0 else if arqcBad then 1 else if band = 3 then 2 else if band = 2 then 3 else 4) []

/-- The MTI of the response: the function digit of the request, raised by one (notes/assumptions/62.md). -/
def responseMti (mti : List Byte) : List Byte := mti.mapIdx fun i b => if i = 2 then b + 1 else b

/-- The data elements of the response: those copied, DE 39 and the MAC field. -/
def authFields (f : AuthProfile) (r : AuthReq) (code : List Byte) : List (Nat × List Byte) :=
  byNumber ((r.vals.filter fun v => f.copied.contains v.de && v.de != 39 && v.de != f.macDe).map (fun v => (v.de, v.val)) ++ [(39, code), (f.macDe, List.replicate 8 0)])

/-- The bytes of DETAIL of AUTHORIZE, packed in the order of R320. -/
def authDetail (r : AuthReq) (arpc respMac code : List Byte) (sc : Score) : List Byte :=
  let de (d n : Nat) (f : List Byte → List Byte) : List Byte := fitBytes n (f (((deOf r.vals d).map DeVal.val).getD []))
  let ds := textDigits r.pan
  fitBytes 2 (bcdPack r.mti) ++ panMasked ds ++ [BitVec.ofNat 8 ds.length] ++ de 4 6 bcdPack ++ de 49 2 bcdPack ++ de 11 3 bcdPack ++ de 37 12 id
    ++ fitBytes 2 r.atc ++ fitBytes 8 r.arqc ++ fitBytes 8 arpc ++ fitBytes 16 r.mac.val ++ fitBytes 16 respMac ++ fitBytes 2 code
    ++ leBytes 4 (BitVec.ofInt 32 sc.score).toNat

/-- The values of a scorecard's features in a request; a step after a failed parse runs on zeros (R292). -/
def AuthProfile.values (f : AuthProfile) (vs : List DeVal) : List Nat :=
  f.card.feats.map fun x => ((deOf vs x.src).bind fun v => decNat v.val).getD 0

/-- AUTHORIZE: the steps in order: parse, inbound MAC, ARQC and ARPC, PIN translation, score, response and its MAC,
record, link and signature. KEY1 is the issuer master key, KEY2 the audit key, and `ks` gives the key of each handle of PARAM
(R319, R320). The ARPC of step 3 covers a response code that the spec does not name there: Config.arpcCode of what is known at
that step. -/
def authorize (f : AuthProfile) (ks : Nat → SvcKey) (a : AuditItem) (headIn : List Byte) (q : SvcReq) : SvcPost :=
  let key (i : Nat) : SvcKey := ks (q.handles.getD (i - 1) 0)
  match authParse f q.input with
  | .error e => svcPost [msgCheck (some e)] (f.card.eval (f.values [])).tail [] q.latch
  | .ok r =>
    let ds := textDigits r.pan
    let panB := panPacked ds
    let macBad := (cmac (key 5) (q.input.take r.mac.off)).take 8 != r.mac.val.take 8
    let sk := emvSession (iccMaster q.key1 ds.length panB (BitVec.ofNat 8 ((decNat r.seq).getD 0 % 100 / 10 * 16 + (decNat r.seq).getD 0 % 10))) r.atc
    let data := f.tagData.flatMap fun t => (tlvGet r.emv t).getD []
    let arqcBad := (emvMac sk data).take 8 != r.arqc
    let arpc := arpcOf sk f.method r.arqc (Config.arpcCode f.codes macBad arqcBad) []
    let (pinBlk, pinBad) := match r.pin with
      | some b => pinXlateBlock f.fmtIn f.fmtOut (key 3) (key 4) (fitBytes 16 b) (panField f.fmtIn ds.length panB) (panField f.fmtOut ds.length panB) q.draw
      | none => (List.replicate 16 0, false)
    let sc := f.card.eval (f.values r.vals)
    let code := authCode f.codes macBad arqcBad sc.band
    let built := writeIso { f.msg with mti := responseMti r.mti } (authFields f r code)
    let msg := built.toOption.getD []
    let body := msg.take (msg.length - 8)
    let respMac := cmac (key 6) body
    let cs : List SvcCheck := [
      { reason := 0x22, failed := (key 5).alg != 3 },
      { reason := 0x10, bit := some 0, failed := macBad },
      { reason := 0x22, failed := !emvKeyOk q.key1 },
      { reason := 0x11, bit := some 1, failed := arqcBad },
      { reason := 0x22, failed := !pinKeyOk f.fmtIn (key 3) || !pinKeyOk f.fmtOut (key 4) },
      { reason := 0x20, bit := some 2, failed := pinBad },
      msgCheck (errOf built),
      { reason := 0x22, failed := (key 6).alg != 3 || q.key2.alg != 0x10 } ]
    let post := svcPost cs sc.tail [] q.latch
    let rec' := auditRecord { a with keys := q.handles } post (authDetail r arpc respMac code sc)
    let l := recordLink headIn rec'
    (svcPost cs sc.tail (body ++ respMac.take 8 ++ p256Sign q.key2 l q.draw ++ rec' ++ l ++ fitBytes 16 pinBlk) q.latch).linked l

end Sys2Proof.Machine
end

