-- ==== Sys2Proof/Machine/ServiceData.lean ====
section
/-!
DEFINITION. Transaction services of the standard rig, fifth part: the signature services 0x0901 to 0x0905 and the data services
0x0A01 to 0x0A06 (R289). Table 9.1 gives their keys, what PARAM holds and what they write; where input and PARAM place it is the
model's choice (notes/assumptions/82.md).
-/
set_option autoImplicit false

namespace Sys2Proof.Machine

/-! ### Signatures (0x0901 to 0x0905) -/

/-- The curve that PARAM names, by its code in DOM, with the ALG of its private key; the public key's lies 8 above (Table 8.2). -/
def svcCurve (code : Nat) : Option (EcDom × Nat) := (ecDom code).map fun e => (e, 0x0F + code)

/-- The PARAM, length and key checks that the services of this file begin with. -/
def SvcReq.dataChecks (q : SvcReq) (paramOk lenOk keyOk : Bool) : List SvcCheck :=
  [ { reason := 0x01, failed := q.h2 != 0 || !paramOk }, { reason := 0x02, failed := !lenOk }, { reason := 0x22, failed := !keyOk } ]

/-- ECDSA_SIGN: the input is the digest, the output r ‖ s; PARAM byte 0 is the curve. -/
def ecdsaSign (q : SvcReq) : SvcPost :=
  match svcCurve (q.p 0) with
  | none => svcPost (q.dataChecks false true true) [] [] q.latch
  | some (e, alg) =>
    let cs := q.dataChecks (zeroFrom q.param 1) (!q.input.isEmpty && decide (q.input.length ≤ 64)) (q.key1.alg == alg)
    let h := ecTrunc e.c.n q.input
    let (r, t) := e.c.sign (beNat (q.key1.mat.take e.bytes)) (extraBits e.c.n (randBytes q.draw (e.bytes + 16))) h
    svcPost cs [] (beBytes e.bytes r ++ beBytes e.bytes t) q.latch

/-- ECDSA_VERIFY: the input is the digest followed by r ‖ s; it writes nothing. -/
def ecdsaVerify (q : SvcReq) : SvcPost :=
  match svcCurve (q.p 0) with
  | none => svcPost (q.dataChecks false true true) [] [] q.latch
  | some (e, alg) =>
    let b := e.bytes
    let n := q.input.length - 2 * b
    let cs := q.dataChecks (zeroFrom q.param 1) (decide (2 * b < q.input.length) && decide (n ≤ 64)) (q.key1.alg == alg + 8)
    let x := beNat (q.key1.mat.take b)
    let y := beNat (cut q.key1.mat b b)
    let r := beNat (cut q.input n b)
    let t := beNat (q.input.drop (n + b))
    let ok := decide (0 < r) && decide (r < e.c.n) && decide (0 < t) && decide (t < e.c.n) && e.c.on x y && e.c.verify (x, y) (ecTrunc e.c.n (q.input.take n)) r t
    svcPost (cs ++ [{ reason := 0x13, bit := some (Config.checkBit 0x0902 % 8), failed := !ok }]) [] [] q.latch

/-- The private operation of an RSA key p ‖ q ‖ dp ‖ dq ‖ qinv with the Chinese remainder theorem (R209). -/
def rsaPrivate (mat : List Byte) (c : Nat) : Nat :=
  let n := mat.length / 5
  let part (i : Nat) : Nat := beNat (cut mat (n * i) n)
  let mp := modPow (part 0) (c % part 0) (part 2)
  let mq := modPow (part 1) (c % part 1) (part 3)
  mq + part 1 * ((mp + part 0 - mq % part 0) * part 4 % part 0)

/-- RSA_SIGN: the input is the padded message, as long as the modulus; a message of zero or at or above the modulus is refused
as RSA_FINISH refuses it (Table 6.9). -/
def rsaSign (q : SvcReq) : SvcPost :=
  let n := q.key1.mat.length / 5
  let m := beNat q.input
  let cs := q.dataChecks (zeroFrom q.param 0) (q.input.length == 2 * n) (q.key1.alg == 0x30)
  let latch := if firstReason cs ≠ 0 then q.latch else if m = 0 then some stInputZero
    else if beNat (q.key1.mat.take n) * beNat (cut q.key1.mat n n) ≤ m then some stInputRange else q.latch
  svcPost cs [] (beBytes (2 * n) (rsaPrivate q.key1.mat m)) latch

/-- MLDSA_SIGN: the input is the context, whose length PARAM byte 0 gives, and the message; where an iteration accepts within
`n` of them, it writes the signature. -/
def mldsaSign (n : Nat) (q : SvcReq) : Option SvcPost :=
  let cs := q.dataChecks (zeroFrom q.param 1) (decide (q.p 0 ≤ q.input.length)) (q.key1.alg == 0x40)
  let xi := q.key1.mat.take 32
  let mu := mldsaMu (mldsaPk xi) (q.input.take (q.p 0)) (q.input.drop (q.p 0))
  (mldsaLoop (mldsaPrep xi mu (randBytes q.draw 32)) n 0).map fun g => svcPost cs [] g.1 q.latch

/-- MLDSA_VERIFY: context, message and a signature of 2,420 B; it writes nothing. -/
def mldsaVerifySvc (q : SvcReq) : SvcPost :=
  let n := q.input.length - 2420
  let cs := q.dataChecks (zeroFrom q.param 1) (decide (q.p 0 + 2420 ≤ q.input.length)) (q.key1.alg == 0x41)
  let mu := mldsaMu q.key1.mat (q.input.take (q.p 0)) (cut q.input (q.p 0) (n - q.p 0))
  svcPost (cs ++ [{ reason := 0x13, bit := some (Config.checkBit 0x0905 % 8), failed := !mldsaVerifyMu q.key1.mat mu (q.input.drop n) }]) [] [] q.latch

/-! ### Data (0x0A01 to 0x0A06, R166 to R168) -/

/-- IV or nonce and tag length in PARAM: 12 B, then the length. -/
def SvcReq.iv12 (q : SvcReq) : List Byte := q.param.take 12

/-- A tag length of PARAM byte 12 that the mode allows. -/
def SvcReq.tagOk (q : SvcReq) (lens : List Nat) : Bool := zeroFrom q.param 13 && lens.contains (q.p 12)

/-- Tag lengths of GCM (SP 800-38D) and of CCM (SP 800-38C). -/
def gcmTagLens : List Nat := [4, 8, 12, 13, 14, 15, 16]
def ccmTagLens : List Nat := [4, 6, 8, 10, 12, 14, 16]

/-- AES_GCM_ENC: ciphertext and tag. -/
def aesGcmEnc (q : SvcReq) : SvcPost :=
  let (ct, tag) := gcmSeal q.key1.mat q.iv12 [] q.input
  svcPost (q.dataChecks (q.tagOk gcmTagLens) true q.key1.isAes) [] (ct ++ tag.take (q.p 12)) q.latch

/-- AES_GCM_DEC: the whole plaintext is written whatever the tag says, and a mismatch posts AUTH_FAIL (R166). -/
def aesGcmDec (q : SvcReq) : SvcPost :=
  let n := q.input.length - q.p 12
  let ct := q.input.take n
  let cs := q.dataChecks (q.tagOk gcmTagLens) (decide (q.p 12 ≤ q.input.length)) q.key1.isAes
  let bad := (gcmTag q.key1.mat q.iv12 [] ct).take (q.p 12) != q.input.drop n
  svcPost (cs ++ [{ reason := 0x10, bit := some (Config.checkBit 0x0A02 % 8), failed := bad }]) [] (gcmXor q.key1.mat q.iv12 ct) q.latch

/-- A text XORed with the key stream of consecutive counter blocks of 16 B. -/
def ctrXor (k : SvcKey) (ctr : List Byte) (text : List Byte) : List Byte :=
  let bs := blocks 16 text
  ((bs.zip (List.range bs.length)).map fun (e : List Byte × Nat) => xorBytes e.1 (k.enc (beBytes 16 ((beNat ctr + e.2) % 2 ^ 128)))).flatten

/-- AES_CTR: PARAM is the first counter block. -/
def aesCtr (q : SvcReq) : SvcPost :=
  svcPost (q.dataChecks true true q.key1.isAes) [] (ctrXor q.key1 q.param q.input) q.latch

/-- CBC encipherment. -/
def cbcEnc (k : SvcKey) (iv pt : List Byte) : List Byte :=
  ((blocks k.bl pt).foldl (fun (st : List Byte × List Byte) b => let c := k.enc (xorBytes b st.2); (st.1 ++ c, c)) ([], iv)).1

/-- AES_CBC_ENC: PARAM is the IV; the input is whole blocks. -/
def aesCbcEnc (q : SvcReq) : SvcPost :=
  svcPost (q.dataChecks true (q.input.length % 16 == 0) q.key1.isAes) [] (cbcEnc q.key1 q.param q.input) q.latch

/-- AES_CBC_DEC. -/
def aesCbcDec (q : SvcReq) : SvcPost :=
  svcPost (q.dataChecks true (q.input.length % 16 == 0) q.key1.isAes) [] (cbcDec q.key1 q.param q.input) q.latch

/-- AES_CCM_DEC: a nonce of 12 B, so that lengths and counters take 3 B (SP 800-38C); the whole plaintext is written whatever the
tag says (R166). -/
def aesCcmDec (q : SvcReq) : SvcPost :=
  let n := q.input.length - q.p 12
  let ctr (i : Nat) : List Byte := [2] ++ q.iv12 ++ beBytes 3 i
  let pt := ctrXor q.key1 (ctr 1) (q.input.take n)
  let b0 : List Byte := [BitVec.ofNat 8 ((q.p 12 - 2) / 2 * 8 + 2)] ++ q.iv12 ++ beBytes 3 n
  let tag := xorBytes (cbcMac q.key1.enc 16 (b0 ++ (if pt.isEmpty then [] else padM1 16 pt))) (q.key1.enc (ctr 0))
  let cs := q.dataChecks (q.tagOk ccmTagLens) (decide (q.p 12 ≤ q.input.length)) q.key1.isAes
  svcPost (cs ++ [{ reason := 0x10, bit := some (Config.checkBit 0x0A06 % 8), failed := tag.take (q.p 12) != q.input.drop n }]) [] pt q.latch

end Sys2Proof.Machine
end

