-- ==== Sys2Proof/Tests/Slice0.lean ====
section
/-!
SUPPORT. The model's own tests: ill-formed commands that WellFormed refuses, results that the spec's examples give, and for
every statement a state and operands that meet its hypotheses.
-/
set_option autoImplicit false

namespace Sys2Proof.Tests

open Sys2Proof Sys2Proof.Machine Sys2Proof.Statements

/-- Sheave 0 of yard 0 runs, with room before its EGRESS window. -/
def st0 : State := { State.reset with sheaves := [(0, { run := .running, stop := 1000 })] }

/-- A header of the conditional group on that Sheave, condition AL. -/
def h0 : CHdr := ⟨.sheave 0 0, .al, 0, .none⟩

/-- A header of the extended group on that Sheave, MC 00. -/
def x0 : XHdr := ⟨.sheave 0 0, .always, 0, .none⟩

/-- The same on Naris. -/
def hN : CHdr := ⟨.naris, .al, 0, .none⟩

/-- The same on Naris. -/
def xN : XHdr := ⟨.naris, .always, 0, .none⟩

theorem witness_goes : Goes h0 st0 ∧ (st0.cpu h0.ex).pend = [] := by unfold Goes; decide

theorem witness_goes_naris : Goes hN st0 ∧ (st0.cpu hN.ex).pend = [] := by unfold Goes; decide

theorem witness_goes_ext : GoesX x0 st0 ∧ GoesX xN st0 := by unfold GoesX; decide

theorem witness_pending :
    let s : State := { State.reset with sheaves := [(0, { run := .running, stop := 1000, cpu := { pend := [due 1 (.d 3 7)] } })] }
    Goes h0 s ∧ (s.cpu h0.ex).pend = [due 1 (.d 3 7)] ∧ condHolds .eq (s.cpu h0.ex).fl = false := by unfold Goes; decide

theorem witness_pairs : ((2 : Fin 16).val % 2 = 0) ∧ ((15 : Fin 16).val % 2 = 1) := by decide

theorem witness_failed_condition :
    let h : CHdr := ⟨.sheave 0 0, .eq, 0, .none⟩
    let x : XHdr := ⟨.sheave 0 0, .qm, 0, .none⟩
    st0.canIssue (.sheave 0 0) = true ∧ st0.fetchFault (.sheave 0 0) (st0.cpu (.sheave 0 0)).pc = none
    ∧ condOf (.tli h 1 2 3) = some (h, 4) ∧ condHolds h.cond (st0.cpu h.ex).fl = false ∧ (Instr.tli h 1 2 3).wf = true
    ∧ extOf (.eret x) = some (x, 3) ∧ mcHolds x.mc (st0.cpu x.ex).fl = false ∧ (Instr.eret x).wf = true := by decide

theorem witness_sealed :
    let c : Cpu := { q := Vector.replicate 4 { sealed := true }, a := Vector.replicate 8 0xF10010 }
    let s : State := { State.reset with sheaves := [(0, { run := .running, stop := 1000, cpu := c })], naris := { cpu := c } }
    Goes h0 s ∧ Goes hN s ∧ GoesX x0 s ∧ ((s.cpu h0.ex).qr 1).sealed = true ∧ ((s.cpu hN.ex).qr 3).sealed = true
    ∧ ((s.cpu x0.ex).ar 0).toNat % 4 = 0 ∧ ((s.cpu x0.ex).ar 0).toNat + 4 * (0 : BitVec 12).toNat = 0xF10010 := by
  unfold Goes GoesX; decide

/-- An item that slot 0 of yard 0 runs. -/
def item0 : Item := { id := 0, part := 1, ring := 0, index := 0, desc := [], cls := 1, f := 0, place := .running 0 false }

theorem witness_fault :
    let c : Cpu := { d := Vector.replicate 16 2 }
    let s : State := { State.reset with
      sheaves := [(0, { run := .running, stop := 1000, cpu := c })], naris := { cpu := c }, adm := { items := [item0] } }
    GoesX x0 s ∧ GoesX xN s ∧ ((s.cpu x0.ex).dr 0).toNat % 4 ≠ 0 ∧ s.item (s.sheave 0 0).item = some item0 ∧ item0.sfault = none := by
  unfold GoesX; decide

theorem witness_branch :
    GoesX x0 st0 ∧ (st0.cpu x0.ex).pend = [] ∧ ((st0.cpu x0.ex).dr 3).toNat % 4 = 0 := by unfold GoesX; decide

theorem witness_unsealed : Goes h0 st0 ∧ ((st0.cpu h0.ex).qr 0).sealed = false ∧ ((st0.cpu h0.ex).qr 3).sealed = false := by
  unfold Goes; decide

/-- Its slot entry. -/
def ent0 : SlotEnt := { lsheave := 0, cls := 1, start := 0, stop := 5000, bufA := 0, bufB := 16, resv := [] }

/-- Its class entry. -/
def cls0 : ClassEnt where
  carry := true
  input := true
  output := true
  carryLimit := 1
  defDeadline := 4
  entry := 0
  bufLen := 16
  maxIn := 512
  maxOut := 512
  cycles := 100
  service := 0

/-- A rig whose slot 0 of yard 0 runs class 1. -/
def rig0 : Rig := { rigId := 1, version := 1, slots := [(0, some ent0)], classes := [(1, some cls0)] }

/-- Sheave 0 of yard 0 runs item 0 under that rig. -/
def stRun (c : Cpu) : State :=
  { State.reset with
    sheaves := [(0, { run := .running, stop := 1000, cpu := c })], adm := { items := [item0] }, rig := { eff := some rig0 } }

theorem witness_post : GoesX x0 (stRun {}) ∧ (stRun {}).item ((stRun {}).sheave 0 0).item = some item0
    ∧ ((stRun {}).classEnt item0.cls).map ClassEnt.carry = some true := by unfold GoesX; decide

/-- A run whose address registers hold `a`. -/
def stAt (a : Word) : State := stRun { a := Vector.replicate 8 a }

theorem witness_load_dram : Goes h0 (stAt 0x10000) ∧ SheaveReads (stAt 0x10000) 0 0 0x10000 16 1 (SMap.bytes [] 0 16) := by
  unfold Goes SheaveReads OwnBytes; exact ⟨by decide, Or.inl (Or.inl (by decide))⟩

theorem witness_load_buffer : Goes h0 (stAt 0x1003F0) ∧ SheaveReads (stAt 0x1003F0) 0 0 0x1003F0 16 3 (yardSees (stAt 0x1003F0) 0 0 0x1003F0 16) := by
  unfold Goes SheaveReads OwnBytes
  exact ⟨by decide, Or.inl (Or.inr ⟨item0, ent0, cls0, false, by decide, by decide, by decide, by decide, by decide, by decide, by decide, rfl, rfl⟩)⟩

theorem witness_load_tables :
    let s := { stAt 0x110000 with rig := { eff := some { rig0 with tables := [{ kind := 1, yard := 0, off := 0x10000, data := List.replicate 16 1 }] } } }
    SheaveReads s 0 0 0x110000 16 3 (yardSees s 0 0 0x110000 16) := by
  unfold SheaveReads
  exact Or.inr ⟨item0, _, _, by decide, rfl, List.mem_singleton.mpr rfl, by decide, by decide, by decide, by decide, rfl, rfl⟩

theorem witness_load_naris : Goes hN { State.reset with naris := { cpu := { a := Vector.replicate 8 0x1003FFF0 } } } := by
  unfold Goes; decide

theorem witness_load_window :
    Goes h0 (stAt 0x100400) ∧ (stAt 0x100400).inBuffer item0 0x400 = false ∧ (stAt 0x100400).inTables 0 0x400 = false := by
  unfold Goes; decide

theorem witness_store :
    Goes h0 (stAt 0x1003F0) ∧ ((stAt 0x1003F0).cpu h0.ex).pend = [] ∧ (((stAt 0x1003F0).cpu h0.ex).qr 0).sealed = false
    ∧ (∀ f ∈ (stAt 0x1003F0).flights, f.src = none) ∧ (stAt 0x1003F0).item ((stAt 0x1003F0).sheave 0 0).item = some item0
    ∧ item0.place = .running ((stAt 0x1003F0).sheave 0 0).slot false := by
  unfold Goes; decide

theorem witness_tli : Goes h0 (stAt 0x17FF8) ∧ ((stAt 0x17FF8).cpu h0.ex).pend = [] ∧ 0x17FF8 % 4 = 0 ∧ 0x17FF8 + 4 * (0 + 2) = 0x18000 := by
  unfold Goes; decide

theorem witness_naris : GoesX xN State.reset ∧ (State.reset.cpu xN.ex).pend = [] ∧ State.reset.naris.irq = false
    ∧ State.reset.witness.wired = [] ∧ State.reset.naris.status % 2 = 0
    ∧ ({ State.reset with naris := { status := 1 } } : State).naris.status % 2 = 1 := by unfold GoesX; decide

theorem witness_ports :
    PortGoes x0 0 0 (stAt 0xF00000) ∧ (((stAt 0xF00000).cpu x0.ex).ar 0).toNat % 4 = 0
    ∧ (stAt 0xF00000).rillRefuses (256 + (0 : Fin 64).val) = false
    ∧ (stAt 0xF00000).item ((stAt 0xF00000).sheave 0 0).item = some item0 := by
  unfold PortGoes GoesX; decide

theorem witness_port_registers :
    (∀ o, portReg 0xF00010 = some (.stD o) → o = 0x10) ∧ (portReg 0xF50000).isSome = true ∧ (portReg 0xF00004).isNone = true := by
  refine ⟨?_, by decide, by decide⟩
  intro o h; simp [portReg, cipherReg] at h; exact h.symm

/-- A rig whose slot 0 of yard 0 has a window of every kind over the whole frame. -/
def rigW : Rig :=
  { rig0 with slots := [(0, some { ent0 with resv := (List.range 7).map fun k => { kind := k, first := 0, countM1 := 31, start := if k = 6 then 4000 else 0, stop := 4000 } })] }

/-- Sheave 0 of yard 0 runs item 0 in that rig with port registers `p`; the wire rills, yard rill 0 and the rill of partition 1 serve. -/
def stPort (p : PortIf) : State :=
  { State.reset with
    sheaves := [(0, { run := .running, stop := 1000, port := p })], adm := { items := [item0] }, rig := { eff := some rigW }
    spring := { rills := [(1, { seeded := true }), (256, { seeded := true }), (320, { seeded := true }), (321, { seeded := true })] } }

/-- An AES-128 key of a usage. -/
def key0 (use : Nat) : Acc := { sealed := true, key := true, alg := .aes, len := 16, usage := some use }

/-- A port whose pair 0 has that key staged. -/
def portK (use : Nat) : PortIf := { q := [(0, key0 use)] }

theorem witness_cipher :
    PortGoes x0 0 0 (stPort (portK 3)) ∧ AesKey (((stPort (portK 3)).sheave 0 0).port.acc 0) 3 ∧ PairReady (stPort (portK 3)) 0 0 0 12 := by
  unfold PortGoes GoesX AesKey PairReady; decide

theorem witness_cipher_misuse :
    PortGoes x0 0 0 (stPort {}) ∧ PairReady (stPort {}) 0 0 0 12 ∧ (((stPort {}).sheave 0 0).port.acc 0).key = false := by
  unfold PortGoes GoesX PairReady; decide

/-- An operation in flight whose result is accepted at cycle 100. -/
def flight0 (kind : UnitKind) : Flight := { kind := kind, logic := 0, tag := (stPort {}).tagOf 0 0, start := 80, stop := 90, r := 100 }

theorem witness_cipher_result :
    let s := { stPort {} with flights := [flight0 .cipher] }
    ComesFirst (flight0 .cipher) [flight0 .keccak] ∧ s.accepts (flight0 .cipher).tag (flight0 .cipher).r = true
    ∧ ((s.item (flight0 .cipher).tag.item).map fun i => i.spoiled.contains (0 : Fin 32).val) = some false
    ∧ s.accepts (flight0 .cipher).tag 4000 = false := by unfold ComesFirst; decide

theorem witness_mac :
    PortGoes x0 0 0 (stPort (portK 2)) ∧ MacKey (((stPort (portK 2)).sheave 0 0).port.acc 0) ∧ PairReady (stPort (portK 2)) 0 0 0 12 := by
  unfold PortGoes GoesX MacKey PairReady; decide

theorem witness_pin :
    let p : PortIf := { q := [(0x10030, { val := bytesQuad [0x04, 0x12, 0x34, 0xFF, 0xFF, 0xFF, 0xFF, 0xFF] }),
      (0x10040, { sealed := true, key := true, alg := .tdes, len := 16, usage := some 3 })] }
    let s := stPort p
    PortGoes x0 0 0 s ∧ PairReady s 0 0 0 50 ∧ ((s.sheave 0 0).port.acc 0x10040).alg = .tdes ∧ (s.sheave 0 0).port.word 0x10000 % 256 = 0
    ∧ pinOf 0 (xorBytes ((quadBytes ((s.sheave 0 0).port.acc 0x10030).val).take 8) ((quadBytes ((s.sheave 0 0).port.acc 0x10010).val).take 8))
      = some [1, 2, 3, 4] := by
  unfold PortGoes GoesX PairReady; decide

theorem witness_hash :
    let p : PortIf := { w := [(0x20010, 0x17FFF), (0x20020, 1)] }
    PortGoes x0 0 0 (stPort p) ∧ (stPort p).window ((stPort p).sheave 0 0).slot 1 0 1 0 24 = true
    ∧ ((stPort p).sheave 0 0).port.word 0x20020 = 1 := by
  unfold PortGoes GoesX; decide

theorem witness_final : (finalOf 8 55 [] 0).map (fun e => e.2.1) = some 64 ∧ (finalOf 8 56 [] 0).map (fun e => e.2.1) = some 128
    ∧ (finalOf 0 135 [] 0).map (fun e => e.2.1) = some 24 ∧ (finalOf 0 136 [] 0).map (fun e => e.2.1) = some 48 := by
  refine ⟨rfl, rfl, rfl, rfl⟩

theorem witness_hmac :
    let p : PortIf := { w := [(0x20000, 0x10)], q := [(0x20030, { sealed := true, key := true, alg := .hmac, len := 32, usage := some 2 })] }
    PortGoes x0 0 0 (stPort p) ∧ ((stPort p).sheave 0 0).port.word 0x20000 = 0x10 ∧ (stPort p).rillServes 320 = true
    ∧ (stPort p).window ((stPort p).sheave 0 0).slot 1 0 1 0 (24 * (0 / 136 + 4)) = true := by
  unfold PortGoes GoesX; decide

theorem witness_hash_result :
    let f := { flight0 .keccak with q := digestQ (hashBase false 0) (List.replicate 32 7) }
    let s := { stPort {} with flights := [f] }
    s.accepts f.tag f.r = true ∧ f.latch = [] ∧ s.item f.tag.item = some item0 ∧ 95 < s.egressAt f.tag.slot
    ∧ SMap.get [] (s.pool 1).faultFrames (f.phys.headD 0) = [] := by decide

theorem witness_ghash :
    let p : PortIf := { ghLast := some 5, cvu := [{ r := 20, val := 3, w := 32, sec := false }], dataq := some {} }
    let s := (stPort p).setCpu (.sheave 0 0) { cyc := 18 }
    PortGoes x0 0 0 s ∧ ((s.cpu x0.ex).qr 0).sealed = false ∧ ((s.sheave 0 0).port).ghLast = some 5 ∧ 5 + 13 ≤ (s.cpu x0.ex).cyc
    ∧ (s.sheave 0 0).port.word 0x60020 = 0 := by
  unfold PortGoes GoesX; decide

/-- An AES-128 key of partition 1 with USAGE `u` in row 0. -/
def stKey (u : Nat) : State :=
  { stPort {} with cleat := { ents := [(0, some { alg := 1, klen := 16, usage := u, part := 1, rows := 1, material := List.replicate 16 9 })], ready := true } }

theorem witness_qkey : 4 < (5 : BitVec 4).toNat ∧ PortGoes x0 0 0 (stPort {}) ∧ (stPort {}).window ((stPort {}).sheave 0 0).slot 5 0 1 0 60 = true := by
  unfold PortGoes GoesX; decide

theorem witness_qkey_result :
    let f := { flight0 .cleat with qd := some (2, {}), args := [0x20000, 0] }
    let s := { (stKey 1).setSheave 0 0 { run := .running, stop := 1000, cpu := { cyc := 90 } } with flights := [f] }
    s.accepts f.tag f.r = true ∧ (s.named 0x20000).map Prod.fst = some 0 ∧ s.named 0x20001 = none ∧ s.item f.tag.item = some item0
    ∧ sheaveOf f.r ≤ (s.sheave 0 0).cpu.cyc ∧ (s.part f.tag.part).st ≠ .exported ∧ s.stay.everPaired = false := by decide

theorem witness_modulus : (1 : Nat) < 7 ∧ modInv 7 3 = some 5 ∧ Nat.gcd 3 7 = 1 := by decide

/-- Partition 1 with 64 slots of 4,096 bits, an operand of 256 bits in slots 0 to 2, and a mailbox of words `w`. -/
def stBne (w : List (Nat × Word)) (vals : List Nat) : State :=
  { stPort { w := w } with
    parts := { tab := [(1, { st := .active, opmSlotLen := 64, opmSlots := 64 })] }
    bne := { slots := (List.range vals.length).map fun k => (65536 + k, { val := vals.getD k 0, owner := 1 }) } }

/-- A mailbox: DOM 4, SA 0, SB 1, SC 2, SOUT 3, lane 0 alone. -/
def mail4 : List (Nat × Word) := [(0x40000, 0x00040000), (0x40004, 0x00000001), (0x40008, 0x00020000), (0x4000C, 0x00030000)]

/-- The shape of a modular addition of four words. -/
def shAdd : Shape := (modShape ((stBne mail4 [3, 4, 7]).sheave 0 0 |>.port.bneCmd (some 0x10)) 4096).getD { words := [], cost := 0 }

set_option maxRecDepth 10000 in
theorem witness_modadd :
    let s := stBne mail4 [3, 4, 7]
    BneRuns x0 0 0 0x10 ((s.sheave 0 0).port.bneCmd (some 0x10)) item0 shAdd s ∧ operands s item0 shAdd = [3, 4, 7] := by
  unfold BneRuns PortGoes GoesX
  exact ⟨⟨by decide, by decide, rfl, by decide, rfl, by decide, by decide, by decide, by decide, by decide, by decide⟩, by decide⟩

theorem witness_misuse :
    let c := ((stPort {}).sheave 0 0).port.bneCmd (some 0x10)
    c.dom = 0 ∧ c.g = 1 ∧ c.lane = 0 ∧ (stPort {}).unitBusy 0 0 0 = false ∧ (stPort {}).window ((stPort {}).sheave 0 0).slot 3 c.lane 1 0 8 = true := by
  decide

/-- A mailbox for DOM 1: SOUT 3, SOUT2 4, lane 0 alone. -/
def mailEc : List (Nat × Word) := [(0x40000, 0x00010000), (0x4000C, 0x00030004)]

/-- The shape of EC_KEYGEN on it. -/
def shEc : Shape := (ecShape ((stBne mailEc []).sheave 0 0 |>.port.bneCmd (some 0x30)) 4096).getD { words := [], cost := 0 }

/-- A rig whose windows last long. -/
def rigL : Rig :=
  { rig0 with slots := [(0, some { ent0 with resv := (List.range 7).map fun k => { kind := k, first := 0, countM1 := 31, start := if k = 6 then 40000 else 0, stop := 40000 } })] }

set_option maxRecDepth 10000 in
theorem witness_ec_keygen :
    let s := { stBne mailEc [] with rig := { eff := some rigL } }
    BneRuns x0 0 0 0x30 ((s.sheave 0 0).port.bneCmd (some 0x30)) item0 shEc s ∧ (ecDom 1).map (fun e => e.bits) = some 256 := by
  unfold BneRuns PortGoes GoesX
  exact ⟨⟨by decide, by decide, rfl, by decide, rfl, by decide, by decide, by decide, by decide, by decide, by decide⟩, rfl⟩

/-- A mailbox that deletes the cleat of handle 0x20000: KMODE 5, lane 0 alone. -/
def mailDel : List (Nat × Word) := [(0x40020, 0x20000), (0x40024, 5)]

/-- The shape of that command. -/
def shDel : Shape := (moveShape ((stBne mailDel []).sheave 0 0 |>.port.bneCmd (some 5)) 4096 none {alg := 0}).getD { words := [], cost := 0 }

set_option maxRecDepth 10000 in
theorem witness_kstore :
    let s := stBne mailDel []
    BneRuns x0 0 0 5 ((s.sheave 0 0).port.bneCmd (some 5)) item0 shDel s ∧ ((s.sheave 0 0).port.bneCmd (some 5)).use = 5 := by
  unfold BneRuns PortGoes GoesX
  exact ⟨⟨by decide, by decide, rfl, by decide, rfl, by decide, by decide, by decide, by decide, by decide, by decide⟩, by decide⟩

/-- A mailbox that loads 32 bytes into slot 3. -/
def mailLoad : List (Nat × Word) := [(0x40000, 0x00040000), (0x4000C, 0x00030000), (0x40018, 32)]

/-- The shape of that command. -/
def shLoad : Shape := (moveShape ((stBne mailLoad []).sheave 0 0 |>.port.bneCmd (some 1)) 4096 none {alg := 0}).getD { words := [], cost := 0 }

set_option maxRecDepth 10000 in
theorem witness_bne_load :
    let s := stBne mailLoad []
    BneRuns x0 0 0 1 ((s.sheave 0 0).port.bneCmd (some 1)) item0 shLoad s := by
  unfold BneRuns PortGoes GoesX
  exact ⟨by decide, by decide, rfl, by decide, rfl, by decide, by decide, by decide, by decide, by decide, by decide⟩

/-- A mailbox that loads an ECDSA key of P-256 for USE 5 into slots 0 and 1. -/
def mailKload : List (Nat × Word) := [(0x40000, 0x00010000), (0x4000C, 0x00000001), (0x40020, 0x20000), (0x40024, 0x205)]

/-- An ECDSA key of partition 1 in rows 0 and 1. -/
def ecKey : Entry := { alg := 0x10, usage := 0x20, part := 1, rows := 2, kbits := 256, material := List.replicate 96 1 }

/-- The shape of that command. -/
def shKload : Shape := (moveShape ((stBne mailKload []).sheave 0 0 |>.port.bneCmd (some 4)) 4096 (some ecKey) {alg := 0}).getD { words := [], cost := 0 }

set_option maxRecDepth 10000 in
theorem witness_kload :
    let s := { stBne mailKload [] with cleat := { ents := [(0, some ecKey)], ready := true } }
    BneRuns x0 0 0 4 ((s.sheave 0 0).port.bneCmd (some 4)) item0 shKload s ∧ kloadForm 1 2 5 ecKey = true ∧ s.named 0x20000 = some (0, ecKey) := by
  unfold BneRuns PortGoes GoesX
  exact ⟨⟨by decide, by decide, rfl, by decide, rfl, by decide, by decide, by decide, by decide, by decide, by decide⟩, by decide, by decide⟩

/-- A mailbox of ML-KEM, lane 0 alone: DOM 0x11. -/
def mailKem : List (Nat × Word) := [(0x40000, 0x00110000)]

/-- The shape of ML-KEM key generation on it. -/
def shKem : PuShape := (puShape ((stBne mailKem []).sheave 0 0 |>.port.bneCmd (some 0x70))).getD { words := [], dsa := none, cost := 0 }

set_option maxRecDepth 10000 in
theorem witness_mlkem_keygen :
    let s := { stBne mailKem [] with rig := { eff := some rigL } }
    PuRuns x0 0 0 0x70 ((s.sheave 0 0).port.bneCmd (some 0x70)) item0 shKem s := by
  unfold PuRuns PortGoes GoesX
  exact ⟨by decide, by decide, rfl, by decide, rfl, by decide, by decide, by decide, by decide, by decide, by decide, by decide⟩

/-- The shape of PCLEAR on it. -/
def shPc : PuShape := (puShape ((stBne mailKem []).sheave 0 0 |>.port.bneCmd (some 0x62))).getD { words := [], dsa := none, cost := 0 }

set_option maxRecDepth 10000 in
theorem witness_pclear :
    let s := stBne mailKem []
    PuRuns x0 0 0 0x62 ((s.sheave 0 0).port.bneCmd (some 0x62)) item0 shPc s := by
  unfold PuRuns PortGoes GoesX
  exact ⟨by decide, by decide, rfl, by decide, rfl, by decide, by decide, by decide, by decide, by decide, by decide, by decide⟩

theorem witness_bne_result :
    let f : Flight := { flight0 .bne with args := [0x10, 0, 0, 0, 0], slots := [{ slot := 3, val := 5, sec := false, link := none }] }
    let s := { stBne [] [3, 4, 7] with flights := [f] }
    s.accepts f.tag f.r = true ∧ (∀ o ∈ f.slots, o.link = none ∧ (s.opSlot f.tag.part o.slot).link = 0) ∧ f.logic = mailKey 0 0
    ∧ s.accepts { f.tag with epoch := 1 } f.r = false := by decide

theorem witness_opm :
    let s := { stBne [] [3, 4, 7] with bne := { opmBusy := some (1, 0, 0) } }
    s.bne.opmBusy = some (1, 0, 0) ∧ 0 < (s.opRegion 1).1 ∧ s.opBusy 1 0 = false
    ∧ (stBne [] []).bne.opmBusy = none ∧ (stBne [] []).reg Reg.BNE.OPM_PART = 0 := by decide

theorem witness_swap :
    let s := State.reset
    let w := s.setYard 3 { swap := { pending := true, dst := 16 } }
    (s.yard 3).spare = some 16 ∧ (s.yard 3).phys 0 = some 0 ∧ s.worn 3 16 = false ∧ (w.yard 3).swap.pending = true
    ∧ (w.yard 3).swap.preloaded = false ∧ (w.yard 3).swap.auto = false ∧ (s.yard 3).logicalOf 16 = none ∧ (s.yard 3).logicalOf 15 = some 15 := by decide

theorem witness_pool :
    let s := State.reset
    (s.pool 1).spares = [64, 65, 66, 67] ∧ (s.pool 1).phys 63 = some 63 ∧ (63 : Nat) < poolUnits 1 ∧ (s.pool 3).swap.pending = false := by decide

theorem witness_cleat_manager :
    let s := (stKey 1).setReg Reg.CLEAT1.CMD_HANDLE 0x20000 |>.setOn pgCleat true
    s.cleat.cmd = none ∧ (s.hd pgCleat).enable = true ∧ (s.named (s.reg Reg.CLEAT1.CMD_HANDLE)).map Prod.fst = some 0 ∧ s.writePending 0 = false
    ∧ s.paired = false ∧ s.pendingRows + 1 ≤ 256 ∧ (stKey 1).headOf 0 = some 0 := by decide

theorem witness_scrub :
    let s := ((stKey 1).setReg Reg.CLEAT0.SCRUB_EN 1)
    s.reg Reg.CLEAT0.SCRUB_EN = 1 ∧ s.cleat.ready = true ∧ s.cleat.scrubPos = 0 := by decide

/-- Row 0 holds a suspended entry that waits for its restore; the vault key is there, and nothing has been programmed. -/
theorem witness_restore :
    let e : Entry := { alg := 1, klen := 16, usage := 1, part := 1, suspended := true, restoring := true }
    let s := { stPort {} with cleat := { ents := [(0, some e)], ready := true, vaultKey := some [] } }
    s.headOf 0 = some 0 ∧ s.cleat.vaultKey = some [] ∧ s.entry 0 = some e := by decide

theorem witness_vault :
    let e : Entry := { alg := 1, klen := 16, usage := 1, part := 1, persist := true, useCount := 7 }
    let s := { (stPort {}) with cleat := { vaultKey := some [], vaultOpen := [.entry 0 1 e] } }
    let r := { (stPort {}) with cleat := { ents := [(0, some e)], vaultProg := some (5, [.entry 0 1 e]) } }
    s.cleat.vaultProg = none ∧ s.cleat.vaultOpen ≠ [] ∧ s.flash.op = none ∧ s.cleat.vaultNext < 4086 ∧ r.rowGen 0 = 1 ∧ r.entry 0 = some e
    ∧ r.freeSpare (vaultAddr 5 / 0x800000) = some 0
    ∧ (s.setReg Reg.CLEAT0.VAULT_STATE 1).reg Reg.CLEAT0.VAULT_STATE = 1
    ∧ ({ s with spring := { rills := [(322, { seeded := true })] } } : State).rillServes 322 = true
    ∧ s.artOk 0x052 none .write (0x80000000 + vaultAddr 4085) 4096 = true ∧ s.artOk 0x052 none .read (0x80000000 + vaultAddr 0) (4096 * 4086) = true := by decide

/-- MAINTENANCE, the controller ready, FADDR at the last unit of bank 1, FLEN 16. -/
def stFlash : State :=
  let s := { State.reset with glob := { State.reset.glob with mode := .maintenance, booted := true }, flash := { ready := true, shipped := false } }
  (s.setReg Reg.FLASH.FADDR 0xFFFFF0).setReg Reg.FLASH.FLEN 16

theorem witness_flash_free : FlashFree stFlash 16 ∧ stFlash.reg Reg.FLASH.FLEN = 16 ∧ stFlash.badUnits 0xFFFFF0 16 = [] := by
  unfold FlashFree; decide

theorem witness_flash_refused :
    let s := stFlash.setReg Reg.FLASH.FADDR 0x1000000
    s.flash.ready = true ∧ s.reg Reg.FLASH.FADDR = 0x1000000 ∧ s.reg Reg.FLASH.FLEN = 16
    ∧ ({ stFlash with glob := { stFlash.glob with mode := .operational } } : State).mode ≠ .maintenance := by decide

theorem witness_flash_done :
    let o : FlashOp := { op := 2, addr := 0xFFFFF0, data := List.replicate 16 3, len := 16 }
    let s := { stFlash with flash := { stFlash.flash with op := some o } }
    s.naris.load = none ∧ (∀ k, k < 16 → SMap.get false s.flash.progd (s.flashKey (0xFFFFF0 + k) / 16) = false)
    ∧ ({ State.reset with flash := { optWrite := some {}, optState := 1 } } : State).flash.optState = 1 := by
  refine ⟨rfl, fun k _ => rfl, rfl⟩

/-- Cells 0 to 7 feed, 8 and 9 are spares; the Spring is on. -/
def stSpring (sp : SpringSt) : State :=
  ({ State.reset with spring := { sp with cells := (List.range 8).map fun c => (c, { feeding := true }) } }).updHd pgSpring fun h => { h with enable := true }

theorem witness_cells_spare : let s := stSpring {}
    (s.cell 7).retired = false ∧ (s.cell 7).feeding = true ∧ s.spareCells.filter (· ≠ 7) = [8, 9] ∧ s.glob.window = none
    ∧ s.optNext.retired.length < 512 ∧ s.reg Reg.SPRING.EST_ACTION = 1
    ∧ ((s.setReg Reg.SPRING.EST_ACTION 0).reg Reg.SPRING.EST_ACTION = 0) := by decide

theorem witness_cells_last :
    let s := { State.reset with spring := { cells := ((List.range 8).map fun c => (c, ({ feeding := true } : Cell))) ++ [(8, ({ retired := true } : Cell)), (9, ({ retired := true } : Cell))], startupDone := true } }
    s.spareCells.filter (· ≠ 7) = [] ∧ (s.feeding.filter (· ≠ 7)).length < 8 ∧ s.spring.healthFail = false ∧ (s.cell 9).retired = true := by decide

theorem witness_cells_tests :
    let s := State.reset.setCell 9 { suspended := true, passes := 3 }
    let f := { State.reset with glob := { State.reset.glob with mode := .factory }, spring := { testpat := true } }
    (s.cell 9).suspended = true ∧ (s.cell 9).passes = 3 ∧ ((State.reset.setCell 9 { suspended := true, passes := 2 }).cell 9).passes < 3
    ∧ f.mode = .factory ∧ f.spring.testpat = true ∧ State.reset.mode ≠ .factory := by decide

theorem witness_conditioning : let s := stSpring { reserve := 64, bits := 383 }
    8 ≤ s.feeding.length ∧ (s.hd pgSpring).enable = true ∧ s.spring.healthFail = false ∧ s.spring.testpat = false
    ∧ (stSpring { healthFail := true }).spring.healthFail = true ∧ 8 ≤ (stSpring { healthFail := true }).feeding.length := by decide

theorem witness_rills :
    let s (r : Rill) (sp : SpringSt) := { State.reset with spring := { sp with rills := [(323, r)] } }
    (s {} { queue := [323], reserve := 1 }).spring.queue = 323 :: []
    ∧ ((s { seeded := true, calls := 65536 } { reserve := 1 }).rill 323).seeded = true ∧ ((s { seeded := true, calls := 65536 } {}).rill 323).calls = 65536
    ∧ 2 ^ 20 ≤ ((s { seeded := true, calls := 2 ^ 20 } { healthFail := true }).rill 323).calls
    ∧ ({ State.reset with spring := { rills := [(319, { seeded := true })] } } : State).rillServes (256 + 63) = true := by decide

theorem witness_health_timeout :
    let s := { State.reset with glob := { State.reset.glob with booted := true, mode := .operational }, spring := { healthFail := true, hfTicks := 64 } }
    s.mode = .operational ∧ s.glob.change = none ∧ s.spring.hfTicks = 64 := by decide

/-- Ring 4095 of partition 255, doorbell slot 63: 16 entries, active. -/
def stRing (g : Ring) : State :=
  { State.reset with host := { rings := [(4095, { g with st := .active, part := 255, slot := 63 })], linkUp := true, bme := true } }

theorem witness_doorbells :
    (stRing {}).ringAt 255 63 = some 4095 ∧ 15 < 2 ^ ((stRing {}).ring 4095).sqLog2
    ∧ ((stRing { revoke := some 3 }).ring 4095).revoke.isSome = true
    ∧ (let g := (stRing { cqTail := 15 }).ring 4095; ringDist g.m g.cqHead 15 ≤ ringDist g.m g.cqHead g.cqTail)
    ∧ (let g := (stRing { cqTail := 14 }).ring 4095; ringDist g.m g.cqHead g.cqTail < ringDist g.m g.cqHead 15)
    ∧ (let g := (stRing { sqTail := 15 }).ring 4095; g.sqTail % 2 ^ g.sqLog2 ≠ 0 ∧ g.unread + g.cqRsv + 2 ≤ 2 ^ g.cqLog2)
    ∧ State.reset.ringAt 0 0 = none ∧ (1023 : Nat) / 16 = 63 := by decide

/-- Partition 255 with one ring and one vector, and the staged values of a ring for it. -/
def stRingCmd (sel : Nat) : State :=
  let s := { State.reset with parts := { tab := [(255, { st := .active, vecBase := 2047, vecCount := 1, ringQuota := 1 })] } }
  ((((s.setReg Reg.HOSTIF.RING_SEL sel).setReg Reg.HOSTIF.RING_PART 255).setReg Reg.HOSTIF.SQ_LOG2 16).setReg Reg.HOSTIF.CQ_LOG2 4).setReg Reg.HOSTIF.VECTOR 2047

theorem witness_ring_create :
    let s := stRingCmd 4095
    s.reg Reg.HOSTIF.SQ_LOG2 = 16 ∧ s.reg Reg.HOSTIF.CQ_LOG2 = 4 ∧ s.reg Reg.HOSTIF.ICOUNT ≤ 256 ∧ s.reg Reg.HOSTIF.IMODE ≠ 3
    ∧ (s.ring 4095).st = .none ∧ (s.part 255).st ≠ .none ∧ s.ringAt 255 0 = none ∧ (s.part 255).vecBase ≤ s.reg Reg.HOSTIF.VECTOR
    ∧ s.reg Reg.HOSTIF.VECTOR < (s.part 255).vecBase + (s.part 255).vecCount ∧ s.ringCount 255 < (s.part 255).ringQuota := by decide

theorem witness_ring_commands :
    let s (r : Ring) := { stRingCmd 5 with host := { rings := [(5, { r with part := 255 })] } }
    (s { st := .active }).reg Reg.HOSTIF.RING_SEL = 5 ∧ ((s { st := .active }).ring 5).st = .active ∧ ((s { st := .stopped }).ring 5).st = .stopped
    ∧ (s { st := .stopped }).ringInFlight 5 = 0 ∧ (s { st := .active }).adm.binding = [] := by decide

theorem witness_messages :
    let s (m : Msix) := { stRing { imode := 3, fresh := true, vector := 2047 } with host := { (stRing { imode := 3, fresh := true, vector := 2047 }).host with msix := [(2047, m)], cfg := { msixEn := true } } }
    (s { masked := false }).hostUp = true ∧ (s { masked := false }).host.cfg.msixEn = true ∧ ((s { masked := false }).ring 4095).fresh = true ∧ (SMap.get ({} : Msix) (s { masked := false }).host.msix 2047).masked = false
    ∧ (SMap.get ({} : Msix) (s { masked := true, pending := true }).host.msix 2047).pending = true := by decide

theorem witness_entry_fetch :
    let s := { ((stRing { sqTail := 15 }).setHd pgAdmit { enable := true, st := 2 }) with glob := { State.reset.glob with mode := .degraded } }
    s.mode = .degraded ∧ (s.hd pgAdmit).st = 2 ∧ s.hostUp = true ∧ (s.ring 4095).st = .active ∧ (s.part 255).quiesce = false
    ∧ 0 < ringDist (s.ring 4095).n 0 15 - (s.ring 4095).reads ∧ s.inFlightBound < 16384 ∧ s.entryReqs < 256 ∧ (s.ring 4095).sqBase % 64 = 0 ∧ (s.ring 4095).unread + (s.ring 4095).cqRsv + 2 ≤ 2 ^ (s.ring 4095).cqLog2 := by decide

theorem witness_entry_arrival :
    let s := stRing { reqs := [(15, 1)], sqFetch := 15 }
    let dw : Vector Word 16 := (Vector.replicate 16 0).set 0 0x80000000
    (s.ring 4095).st = .active ∧ (s.ring 4095).reads ≠ 0 ∧ dw[0].toNat.testBit 31 = (s.ring 4095).sqPhase ∧ (0 : Nat).testBit 31 ≠ (s.ring 4095).sqPhase
    ∧ (s.entryCheck 4095 255 dw.toList).isSome = true := by decide

set_option maxRecDepth 10000 in
theorem witness_entry_accepted :
    let c : ClassEnt := { cls0 with output := false }
    let s := { stRing { reqs := [(0, 1)] } with
      rig := { eff := some { classes := [(0, some c)] } }, adm := { binding := [(255 * 256, 4096)] }, glob := { State.reset.glob with mode := .operational } }
    let dw : Vector Word 16 := ((Vector.replicate 16 0).set 0 0x80000000).set 15 1175657109
    s.entryCheck 4095 255 dw.toList = none ∧ dw[0].toNat / 2 ^ 29 % 4 ≠ 2 ∧ (s.ring 4095).batches = []
    ∧ crc32c ((dw.toList.flatMap fun w => leBytes 4 w.toNat).take 60) (4095 * 65536 + 0) = dw[15].toNat := by decide

theorem witness_input :
    let i : Item := { id := 1, part := 0, ring := 0, index := 0, desc := [], cls := 0, f := 0, place := .bound 4095 true }
    let e : SlotEnt := ent0
    let s := { State.reset with adm := { items := [i] }, rig := { eff := some { slots := [(4095, some e)] } } }
    s.item 1 = some i ∧ s.slotEnt 4095 = some e ∧ i.inDone = false := by decide

/-- Partition 255 selected, in a state. -/
def stPart (st : PState) : State :=
  let s := { State.reset with parts := { tab := [(255, { st := st })] }, glob := { State.reset.glob with mode := .operational } }
  s.setReg Reg.PART.PART_SEL 255

theorem witness_part_create :
    let s := ((stPart .none).setReg Reg.PART.VEC_COUNT 1).setReg Reg.PART.VEC_BASE 2046
    s.parts.cmd = none ∧ s.createErr 255 (Part.ofRes .pending s.stagedRes) = none ∧ s.mode = .operational
    ∧ (stPart .active).createErr 255 (Part.ofRes .pending (stPart .active).stagedRes) = some 0x71 := by decide

theorem witness_part_states :
    (stPart .active).reg Reg.PART.PART_SEL = 255 ∧ ((stPart .active).part 255).st = .active ∧ ((stPart .quiesced).part 255).st = .quiesced
    ∧ ((stPart .quiescing).part 255).st = .quiescing ∧ ((stPart .exported).part 255).st = .exported
    ∧ ((stPart .active).setReg Reg.PART.DIRTY_SPAN 64).reg Reg.PART.DIRTY_SPAN = 64
    ∧ ({ stPart .active with parts := { cmd := some { op := 2, part := 0, tick := 0 } } } : State).parts.cmd.isSome = true := by decide

/-- A quiesced partition without rings and entries, 3,000 B for its blob, wire rill 3 seeded, the host reachable. -/
def stExport : State :=
  { (stPart .quiesced).setReg Reg.PART.BLOB_LEN 3000 with spring := { rills := [(323, { seeded := true })] }, host := { linkUp := true, bme := true } }

theorem witness_export :
    stExport.parts.cmd = none ∧ (stExport.part 255).st = .quiesced ∧ (stExport.part 255).dirtyOn = false ∧ stExport.writePendingOf 255 = false
    ∧ stExport.partRows 255 = 0 ∧ stExport.reg Reg.PART.BLOB_LEN = 3000 ∧ stExport.rillServes 323 = true ∧ stExport.hostUp = true ∧ stExport.stay.pstate ≠ 1 := by decide

theorem witness_export_room : (stExport.blobBytes 255 (randBytes stExport.free 12)).length + 2420 ≤ 3000 := by
  have hr : stExport.ringsOf 255 = [] := by decide
  have he : stExport.blobEntries 255 = [] := by decide
  have ht := Sys2Proof.Laws.gcmTag_length_le
  simp only [State.blobBytes, hr, he, gcmSeal, gcmXor, List.flatMap_nil, List.append_nil, List.length_append, Sys2Proof.Laws.fitBytes_length]
  have h0 : ∀ (k iv : List Byte), (((blocks 16 []).zip (List.range (blocks 16 []).length)).map fun (e : List Byte × Nat) =>
      xorBytes e.1 (aesEnc k (gcmCtr iv (e.2 + 2)))).flatten = [] := fun _ _ => rfl
  simp only [h0, List.length_nil]
  refine Nat.le_trans (Nat.add_le_add_right (Nat.add_le_add_left (ht _ _ _ _) _) _) (by decide)

theorem witness_import_fails :
    let s := { (stPart .quiesced) with host := { linkUp := true, bme := true }, art := { act := [(0, { valid := true, host := true, partAny := true, idMask := 0, r := true, w := true })] } }
    s.hostUp = true ∧ s.artHost 255 .read = true ∧ s.artHost 255 .write = true
    ∧ (∃ c, s.blobCheck 255 (fitBytes (s.reg Reg.PART.BLOB_LEN) []) (randBytes s.free 16) = .error c) := by
  exact ⟨by decide, by decide, by decide, 0x79, by rfl⟩

theorem witness_merge :
    let w : DirtyWord := { part := 255, inB := true, word := 1, bits := 8 }
    let s := { stPart .active with parts := { tab := [(255, { st := .active, dirtyAddrB := 4096 })], merge := [w] } }
    s.parts.merge = w :: [] ∧ s.parts.waitWrites = [] := by decide

theorem witness_tick :
    let s := { State.reset with frame := { running := true, first := false, no := 2 ^ 48 - 1, load := none }, art := { commit := true }, adm := { commit := true } }
    s.frame.running = true ∧ s.frame.load = none ∧ s.frame.first = false ∧ s.art.commit = true ∧ s.adm.commit = true ∧ s.stay.cfg = [] ∧ s.parts.cmd = none
    ∧ s.stay.twinCfg = none ∧ s.takeFrame = 0 ∧ ({ s with frame := { s.frame with load := some 7 } } : State).frame.load = some 7 := by decide

theorem witness_tick_rig : ({ State.reset with rig := { ready := some (0, rig0) } } : State).rig.ready = some (0, rig0) := rfl

theorem witness_align :
    let s (k : Nat) := (State.reset.setReg Reg.FRAME.SOURCE k).setReg Reg.FRAME.FRAME_LOAD_LO 1
    (s 1).reg Reg.FRAME.SOURCE = 1 ∧ (s 2).reg Reg.FRAME.SOURCE = 2 ∧ (s 1).frame.no < (s 1).reg Reg.FRAME.FRAME_LOAD_LO + 2 ^ 32 * (s 1).reg Reg.FRAME.FRAME_LOAD_HI
    ∧ (s 1).frame.stepped = false ∧ (s 1).rig.eff = none ∧ ({ s 1 with frame := { noRef := 3 } } : State).frame.noRef = 3
    ∧ ({ s 2 with stay := { pstate := 3 } } : State).stay.pstate = 3 := by decide

/-- Item 0 of the test rig in slot 0, admitted; its ring 4095 of partition 1 is active and the host reachable. -/
def stItem (i : Item) : State :=
  { State.reset with
    rig := { eff := some rig0 }, adm := { items := [i] }, host := { rings := [(4095, { st := .active, part := 1 })], linkUp := true, bme := true }
    art := { act := [(0, { valid := true, host := true, partAny := true, idMask := 0, r := true, w := true })] } }

theorem witness_slot_start :
    (stItem item0).runner (0 * 64 + 0) = some item0 ∧ (stItem item0).slotEnt 0 = some ent0 ∧ (stItem item0).classEnt item0.cls = some cls0
    ∧ ((stItem item0).sheave 0 ent0.lsheave).run = .idle ∧ item0.frames ≤ 1 ∧ 1 < ({ item0 with frames := 2 } : Item).frames := by decide

theorem witness_egress :
    let i : Item := { item0 with ring := 4095 }
    let s := stItem i
    s.runner (0 * 64 + 0) = some i ∧ s.hostUp = true ∧ (s.ring 4095).st = .active ∧ (s.ring 4095).batches = [] ∧ (s.ring 4095).part = i.part
    ∧ s.artHost 1 .write = true ∧ (s.part 1).dirtyOn = false ∧ cls0.carryLimit ≤ 1 ∧ 0 < ({ cls0 with carryLimit := 1 } : ClassEnt).carryLimit ∧ s.waitsOf i = [] := by decide

theorem witness_held :
    let h : Held := { ring := 0, index := 0, tag := 0, seq := 0, part := 0, item := 1, ended := { status := 0 }, waits := [] }
    let s := { State.reset with host := { held := [h] } }
    (s.host.held.find? fun x => x.item == 1) = some h ∧ State.reset.host.held = [] := by decide

theorem witness_fold :
    let l : AuditLink := { frame := 1, slotEnd := 0, ring := 0, seq := 0, link := [] }
    let s := { State.reset with parts := { tab := [(255, ({ links := [l] } : Part))] } }
    SMap.wf ({} : Part) s.parts.tab = true ∧ (s.part 255).links = [l] ∧ l.frame ≠ s.frame.no := by decide

theorem witness_commit :
    let s := { stRing {} with parts := { tab := [(255, { st := .active })] }, adm := { ownerSh := [(4095, 256)], bindingSh := [(255 * 256 + 255, 4096)] } }
    s.adm.commit = false ∧ (∀ x ∈ s.adm.ownerSh, (s.part (x.2 - 1)).st ≠ .none) ∧ (∀ x ∈ s.adm.bindingSh, (s.part (x.1 / 256)).st ≠ .none)
    ∧ (∀ x ∈ s.adm.bindingSh, (s.ring (x.2 - 1)).st ≠ .none ∧ (s.ring (x.2 - 1)).part = x.1 / 256) ∧ s.stay.pstate ≠ 1
    ∧ ((State.reset.setHd pgAdmit { st := 2 }).hd pgAdmit).st = 2 ∧ ((State.reset.setHd pgAdmit { st := 3 }).hd pgAdmit).st = 3 := by decide

theorem witness_stage :
    let s := { stFlash with rig := { staged := some (1, rig0), staging := some (1, some rig0, 0, 0) } }
    s.mode = .maintenance ∧ s.rig.staged = some (1, rig0) ∧ s.rig.staging = some (1, some rig0, 0, 0)
    ∧ ({ s with rig := { staging := some (1, none, 0x17, 8) } } : State).rig.staging = some (1, none, 0x17, 8) ∧ State.reset.mode ≠ .maintenance := by decide

set_option maxRecDepth 10000 in
theorem witness_rig_load :
    let s := { State.reset with
      rig := { due := true }, glob := { State.reset.glob with katRun := true }, spring := { rills := (List.range 64).map fun y => (256 + y, ({ seeded := true } : Rill)) } }
    s.rigMayLoad = true ∧ s.stay.pstate ≠ 1 ∧ s.stay.pstate ≠ 4 := by decide

theorem witness_rig_load_done :
    let s := { State.reset with rig := { loading := some (0, { images := [[7]], imageOf := [(0, 1)] }) } }
    let r : Rig := { images := [[7]], imageOf := [(0, 1)] }
    s.rig.loading = some (0, r) ∧ (∀ y, (s.yard y).map = []) ∧ (∀ y l, (r.image y l).length ≤ 0x8000) ∧ r.tables = [] ∧ s.glob.change = none := by
  refine ⟨rfl, fun _ => rfl, fun y l => ?_, rfl, rfl⟩
  simp only [Rig.image, SMap.get]
  by_cases h : shKey y l = 0 <;> simp [h]

theorem witness_firmware :
    let s := stFlash
    let t := s.setReg Reg.NARIS.FW_STAGE 2
    s.reg Reg.NARIS.FW_BUSY = 0 ∧ s.mode = .maintenance ∧ (1 : Nat) ≠ s.reg Reg.NARIS.RUN_BANK ∧ s.reg Reg.NARIS.FW_STAGE ≠ 2 ∧ t.reg Reg.NARIS.FW_STAGE = 2
    ∧ (s.setReg Reg.NARIS.FW_BUSY 1).reg Reg.NARIS.FW_BUSY ≠ 0 ∧ (s.setReg Reg.NARIS.RUN_BANK 1).reg Reg.NARIS.RUN_BANK = 1
    ∧ ({ State.reset with spring := { rills := [(323, { seeded := true })] } } : State).rillServes 323 = true ∧ State.reset.rillServes 323 = false := by decide

/-- A booted device in a mode, with a change. -/
def stMode (m : Mode) (c : Option Change) : State := { State.reset with glob := { State.reset.glob with booted := true, mode := m, change := c } }

theorem witness_mode_req :
    let q : Quorum := { purpose := 3, snonce := [], met := true }
    (stMode .operational none).reg Reg.GLOBAL.BOOT_HOLD = 0 ∧ (stMode .operational none).parts.tab = [] ∧ (stMode .degraded none).standing = false
    ∧ ({ stMode .degraded none with spring := { healthFail := true } } : State).standing = true
    ∧ ({ stMode .operational none with cust := { quorum := some q } } : State).cust.quorum = some q ∧ (stMode .standby none).stay.pstate = 0
    ∧ ((stMode .standby none).setReg Reg.GLOBAL.BOOT_HOLD 2).reg Reg.GLOBAL.BOOT_HOLD = 2 := by decide

theorem witness_mode_change :
    let c : Change := { target := .maintenance, cause := .manager, orderly := true }
    let d : Change := { c with begun := true }
    (stMode .operational (some c)).glob.change = some c ∧ (stMode .operational (some c)).mode ≠ .factory ∧ c.target ≠ .terminated
    ∧ (stMode .operational (some d)).readyToWipe d = true ∧ (stMode .operational (some d)).stay.session = false
    ∧ ({ c with cause := .f4, orderly := false } : Change).cause = .f4 ∧ ({ d with target := .unclaimed } : Change).target.parts = false
    ∧ ({ stMode .degraded none with glob := { window := some { left := 0, source := 0, yard := 0, unit := 0, frame := 0 } } } : State).glob.window
        = some { left := 0, source := 0, yard := 0, unit := 0, frame := 0 } := by decide

theorem witness_power :
    let up := { State.reset with pins := { perst := false } }
    let c : Change := { target := .degraded, cause := .clearVolatile, orderly := false }
    State.reset.tamper.mainPower = true ∧ State.reset.pins.perst = true ∧ State.reset.pins.rails = true ∧ up.pins.perst = false
    ∧ ({ up with tamper := { mainPower := false, alertPending := true } } : State).tamper.alertPending = true
    ∧ (up.setReg Reg.GLOBAL.BOOT_STAGE 11).reg Reg.GLOBAL.BOOT_STAGE ≠ 0 ∧ up.glob.window = none ∧ (stMode .operational (some c)).glob.change = some c := by decide

theorem witness_flash_ready :
    let a : OptArea := { fwActive := 0, gen := 1, mode := 2 }
    let s := { State.reset with flash := { optA := some a, optB := some { a with gen := 2 } }, tamper := { rootState := 0 } }
    let r := s.setReg Reg.GLOBAL.BOOT_STAGE 1
    r.reg Reg.GLOBAL.BOOT_STAGE = 1 ∧ r.flash.ready = false ∧ r.flash.optA = some a ∧ r.flash.dead = [] ∧ r.flash.journal = [] ∧ r.flash.shipped = true
    ∧ a.fwFallback = false ∧ a.fwFloor = 0 ∧ r.tamper.rootState = 0 := by decide

theorem witness_seeds :
    let s (sp : SpringSt) := { State.reset with spring := { sp with started := true, cells := (List.range 8).map fun c => (c, ({ feeding := true } : Cell)) } }
    let good (p : BitVec 10) := ((List.range 10).filter fun c => p.getLsbD c && !((s {}).cell c).retired).length
    8 ≤ good 0xFF ∧ good 0x7F < 8 ∧ (s {}).spring.startupDone = false ∧ (s {}).spring.healthFail = false
    ∧ 8 ≤ (s { startupDone := true }).feeding.length ∧ (s { startupDone := true }).spring.seedReady = false
    ∧ (s { seedReady := true, rills := [(256, { seeded := true })] }).spring.seedReady = true
    ∧ ((s { seedReady := true, rills := [(256, { seeded := true })] }).rill 257).seeded = false
    ∧ (s { rills := [(323, { seeded := true })] }).rillServes 323 = true ∧ State.reset.glob.katRun = false := by decide

theorem witness_die_link :
    let s (b : SMap (Option (List Byte))) := { State.reset with frame := { running := true }, glob := { dieKey := List.replicate 32 7, dieBuf := b } }
    let bad (b : SMap (Option (List Byte))) := let w := (s b).dieWire true 5 [1, 2]; (s b).dieReceive true 5 (xorBytes w (fitBytes w.length [1]))
    bad [] = none ∧ bad [(11, some [1, 2])] = none ∧ SMap.get none (s []).glob.dieBuf (dieBufKey true 5) = none
    ∧ SMap.get none (s [(11, some [1, 2])]).glob.dieBuf (dieBufKey true 5) = some [1, 2] ∧ (s []).glob.window = none := by decide +kernel

theorem witness_boot_complete :
    let s := { State.reset with flash := { ready := true }, spring := { seedReady := true }, glob := { mode := .maintenance, katRun := true }, pins := { perst := false } }
    s.bootReady = true ∧ s.standing = false ∧ s.stay.session = false ∧ s.tamper.rootState ≠ 0 ∧ s.glob.bootTarget = none
    ∧ (s.setReg Reg.GLOBAL.BOOT_HOLD 3).bootReady = true ∧ (s.setReg Reg.GLOBAL.BOOT_HOLD 4).bootReady = true ∧ (s.setReg Reg.GLOBAL.BOOT_HOLD 4).reg Reg.GLOBAL.BOOT_HOLD = 4 := by decide

theorem witness_registers :
    let s := { State.reset with glob := { log := [{ cls := 2, raised := 2, esc := false, dep := false, source := 1, yard := 0, unit := 0, frame := 5 }] } }
    State.reset.reg Reg.GLOBAL.BOOT_HOLD ≠ 1 ∧ (stMode .operational none).glob.booted = true ∧ State.reset.cvu 15 = none ∧ (State.reset.hd pgGlobal).lock = false
    ∧ ((State.reset.setHd pgGlobal { lock := true }).hd pgGlobal).lock = true ∧ State.reset.blockAnswers pgFrame = true ∧ State.reset.blockAnswers 1 = false
    ∧ State.reset.pageAnswers (0x1100 / 4096) = true ∧ latchedLo.contains 0x1100 = true ∧ s.glob.log.length = 1 := by decide

theorem witness_force :
    let s := { ((State.reset.setHd pgFrame { intEn := 16 })) with host := { linkUp := true, bme := true, cfg := { msixEn := true } } }
    let set := (s.hd pgFrame).intStat ||| ((16 : Nat) &&& intBits (pgFrame * 256))
    (set &&& (s.hd pgFrame).intEn).testBit 4 = true ∧ ((s.hd pgFrame).intStat &&& (s.hd pgFrame).intEn).testBit 4 = false ∧ s.hostUp = true := by decide

theorem witness_art_commit :
    let good : Rule := { valid := true, base := 1, limit := 1 }
    let bad : Rule := { valid := true, base := 2, limit := 1 }
    let s := { State.reset with art := { sh := [(0, good), (1015, bad)] } }
    s.art.commit = false ∧ s.art.sh = [(0, good)] ++ (1015, bad) :: [] ∧ bad.valid = true ∧ bad.limit < bad.base ∧ ¬ good.limit < good.base ∧ good.host = false ∧ good.x = false := by decide

theorem witness_host_cvu :
    let v : HostCvu := { poly := 0, fold := false, cmp := true, part := 255, addr := 0, len := 1, foldWord := 0, expect := 0 }
    let s := { ((stExport.setReg (Reg.CVU.HPART 15) 255).setReg (Reg.CVU.HLEN 15) 1) with
      art := { act := [(0, { valid := true, host := true, partAny := true, idMask := 0, r := true })] } }
    s.cvu 15 = none ∧ (s.part 255).st = .quiesced ∧ s.reg (Reg.CVU.HPART 15) = 255 ∧ s.reg (Reg.CVU.HLEN 15) ≠ 0 ∧ s.artHost 255 .read = true ∧ s.hostUp = true
    ∧ ({ s with cvus := [(15, some v)] } : State).cvu 15 = some v := by decide

/-- A link in a state of Table 12.8 with a Stay identity whose twin has the greatest of all fingerprints. -/
def stLink (h : Nat) (y : StaySt) (fp : List Byte := List.replicate 32 0xFF) : State :=
  { State.reset.setHd pgStay { enable := h != 0, st := h } with
    stay := y, spring := { rills := [(323, { seeded := true })] },
    flash := { State.reset.flash with opt := { State.reset.flash.opt with stay := some { twinFp := fp, pairMode := 2, roleCfg := 0 }, members := [fp] } } }

theorem witness_stay_enable :
    ((stLink 3 {}).hd pgStay).st = 3 ∧ (State.reset.hd pgStay).st ≠ 3 ∧ State.reset.stayId = none ∧ ((stLink 0 {}).hd pgStay).st = 0 ∧ (stLink 0 {}).stayId ≠ none
    ∧ ((stLink 2 {}).hd pgStay).st = 2 ∧ (stLink 2 { lstate := 3 }).stay.lstate = 3 ∧ ((stLink 1 { lstate := 2 }).hd pgStay).st = 1
    ∧ (stLink 1 { lstate := 2 }).stay.transcript = [] ∧ (stLink 1 { lstate := 2 }).rillServes (wireRill 3) = true ∧ State.reset.rillServes (wireRill 3) = false := by decide

theorem witness_link_train :
    linkPick (min (laneLimit ((stLink 1 {}).reg Reg.STAY.MAX_LANES)) (laneLimit 0)) ((stLink 1 {}).reg Reg.STAY.MAX_RATE == 0 && true) 15 0 = some 1
    ∧ linkPick (min (laneLimit ((stLink 1 {}).reg Reg.STAY.MAX_LANES)) (laneLimit 2)) ((stLink 1 {}).reg Reg.STAY.MAX_RATE == 0 && false) 15 1 = some 6
    ∧ linkPick 4 true 8 8 = none ∧ linkPick 1 true 15 15 = some 4 := by decide

theorem witness_link_retrain :
    let s := stLink 1 { lstate := 3, txSeq := 2, acked := 1, replay := [{ typ := 3, seq := 1 }], retrain := some 0 }
    let from' (q : Nat) := (q + 2 ^ 32 - 1) % 2 ^ 32
    s.stay.lstate = 3 ∧ s.stay.retrain ≠ none ∧ from' s.stay.txSeq < 2 ^ 31 ∧ from' s.stay.txSeq ≤ s.stay.replay.length ∧ ¬ (s.stay.txSeq + 2 ^ 32 - 0) % 2 ^ 32 ≤ s.stay.replay.length
    ∧ (stLink 1 { lstate := 3 }).stay.retrain = none := by decide

theorem witness_hello :
    let s := stLink 1 { lstate := 2, hs := 1 }
    s.stay.lstate = 2 ∧ s.stay.hs = 1 ∧ s.stayId.map StayId.twinFp = some (List.replicate 32 0xFF) ∧ s.isMember (List.replicate 32 0xFF) = true
    ∧ ¬ (s.stayId.map StayId.twinFp = some []) := by decide

theorem witness_hello_member :
    let s := stLink 1 { lstate := 2, hs := 1 }
    let u := { s with flash := { s.flash with opt := { s.flash.opt with members := [List.replicate 32 0xFF, ownFp] } } }
    u.isMember ownFp = true ∧ u.isMember (List.replicate 32 0xFF) = true := by
  intro s u
  constructor
  · simp only [u, State.isMember, List.any_cons, beq_self_eq_true, Bool.true_or, Bool.or_true]
  · simp only [u, State.isMember, List.any_cons, beq_self_eq_true, Bool.true_or]

/-- A device without an identity counts as the lower twin; one whose twin has the smallest fingerprint does not. -/
theorem witness_lower : State.reset.lowerTwin = true ∧ (stLink 1 {} []).lowerTwin = false := by
  constructor
  · decide
  · simp [State.lowerTwin, State.stayId, stLink, State.setHd, beNat]

theorem witness_kem :
    let s := stLink 1 { lstate := 2, hs := 2, transcript := [(true, [1]), (false, [2])] } []
    let u := { State.reset with stay := { lstate := 2, hs := 2, kemDk := some [], transcript := [(true, [1]), (false, [2]), (true, [3])] }, spring := { rills := [(323, { seeded := true })] } }
    s.stay.kemDk = none ∧ s.rillServes (wireRill 3) = true ∧ mlkemEkOk [] = false ∧ u.stay.kemDk = some [] ∧ u.rillServes (wireRill 3) = true ∧ u.stay.hs = 2
    ∧ s.stay.transcript = [(true, [1]), (false, [2])] := by decide

set_option maxRecDepth 20000 in
theorem witness_kem_key : mlkemEkOk (List.replicate 1184 0) = true := by decide

theorem witness_auth :
    let s := { stLink 1 { lstate := 2, hs := 3 } with glob := { State.reset.glob with booted := true, mode := .operational } }
    s.stay.lstate = 2 ∧ s.stay.hs = 3 ∧ s.glob.change = none ∧ s.mode = .operational ∧ s.stayId.map StayId.pairMode = some 2 := by decide

theorem witness_frames :
    let s := stLink 2 { lstate := 3, rxSeq := 5, txSeq := 2, acked := 1, replay := [{ typ := 4, seq := 0 }, { typ := 4, seq := 1 }], mirror := [{ seq := 0, item := 1, head := 0 }, { seq := 1, item := 2, head := 1 }] }
    s.stay.rxSeq < 2 ^ 32 ∧ s.stay.lstate ≥ 2 ∧ (s.hd pgStay).st ≠ 3 ∧ (∀ f ∈ s.stay.replay, f.seq < s.stay.txSeq) ∧ (s.stay.txSeq + 2 ^ 32 - 1) % 2 ^ 32 ≤ s.stay.replay.length ∧ s.stay.resends < 8
    ∧ s.stay.acked = 1 ∧ (5#32 : Word).toNat = s.stay.rxSeq := by decide

theorem witness_frames_order : seqBefore 0 1 ∧ ¬ seqBefore 1 1 ∧ seqBefore 0xFFFFFFFF 0 ∧ ¬ seqBefore 0 0x80000000 := by
  unfold seqBefore
  decide

theorem witness_frames_edge :
    let s := stLink 3 { lstate := 3, rxSeq := 0x80000000, txSeq := 3, replay := [{ typ := 4, seq := 2 }], resends := 8, acked := 2, departed := true }
    ((0#32 : Word).toNat + 2 ^ 32 - s.stay.rxSeq) % 2 ^ 32 = 2 ^ 31 ∧ ¬ (s.stay.txSeq + 2 ^ 32 - 0) % 2 ^ 32 ≤ s.stay.replay.length
    ∧ (s.stay.txSeq + 2 ^ 32 - 2) % 2 ^ 32 ≤ s.stay.replay.length ∧ s.stay.resends = 8 ∧ (s.hd pgStay).st = 3 ∧ s.stay.acked ≠ s.stay.txSeq := by decide

theorem witness_ack : (stLink 2 { lstate := 2, ackDue := true }).stay.ackDue = true ∧ State.reset.stay.ackDue = false ∧ State.reset.stay.lstate ≠ 3 := by decide

theorem witness_heartbeat :
    let s := stLink 2 { lstate := 3, pstate := 1, hbLast := some 6, hbMiss := 2, hbSent := some (7, List.replicate 16 0), hbHeard := some (0, List.replicate 16 1) }
    let u := { s with frame := { State.reset.frame with ticks := 7 } }
    s.stay.lstate = 3 ∧ InSession s ∧ s.frame.ticks ≤ 6 + 1 ∧ u.frame.ticks ≤ 6 + 1 ∧ 6 + 1 < ({ s with frame := { State.reset.frame with ticks := 8 } } : State).frame.ticks ∧ 2 ≤ s.stay.hbMiss
    ∧ s.stay.hbHeard = some (s.frame.no, List.replicate 16 1)
    ∧ s.reg Reg.FRAME.SOURCE ≠ 2 ∧ (s.setReg Reg.FRAME.SOURCE 2).reg Reg.FRAME.SOURCE = 2 ∧ List.replicate 16 0 = fitBytes 16 [] ∧ List.replicate 16 0 ≠ fitBytes 16 [1] := by
  refine ⟨by decide, Or.inl rfl, ?_⟩
  decide

theorem witness_heartbeat_split :
    let s := stLink 2 { lstate := 3, pstate := 2, splitCfg := true, hbSent := some (7, List.replicate 16 0) }
    s.stay.pstate = 2 ∧ s.stay.splitCfg = true ∧ s.stay.lstate = 3 ∧ ¬ (State.reset.stay.pstate = 2) ∧ ¬ InSession State.reset := by
  refine ⟨by decide, by decide, by decide, by decide, ?_⟩
  simp [InSession, State.reset]

theorem witness_dup :
    let s := { State.reset with stay := { pstate := 3, frozen := true, frozenTicks := 1 }, frame := { State.reset.frame with ticks := 100001 } }
    s.stay.pstate = 3 ∧ s.stay.frozenTicks + s.reg Reg.STAY.DUP_HOLD ≤ s.frame.ticks ∧ s.stay.frozen = true ∧ State.reset.stay.frozen = false := by decide

theorem witness_dup_full (r : DupRec) : (r :: List.replicate 262143 r).length = 262144 := by
  rw [List.length_cons, List.length_replicate]

/-- A paired link whose store holds an entry in the last row. -/
def stMirror (p : Nat) (e : Entry) : State :=
  { stLink 2 { lstate := 3, pstate := p, rowsLeft := 1 } with cleat := { State.reset.cleat with ents := [(131071, some e)] } }

/-- What the twin sends for an entry of one row. -/
def twinE (usage : Nat) (m : List Byte) : TwinEntry :=
  { alg := 3, klen := 32, usage := usage, part := 0, exportF := 0, persist := false, packed := false, system := false, rows := 1, kbits := 0, pubexp := 0, tr31 := [], useLimit := 0, notAfter := 0, material := m }

theorem witness_cleat_wr :
    let s := stMirror 1 { alg := 3 }
    Mirrors s ∧ ¬ Mirrors State.reset ∧ HeldUnder s 0x3FFFF { alg := 3 } ∧ Clashes s 131071 1 2 ∧ ¬ Clashes s 131071 1 1 ∧ ¬ HeldUnder s 0x5FFFF { alg := 3 } := by
  refine ⟨⟨rfl, Or.inl rfl⟩, by simp [Mirrors, State.reset], ⟨rfl, rfl⟩, ⟨(131071, some { alg := 3 }), by simp [stMirror], { alg := 3 }, rfl, by decide, by decide, by decide⟩, ?_, ?_⟩
  · rintro ⟨x, hx, e, he, h1, h2, h3⟩
    have : x = (131071, some { alg := 3 }) := by simpa [stMirror] using hx
    subst this
    exact h3 rfl
  · rintro ⟨_, h⟩
    exact absurd h (by decide)

theorem witness_config : let s := stMirror 1 { alg := 3 }
    s.stay.lstate = 3 ∧ s.stay.pstate = 1 ∧ s.frame.no ≤ 0 ∧ (let f := { State.reset.frame with no := 9, prev := 7 }; 7 = f.prev ∧ 8 < f.no ∧ 8 ≠ f.prev) := by decide

theorem witness_rig_take :
    let s := { stMirror 4 { alg := 3 } with rig := { loading := some (0, { hash := [1] }) }, stay := { lstate := 3, pstate := 4, rigOwn := some 9 } }
    Mirrors s ∧ s.rig.loading = some (0, { hash := [1] }) ∧ s.stay.rigOwn = some 9 ∧ (stMirror 4 { alg := 3 }).rig.loading = none := by
  refine ⟨⟨rfl, Or.inr rfl⟩, ?_⟩
  decide

theorem witness_resync :
    let s := stMirror 4 { alg := 3, klen := 32, usage := 3, material := [1] }
    let t := twinE 1 [1]
    (∀ w ∈ s.cleat.pending, w.head ≠ 131071) ∧ 131071 ∉ s.stay.settled ∧ s.entry 131071 = some { alg := 3, klen := 32, usage := 3, material := [1] } ∧ s.rowGen 131071 = 1 ∧ newerGen 2 1 ∧ newerGen 1 0x7FFF
    ∧ t.usage ≠ 3 ∧ t.alg = 3 ∧ t.klen = 32 ∧ t.material = [1] ∧ (twinE 3 [2]).material ≠ [1] ∧ s.entry 131070 = none := by
  refine ⟨by decide, by decide, by decide, by decide, ?_, ?_, by decide, by decide, by decide, by decide, by decide, by decide⟩
  · unfold newerGen; decide
  · unfold newerGen; decide

theorem witness_resync_pending :
    let s := stMirror 4 { alg := 3 }
    let u := { s with cleat := { s.cleat with pending := [{ head := 5, rows := 1, op := .delete, writer := .twin }] } }
    (∃ w ∈ u.cleat.pending, w.head = 5) ∧ u.stay.pstate = 4 := by decide

theorem witness_resync_cfg :
    let s := stLink 2 { lstate := 3, pstate := 2, splitCfg := true }
    s.stay.lstate = 3 ∧ s.stay.pstate = 2 ∧ s.stay.splitCfg = true ∧ s.parts.tab = []
    ∧ (∃ x ∈ ({ s with parts := { tab := [(255, { st := .active })] } } : State).parts.tab, x.2.st ≠ .quiesced ∧ x.2.st ≠ .none) := by
  refine ⟨by decide, by decide, by decide, by decide, (255, { st := .active }), by simp, by decide⟩

/-- What the monitors find in a calm cycle. -/
def calm (sensors : BitVec 37) (vbat : Fin 65536) : TamperIn where
  cases := 0xFF
  sensors := sensors
  tempSd := 88
  tempCd := 88
  vbat := vbat
  vhold := 3000
  drop := false
  railCd := (0, 0)
  railSd := (0, 0)

/-- OPERATIONAL, with main power or on battery. -/
def stPower (main : Bool) : State := { stMode .operational none with tamper := { mainPower := main, vbat := 3000 } }

theorem witness_calm (m : Bool) : CalmInput (calm 0 2400) (stPower m) := by
  refine ⟨by decide, by decide, by decide, by decide, by decide, rfl, ?_, ?_, rfl, rfl⟩
  · intro n hn
    have : n = 0 ∨ n = 1 ∨ n = 2 ∨ n = 3 ∨ n = 4 ∨ n = 5 ∨ n = 6 ∨ n = 7 := by omega
    rcases this with h | h | h | h | h | h | h | h <;> subst h <;> cases m <;> decide
  · intro n _
    cases m <;> rfl

theorem witness_sensor :
    SensorLive 34 (stPower true) ∧ SensorLive 34 (stPower false) ∧ ¬ SensorLive 33 (stPower false) ∧ ((stPower true).policyOf 34).enable = true ∧ ((stPower true).policyOf 34).resp = 3
    ∧ ((stPower true).policyOf 25).resp = 2 ∧ ((stPower false).policyOf 30).resp = 1 ∧ (stPower true).tamper.asserted = 0 ∧ (stPower true).glob.change = none ∧ (stPower true).tamper.recs = []
    ∧ (stPower true).glob.booted = true ∧ (stPower true).mode = .operational ∧ (stPower true).reg Reg.TAMPER.VBAT_WARN = 2600 := by
  refine ⟨⟨by decide, by decide, by decide⟩, ⟨by decide, by decide, by decide⟩, ?_, by decide⟩
  intro h
  exact absurd (h.2.1 (Or.inr rfl)) (by decide)

theorem witness_cell : ((stPower false).policyOf 35).enable = true ∧ ({ stPower false with tamper := { (stPower false).tamper with asserted := 2 ^ 36 } } : State).tamper.asserted = 2 ^ 36
    ∧ (calm 0 2199).vbat.val < 2200 := by decide

theorem witness_loop :
    let s := { stPower true with tamper := { policy := [(23, some { enable := true, resp := 3, lmode := true })], loops := [(15, { matched := 63, tripped := true }), (0, { hist := [true] })] } }
    (s.policyOf 23).lmode = true ∧ (SMap.get ({} : LoopSt) s.tamper.loops 15).matched = 63 ∧ (SMap.get ({} : LoopSt) s.tamper.loops 15).lfsr.testBit 30 = false ∧ (s.policyOf 8).lmode = false
    ∧ (SMap.get ({} : LoopSt) s.tamper.loops 0).hist.head? = some true ∧ (s.policyOf 8).polarity = false ∧ 2 ≤ (([true, false, true] : List Bool).take 8).countP id := by decide

theorem witness_erase : let s := { State.reset with tamper := { eraseBanks := true }, flash := { State.reset.flash with ready := true, mem := [((3 * 2112 + 2111) * 4096, 0)] } }
    s.tamper.eraseBanks = true ∧ s.flash.ready = true ∧ (3 * 2112 + 2111) * 4096 / 4096 / 2112 = 3 := by decide

theorem witness_apply :
    let s := (stPower true).setReg Reg.TAMPER.SRC_SEL 36
    let p : Policy := { enable := false, resp := 0 }
    s.tamper.staged = none ∧ s.mode ≠ .terminated ∧ s.reg Reg.TAMPER.SRC_SEL = 36 ∧ s.bit Reg.TAMPER.ENABLE = false ∧ (s.policyOf 36).enable = true
    ∧ ((s.setBit Reg.TAMPER.ENABLE true).bit Reg.TAMPER.ENABLE) = true ∧ s.reg Reg.TAMPER.RESP = 0 ∧ floorOf 36 = 0 ∧ LowersEntry (s.policyOf 36) p ∧ floorOf 34 = 3
    ∧ (stMode .terminated none).mode = .terminated ∧ (stMode .ceremony none).mode = .ceremony := by
  refine ⟨by decide, by decide, by decide, by decide, by decide, by decide, by decide, by decide, Or.inl (by decide), by decide⟩

theorem witness_apply_loop :
    let s := ((((stPower true).setReg Reg.TAMPER.SRC_SEL 23).setBit Reg.TAMPER.ENABLE true).setReg Reg.TAMPER.RESP 3).setBit Reg.TAMPER.LMODE true
    s.reg Reg.TAMPER.SRC_SEL = 23 ∧ s.bit Reg.TAMPER.LMODE = true ∧ s.reg Reg.TAMPER.RESP = 3 ∧ (s.policyOf 23).resp = 3 ∧ (s.policyOf 23).lmode = false ∧ (s.policyOf 23).enable = false
    ∧ s.rillServes (wireRill 3) = false ∧ ({ s with spring := { rills := [(323, { seeded := true })] } } : State).rillServes (wireRill 3) = true := by decide

theorem witness_monitor_test :
    let s := { stPower true with tamper := { test := some 36 } }
    s.tamper.test = some 36 ∧ (s.policyOf 36).resp = 1 ∧ (s.policyOf 36).enable = true ∧ ((stPower true).policyOf 0).enable = false ∧ (stPower true).tamper.test = none := by decide

theorem witness_rtc :
    let s := (stPower true).setReg Reg.TAMPER.RTC_SET_SEC 5
    s.reg Reg.TAMPER.RTC_SET_SEC = 5 ∧ s.tamper.rtcSec ≤ 5 ∧ 5 < ({ s with tamper := { rtcSec := 6 } } : State).tamper.rtcSec ∧ s.mode ≠ .terminated := by decide

/-- The port in a state, with the UID of Table 18.4's token X. -/
def stPicc (p : Picc) : State := { State.reset with witness := { picc := p, uid := [0x08, 0x5A, 0x3C, 0x91] } }

theorem witness_picc :
    (stPicc .ready).witness.uid = [0x08, 0x5A, 0x3C, 0x91] ∧ (stPicc .ready).witness.picc = .ready ∧ (stPicc .active).witness.picc = .active ∧ (stPicc .halt).witness.picc = .halt
    ∧ (stPicc .idle).witness.field = false ∧ ({ State.reset with witness := { field := true, scan := some [] } } : State).witness.field = true
    ∧ ({ State.reset with witness := { field := true, scan := some [] } } : State).witness.scan = some [] ∧ State.reset.witness.scan = none := by decide

theorem witness_anticoll : ¬ [true] <+: bitsOfBytes [0x08, 0x5A, 0x3C, 0x91, 0xFF] ∧ ((0x08 : Byte) ^^^ 0x5A ^^^ 0x3C ^^^ 0x91) = 0xFF := by decide

theorem witness_wstamp : State.reset.reg Reg.WITNESS.FIELD_WRITE_MIN = 2000 ∧ State.reset.reg Reg.TAMPER.VBAT_WARN = 2600 ∧ (2000 : Fin 65536).val = 2000 ∧ (2599 : Fin 65536).val < 2600 := by decide

theorem witness_busy :
    let s (w : Wired) (n : Nat) : State := { State.reset with witness := { wired := [(w, n)] } }
    (s (.window 0x1FFC) 7).witness.wired = [(.window 0x1FFC, 7)] ∧ (s (.store 0x1C00 [1]) 6).witness.wired = [(.store 0x1C00 [1], 6)]
    ∧ (s (.load 0 4 (.d 3 false)) 7).witness.wired = [(.load 0 4 (.d 3 false), 7)] ∧ State.reset.witness.wired = [] := by decide

theorem witness_record :
    let r : WRec := { typ := 9, source := 255, resp := 255, flags := 0, sec := 0, sub := 0, bootLo := 0, detail := [], vbat := 0, temp := -4 }
    let s := { State.reset with tamper := { recs := [r] }, witness := { wseq := 225, mem := [(32, 1)] } }
    s.tamper.recs = [r] ∧ s.witness.arb = false ∧ 225 % 224 = 1 ∧ leNat (SMap.bytes s.witness.mem 32 4) ≠ 0 ∧ leNat (SMap.bytes s.witness.mem 64 4) = 0 := by decide

/-- A session on the ICC pins in class `cls` with the default Fi 372, Di 1 and WI 10. -/
def PlainIcc (cls : Nat) (inverse : Bool) : IccSt := { cls := cls, inverse := inverse, fi := 372, di := 1, guardT := 0, wi := 10 }

/-- A card that answers nothing but an ATR. -/
def cardIcc (v33 : Bool) (cmd8 : Fin 3) : CardIn where
  cmd8 := cmd8
  wp := false
  busWidth := 2
  hsFn := 0
  v33 := v33
  atrB := some [0x3B, 0x00]
  atrA := none

theorem witness_card :
    State.reset.card.present = false ∧ State.reset.card = {} ∧ (cardIcc true 2).cmd8.val ≠ 0 ∧ (cardIcc true 1).v33 = true ∧ (cardIcc false 1).v33 = false ∧ (cardIcc true 0).cmd8 = 0
    ∧ (cardIcc true 0).hsFn.val ≠ 1 ∧ (State.reset.reg Reg.CARD.ICC_CLASS_EN).testBit 0 = true ∧ (State.reset.reg Reg.CARD.ICC_CLASS_EN).testBit 1 = true
    ∧ ((State.reset.setReg Reg.CARD.ICC_CLASS_EN 2).reg Reg.CARD.ICC_CLASS_EN).testBit 0 = false ∧ (0x0F : Byte).toNat / 16 = 0 := by decide

/-- An ATR with TA1 and TD1, whose TD1 announces TC2. -/
theorem witness_atr :
    let t0 : Byte := 0x90
    let d : Byte := 0x40
    (t0.toNat / 16).testBit 0 = true ∧ (t0.toNat / 16).testBit 1 = false ∧ (t0.toNat / 16).testBit 2 = false ∧ (t0.toNat / 16).testBit 3 = true
    ∧ (d.toNat / 16).testBit 0 = false ∧ (d.toNat / 16).testBit 2 = true ∧ (d.toNat / 16).testBit 3 = false ∧ d.toNat % 16 = 0 ∧ (0x41 : Byte).toNat % 16 ≠ 0
    ∧ ([0x3B, 0x90, 0x95, 0x40, 30, 7] : List Byte) = 0x3B :: t0 :: ([0x95] ++ [] ++ [] ++ d :: ([] ++ [] ++ [30] ++ [] ++ [7])) := by decide

theorem witness_card_dma :
    State.reset.artOk 0x055 none .write (0x10000000 + 261632) 512 = true ∧ State.reset.artOk 0x055 none .read (0x10000000 + 261633) 512 = false := by decide +kernel

set_option maxRecDepth 4000 in
theorem witness_sd :
    let s := { State.reset with card := { present := true, typ := 1 } }
    s.card.typ = 1 ∧ (List.replicate 512 (0 : Byte)).length = 512 ∧ ({ s with card := { present := true, typ := 2, icc := some (PlainIcc 1 false) } } : State).card.icc = some (PlainIcc 1 false)
    ∧ ({ s with card := { present := true, typ := 3 } } : State).card.typ ≠ 1 ∧ s.card.present = true := by decide

theorem witness_apdu :
    let q : Quorum := { purpose := 1, snonce := [], fresh := true, m := 2, n := 3 }
    let s := { State.reset with card := { present := true, typ := 2, icc := some { PlainIcc 1 false with selected := true, info := some (1 :: List.replicate 64 0) } }, cust := { quorum := some q } }
    s.card.icc = some { PlainIcc 1 false with selected := true, info := some (1 :: List.replicate 64 0) } ∧ s.cust.quorum = some q
    ∧ infoKey (1 :: List.replicate 64 0) = some (1 :: List.replicate 64 0) := by decide

theorem witness_open :
    let s := (((stMode .unclaimed none).setReg Reg.CARD.Q_PURPOSE 1).setReg Reg.CARD.Q_M 2).setReg Reg.CARD.Q_N 16
    s.reg Reg.CARD.Q_PURPOSE = 1 ∧ s.cust.quorum = none ∧ s.mode = .unclaimed ∧ s.reg Reg.CARD.Q_M = 2 ∧ s.reg Reg.CARD.Q_N = 16 ∧ s.rillServes (wireRill 3) = false
    ∧ ({ s with spring := { rills := [(323, { seeded := true })] } } : State).rillServes (wireRill 3) = true ∧ ((s.setReg Reg.CARD.Q_N 17).reg Reg.CARD.Q_N) = 17
    ∧ State.reset.reg Reg.CARD.Q_PURPOSE = 0 ∧ (stMode .standby none).mode = .standby := by decide

theorem witness_timeout :
    let s := { stMode .ceremony none with cust := { quorum := some { purpose := 2, snonce := [] } } }
    s.cust.quorum ≠ none ∧ s.mode = .ceremony ∧ s.glob.change = none ∧ s.witness.scan = none ∧ s.witness.field = false := by decide

/-- CEREMONY with a session that is met, and wire rills 2 and 3. -/
def stCer (purpose : Nat) (st : Staged) : State :=
  { stMode .ceremony none with
    cust := { quorum := some { purpose := purpose, snonce := [], counted := [[1], [2]], met := true }, staged := st },
    spring := { rills := [(322, { seeded := true }), (323, { seeded := true })] } }

theorem witness_ceremony_steps :
    let s := stCer 2 {}
    s.mode = .ceremony ∧ State.reset.mode ≠ .ceremony ∧ (s.cust.quorum.map Quorum.counted).getD [] = [[1], [2]] ∧ (s.setReg Reg.CARD.Q_M 2).reg Reg.CARD.Q_M = 2 ∧ s.reg Reg.CARD.Q_M < 2
    ∧ min 4096 ((s.setReg Reg.CARD.CER_LEN 1312).reg Reg.CARD.CER_LEN) = 1312 ∧ min 4096 ((s.setReg Reg.CARD.CER_LEN 37).reg Reg.CARD.CER_LEN) = 2 + 8 * 0 + 35
    ∧ leNat (winBytes s 2) = 0 ∧ s.rillServes (wireRill 3) = true ∧ ({ s with spring := {} } : State).rillServes (wireRill 3) = false
    ∧ ({ s with glob := { s.glob with kemDk := some [] } } : State).glob.kemDk = some [] ∧ CerCmd .abandon := by
  refine ⟨by decide, by decide, by decide, by decide, by decide, by decide, by decide, by decide, by decide, by decide, by decide, Or.inl ?_⟩
  decide

theorem witness_members_stay :
    let s := { stCer 2 {} with cust := { win := [(0, 1), (10, 1), (11, 2), (12, 1)] } }
    leNat (winBytes s 2) = 1 ∧ (SMap.get 0 s.cust.win 10).toNat = 1 ∧ (SMap.get 0 s.cust.win 11).toNat = 2 ∧ (SMap.get 0 s.cust.win 12).toNat ≤ 1
    ∧ leNat (winBytes ({ s with cust := { win := [(0, 1), (1, 4)] } } : State) 2) = 1025 := by decide

theorem witness_comp_write :
    let s := { stCer 2 {} with cust := { staged := { domGen := some (List.replicate 32 1) }, win := [(0, 16)] } }
    (SMap.get 0 s.cust.win 0).toNat = 16 ∧ s.newDomain.length = 32 ∧ s.rillServes (wireRill 3) = true ∧ (∀ c : CompCard, (List.replicate 16 c).length = 16) := by
  refine ⟨by decide, by decide, by decide, fun c => by simp⟩

/-- Whatever the components are, there are cards that meet what COMP_WRITE asks of them. -/
theorem witness_comp_cards (bl : List (List Byte)) (s : State) (h : (s.reg Reg.CARD.PRESENT_19148).testBit 0 = true) :
    let cards : List CompCard := bl.map fun b => { custodian := 0, wp := false, done := .done 250, back := b }
    ∀ j < bl.length, ∀ c, cards[j]? = some c →
      (c.custodian.val < 16 ∧ (s.reg Reg.CARD.PRESENT_19148).testBit c.custodian = true) ∧ c.wp = false ∧ c.done ≠ .removedBefore ∧ some c.back = bl[j]? := by
  intro cards j hj c hc
  rw [List.getElem?_map] at hc
  rw [List.getElem?_eq_getElem hj] at hc ⊢
  simp only [Option.map_some, Option.some.injEq] at hc
  subst hc
  exact ⟨⟨Nat.zero_lt_succ _, h⟩, rfl, by simp, rfl⟩

theorem witness_comp_load :
    let s := (stCer 2 {}).setReg Reg.CARD.PRESENT_19148 0x8000
    s.mode = .ceremony ∧ (s.reg Reg.CARD.PRESENT_19148).testBit 15 = true ∧ (List.replicate 32 (0 : Byte)).length = 32 ∧ ([] : List Byte).length ≠ 512 := by decide

theorem witness_cer_commit :
    let s := stCer 2 { members := some ([], none) }
    let c := stCer 1 { rigKey := some [], members := some ([], none) }
    s.cust.quorum.map Quorum.met = some true ∧ s.cust.quorum.map Quorum.purpose = some 2 ∧ s.cust.staged.members = some ([], none) ∧ c.cust.quorum.map Quorum.purpose = some 1
    ∧ c.cust.staged.rigKey ≠ none ∧ c.cust.staged.join = none ∧ c.rillServes (wireRill 3) = true ∧ c.rillServes (wireRill 2) = true ∧ c.glob.change = none
    ∧ (stCer 1 {}).cust.staged.rigKey = none ∧ (stCer 1 {}).mode = .ceremony := by decide

theorem witness_front : (State.reset).pending = [] ∧ ({ State.reset with pending := [.frameTick, .tickStep] } : State).pending = .frameTick :: [.tickStep]
    ∧ decodeTableWord 32 0xE1000000 = some (.addi h0 false 0 0 0) ∧ decodeTableWord 32 0xE7000000 = none := by
  refine ⟨rfl, rfl, ?_⟩
  decide +kernel

theorem witness_memories : Memory.wf { State.reset with ymem := [(5, 1)], flash := { mem := [(0, 1)] }, pending := [.frameTick] } = true
    ∧ Memory.wf { State.reset with ymem := [(5, 0)] } = false := by decide

theorem test_reset_words : (resetWords.filter fun e => State.reset.view e.1 != e.2) = [] ∧ (pageKinds.filter fun e => State.reset.view (e.1 * 0x1000) != e.2) = []
    ∧ (latchedLo.filter fun off => State.reset.readValue true (off + 4) != 0) = [] := by decide +kernel

/-! ### Ill-formed commands -/

/-- A header with a reserved bit set. -/
def hBad : CHdr := { h0 with rsv := 1 }

def xBad : XHdr := { x0 with mc := .m3 }

theorem test_wf_reserved_bits : Instr.wf (.add hBad false 0 0 0) = false ∧ Instr.wf (.qclr hBad 0) = false ∧ Instr.wf (.bl { x0 with rsv := 1 } 0) = false := by decide
theorem test_wf_mc : Instr.wf (.bl xBad 0) = false ∧ Instr.wf (.halt xBad) = false ∧ Instr.wf (.halt x0) = true := by decide
theorem test_wf_size : Instr.wf (.ld h0 3 false 0 0 0) = false ∧ Instr.wf (.st h0 3 0 0 0) = false ∧ Instr.wf (.ld h0 2 false 0 0 0) = true := by decide
theorem test_wf_lea : Instr.wf (.lea h0 0 0 3 0) = false ∧ Instr.wf (.lea h0 0 1 1 0) = false ∧ Instr.wf (.lea h0 0 1 0 0) = true := by decide
theorem test_wf_pairs : Instr.wf (.mulu h0 1 0 0) = false ∧ Instr.wf (.muls h0 3 0 0) = false ∧ Instr.wf (.macu h0 5 0 0) = false ∧ Instr.wf (.post x0 0 0 7) = false := by decide
theorem test_wf_use : Instr.wf (.qkey x0 0 0 5) = false ∧ Instr.wf (.srw x0 2 0) = false ∧ Instr.wf (.srw x0 3 0) = true := by decide
theorem test_wf_frames : Instr.wf (.hello [] [] []) = false ∧ Instr.wf (.kem [0] []) = false ∧ Instr.wf (.auth [] [] [] [0] 0) = false
    ∧ Instr.wf (.heartbeatRx 0 [] false 0) = false ∧ Instr.wf (.rig [] 0) = false ∧ Instr.wf (.head 0 0 []) = false := by decide
theorem test_wf_window : Instr.wf (.estimatorWindow 0 1 2) = false ∧ Instr.wf (.estimatorWindow 0 2 1) = true := by decide
theorem test_wf_card : Instr.wf (.sdBlockRead 0 0 0 [] 0) = false
    ∧ Instr.wf (.scan [{ uid := [1], iso4 := true, info := [], auth := [] }]) = false ∧ Instr.wf (.compWrite []) = false := by decide
theorem test_wf_access : Instr.wf (.latchedLoRead false 2) = false ∧ Instr.wf (.intForce 1 0) = false ∧ Instr.wf (.lockPage 0x81 0) = false ∧ Instr.wf (.lockPage 0x41 0) = true
    ∧ Instr.wf (.registerWrite false 0 2 ⟨0, none⟩) = false ∧ Instr.wf (.registerWrite false 1 0 ⟨0, none⟩) = false
    ∧ Instr.wf (.registerWrite false 0 4 ⟨0, some 0⟩) = false ∧ Instr.wf (.registerWrite false 0 8 ⟨0, some 0⟩) = true ∧ Instr.wf (.barUnsupportedAccess 0 4 4 false) = false := by decide
theorem test_wf_tag : Instr.wf (.picAnticoll (List.replicate 41 true)) = false ∧ Instr.wf (.picSelect [0] true) = false := by decide

/-! ### Examples of the spec -/

/-- The table of Table 3.9 at 0x0001_2000 of data RAM, its base in A2 and the index in D7. -/
def stTli (i : Word) : State :=
  let t := stRun { a := (Vector.replicate 8 0).set 2 0x12004, d := (Vector.replicate 16 0).set 7 i }
  { t with dram := SMap.putBytes [] 0x2000 (([9, -120, -80, -35, 0, 20, 45, 60, 72, 80] : List Int).flatMap fun v => leBytes 4 (BitVec.ofInt 32 v).toNat) }

/-- What TLI D6, A2, D7 writes into D6, and V. -/
def tliOf (i : Word) : List Int × List (Option Bool) :=
  match exec (.tli h0 6 2 7) (stTli i) with
  | .next t =>
    let ws := (t.cpu h0.ex).pend.map PendWrite.w
    (ws.filterMap fun w => match w with
      | .d 6 x => some x.toInt
      | _ => none,
     ws.filterMap fun w => match w with
      | .fl _ _ _ v _ => some v
      | _ => none)
  | _ => ([], [])

theorem test_tli_tie : tliOf 0x3A000 = ([13], [some false]) := by decide +kernel
theorem test_tli_negative : tliOf 0x14000 = ([-69], [some false]) := by decide +kernel
theorem test_tli_clamped : tliOf 0x90000 = ([80], [some true]) := by decide +kernel

/-- Table 17.6: CASE3 with ALERT and LOOP5 in PRBS mode with CLEAR_VOLATILE, both raised in one cycle on the cell. -/
def stLid : State :=
  { State.reset with
    witness := { wseq := 0x417 },
    tamper := {
      mainPower := false, rtcSec := 0x4A310C5E, rtcSub := 0x1A3F, rtcValid := true,
      policy := [(3, some { enable := true, resp := 1, polarity := true }), (13, some { enable := true, resp := 2, lmode := true })],
      loops := [(5, { tripped := true })] } }

def lidIn : TamperIn :=
  { cases := 8, sensors := 0, tempSd := 88, tempCd := 0, vbat := 3010, vhold := 0, drop := false, railCd := (0, 0), railSd := (0, 0) }

def afterOf (c : Instr) (s : State) : State :=
  match exec c s with
  | .next t => t
  | _ => s

theorem test_lid_records : (afterOf (.tamperEval lidIn) stLid).tamper.recs.map (fun r => [r.typ, r.source, r.resp, r.flags, r.sec, r.sub, r.vbat, r.temp.toNat])
    = [[1, 3, 1, 0x03, 0x4A310C5E, 0x9A40, 3010, 88], [1, 13, 2, 0x1F, 0x4A310C5E, 0x9A40, 3010, 88]] := by decide +kernel

theorem test_lid_bytes : (afterOf .witnessRecordWrite (afterOf (.tamperEval lidIn) stLid)).witBytes (32 * recSlot 0x417) 14
    = [0x17, 0x04, 0, 0, 0x01, 0x03, 0x01, 0x03, 0x5E, 0x0C, 0x31, 0x4A, 0x40, 0x9A] := by decide +kernel

/-- Table 18.4: X has the 1 in the bit in which they differ, so X is completed first, after one collision. -/
theorem test_scan_order :
    let x : TagIn := { uid := [0x08, 0x5A, 0x3C, 0x91], iso4 := true, info := [], auth := [] }
    let y : TagIn := { uid := [0x08, 0x5A, 0x3C, 0x11], iso4 := true, info := [], auth := [] }
    scanRounds 32 [y, x] = ([x, y], 1) := by decide +kernel

/-- FIPS 180-4 and FIPS 202 name these digests of "abc"; FIPS 197 this block. -/
theorem test_sha256 : (sha256 (ascii "abc")).take 4 = [0xBA, 0x78, 0x16, 0xBF] := by decide +kernel
theorem test_sha3 : (sha3_256 (ascii "abc")).take 4 = [0x3A, 0x98, 0x5D, 0xA7] := by decide +kernel

/-! ### Encodings of the Sheave (Table 3.6 to Table 3.8) and the services of the standard rig (R288 to R320) -/

/-- NOP, the TLI of the worked example of R110, LDI, ST, POST and HALT, from the fields of Table 3.6. -/
theorem test_decode_words :
    decodeWord (.sheave 0 0) 0xE1000000 = some (.addi h0 false 0 0 0)
    ∧ decodeWord (.sheave 0 0) 0xE9647000 = some (.tli h0 6 2 7)
    ∧ decodeWord (.sheave 0 0) 0xE2F8BEEF = some (.ldih h0 15 0xBEEF)
    ∧ decodeWord (.sheave 0 0) 0xE9657000 = some (.tli { h0 with rsv := 0x010000 } 6 2 7)
    ∧ decodeWord (.sheave 0 0) 0xF5158800 = some (.post x0 5 6 2)
    ∧ decodeWord (.sheave 0 0) 0xF5000080 = some (.halt x0) := by decide +kernel

/-- An unassigned major and an unassigned XOP name no instruction (R105). -/
theorem test_decode_unassigned :
    decodeWord (.sheave 0 0) 0xE7000000 = none ∧ decodeWord (.sheave 0 0) 0xFF000000 = none ∧ decodeWord (.sheave 0 0) 0xE000003F = none := by decide +kernel

/-- Table 9.2: one status for each REASON. -/
theorem test_reason_status :
    ([0x00, 0x01, 0x02, 0x10, 0x11, 0x12, 0x13, 0x20, 0x21, 0x22, 0x30, 0x40, 0x41, 0x42, 0x50, 0x51, 0x52, 0x60].map reasonStatus)
    = [0, 0x0B, 0x0B, 1, 1, 1, 1, 1, 8, 8, 0x0B, 0x0B, 0x0B, 0x0B, 0x0B, 0x0B, 0x0B, 0x13] := by decide

/-- R292: the first failure names REASON, and CHECKS shows both; R120: a latched status leaves a zero result. -/
theorem test_service_post :
    let cs : List SvcCheck := [{ reason := 0x01, failed := false }, { reason := 0x10, bit := some 0, failed := true }, { reason := 0x20, bit := some 2, failed := true }]
    svcPost cs [7] [1, 2] none = { status := 1, result := [0x10, 0x05, 7, 0, 0, 0, 0, 0], out := [1, 2] }
    ∧ svcPost cs [7] [1, 2] (some 9) = { status := 9, result := List.replicate 8 0, out := [] }
    ∧ svcPost ({ reason := 0x02, failed := true } :: cs) [] [1, 2] none = { status := 0x0B, result := [0x02, 0x05, 0, 0, 0, 0, 0, 0], out := [] } := by decide

/-- Table 9.4, row by row, without and with DOWN. -/
theorem test_xlate_table :
    ([0, 1, 3, 4].map fun i => [0, 1, 3, 4].map fun o => (xlateOk i o false, xlateOk i o true))
    = [[(true, true), (false, false), (true, true), (true, true)], [(true, true), (true, true), (true, true), (true, true)],
       [(true, true), (false, false), (true, true), (true, true)], [(false, true), (false, false), (false, true), (true, true)]] := by decide

/-- The traced example: slot 12 starts at 1,540 in yard 12 with pair 12, the last slot ends at 9,880; the PAN field. -/
theorem test_pin_layout : (pinLayout 12).start = 1540 ∧ (pinLayout 12).yard = 12 ∧ (pinLayout 12).pair = 12 ∧ (pinLayout 12).egress = (1800, 1840)
    ∧ (pinLayout 79).stop = 9880 := by decide

theorem test_pan_field : panField 4 16 (hexBytes 10 0x4761283009541127FFFF) = hexBytes 16 0x44761283009541127000000000000000 := by decide +kernel

/-- R297: sixteen one bits are the most; the counter is never zero. -/
theorem test_ksn_counter : ksnCounterOk 0 = false ∧ ksnCounterOk 0xFFFF0000 = true ∧ ksnCounterOk 0x1FFFF = false := by decide +kernel

/-- Table 3.9 by way of a feature: 29, 10 and 72 with SCALE 0.125 give i = 3.625, 1.25 and 9.0. -/
theorem test_feature_points :
    let f : Feature := { src := 0, bias := 0, scale := 0x2000, table := [-120, -80, -35, 0, 20, 45, 60, 72, 80] }
    featPoints f 29 = (13, false) ∧ featPoints f 10 = (-69, false) ∧ featPoints f 72 = (80, true) := by decide +kernel

/-- R313: the score saturates, and the band follows the thresholds. -/
theorem test_score_saturates :
    let c : Scorecard := { base := 2 ^ 31 - 10, t1 := -5, t2 := 0, t3 := 5, feats := [{ src := 0, bias := 0, scale := 0, table := [100] }] }
    c.eval [7] = { score := 2 ^ 31 - 1, band := 3, clamped := 1 } := by decide

/-- R306: the template of the import that Table 8.8 traces, but for PART, which the store ignores. -/
theorem test_key_block_template :
    let q : SvcReq := { h1 := 1, h2 := 0, key1 := {}, key2 := {}, param := 1 :: List.replicate 15 0, input := [], draw := 0 }
    (kbTemplate q (ascii "D0144P0AB00N0000") 3 8 32).take 32
      = [0x03, 0x20, 0x08, 0, 0, 0, 1, 0, 0, 1, 0, 0, 0, 0, 0, 0] ++ ascii "D0144P0AB00N0000" := by decide +kernel

/-- Table 9.7: D0 with mode B gives ENC and DEC, K1 gives DERIVE and WRAP, P0 with mode C gives none. -/
theorem test_key_block_usage :
    kbUsage (ascii "D0144D0AB00N0000") = some 0x03 ∧ kbUsage (ascii "D0144K1AD00N0000") = some 0x50 ∧ kbUsage (ascii "D0144P0AC00N0000") = none := by decide +kernel

/-- Table 9.8: amounts lose and regain their point; R309: a comment is refused, and so is an element twice. -/
theorem test_amount : amountOut 2 (ascii "000000001234") = ascii "12.34" ∧ amountIn 2 (ascii "12.3") = some (ascii "1230") ∧ amountIn 2 (ascii "1.234") = none := by decide +kernel

theorem test_xml_refused :
    let els (d : String) : Option Nat := (xmlElems (ascii "u") (ascii d)).toOption.map List.length
    els "<D xmlns='u'><!-- --></D>" = none ∧ els "<D xmlns='u'><A>1</A><A>2</A></D>" = none ∧ els "<D xmlns='u'>&foo;</D>" = none ∧ els "<D xmlns='v'></D>" = none
    ∧ els "<D xmlns='u'><A>1</A></D>" = some 2 := by decide +kernel

/-- R320: the order of the response code table. -/
theorem test_response_code :
    let t : List (List Byte) := [[0], [1], [2], [3], [4]]
    authCode t true true 3 = [0] ∧ authCode t false true 3 = [1] ∧ authCode t false false 3 = [2] ∧ authCode t false false 2 = [3] ∧ authCode t false false 1 = [4] := by decide

end Sys2Proof.Tests
end

section
/-!
SUPPORT. What the reset state reads at each register, and the statement on the reset state (O58).
-/
set_option autoImplicit false

namespace Sys2Proof.Proofs.Reset

open Sys2Proof Sys2Proof.Machine Sys2Proof.Statements Sys2Proof.Laws

/-! ### Fields, headers and pages at reset -/

@[simp] theorem reg_reset (F : Field) : State.reset.reg F = F.reset := Nat.zero_xor F.reset

/-- A table that gives every key of a list one value. -/
theorem get_map_const {α : Type} (d v : α) (key : Nat → Nat) (ps : List Nat) (k : Nat) :
    SMap.get d (ps.map fun p => (key p, v)) k = if k ∈ ps.map key then v else d := by
  induction ps with
  | nil => simp only [List.map_nil, SMap.get, List.not_mem_nil, if_false]
  | cons p ps ih =>
    by_cases hk : k = key p
    · simp only [List.map_cons, SMap.get, List.mem_cons, hk, if_true, true_or]
    · simp only [List.map_cons, SMap.get, List.mem_cons, hk, if_false, false_or, ih]

theorem hd_reset (k : Nat) :
    State.reset.hd k = if k ∈ [0x000, 0x110, 0x170, 0x180, 0x190, 0x1B0, 0x1C0] then { enable := true, st := 2 } else {} := by
  have hkeys : resetPages.map (· * 16) = [0x000, 0x110, 0x170, 0x180, 0x190, 0x1B0, 0x1C0] := rfl
  rw [← hkeys]
  exact get_map_const ({} : Hdr) { enable := true, st := 2 } (· * 16) resetPages k

/-- At reset the block is not in ROM recovery, so each page of Table 20.4 answers. -/
theorem pageAnswers_reset (p : Nat) : State.reset.pageAnswers p = pageKnown p := by
  have hrom : State.reset.romRecovery = false := rfl
  simp only [State.pageAnswers, hrom, Bool.not_false, Bool.true_or, Bool.and_true]

/-- Nothing has read a _LO register before the reset state. -/
theorem readValue_hi_reset (off : Nat) (n : Bool) (h : off ∈ latchedLo) : State.reset.readValue n (off + 4) = 0 := by
  have hlatch (k : Nat) : SMap.get 0 State.reset.latch k = 0 := rfl
  have hhi : (latchedLo.contains (off + 4 - 4) && decide (4 ≤ off + 4)) = true := by
    rw [Nat.add_sub_cancel, Bool.and_eq_true, List.contains_iff_mem, decide_eq_true_eq]
    exact ⟨h, Nat.le_add_left 4 off⟩
  rw [State.readValue, if_pos hhi, hlatch, ite_self]

/-! ### The registers of the tables, each at its own offset -/

theorem view_resetWords : ∀ e ∈ resetWords, State.reset.view e.1 = e.2 := by decide +kernel

theorem view_pageKinds : ∀ e ∈ pageKinds, State.reset.view (e.1 * 0x1000) = e.2 := by decide +kernel

/-! ### The yard blocks: all read as block 0 does, but for PAGE_KIND -/

theorem yardBase_eq (y : Nat) : yardBase y = 0x4000 + 256 * y := by
  simp only [yardBase]
  omega

/-- A field of yard block 0 as it stands in block `y`: the blocks are 256 bytes apart (R151). -/
def fieldInBlock (y : Nat) (F : Field) : Field := { F with off := yardBase y + F.off % 256 }

theorem map_eq_fieldInBlock (y : Nat) {i : Nat} (hi : i < 16) : Reg.YARD.MAP y i = fieldInBlock y (Reg.YARD.MAP 0 i) := by
  simp only [Reg.YARD.MAP, fieldInBlock, yardBase_eq, Field.mk.injEq, and_self, and_true]
  omega

theorem margin_eq_fieldInBlock (y : Nat) {i : Nat} (hi : i < 17) :
    Reg.YARD.MARGIN y i = fieldInBlock y (Reg.YARD.MARGIN 0 i) := by
  simp only [Reg.YARD.MARGIN, fieldInBlock, yardBase_eq, Field.mk.injEq, and_self, and_true]
  omega

/-- The fields of a yard block differ from those of block 0 in the offset alone. -/
theorem yard_all_eq_map (y : Nat) : Reg.YARD.all y = (Reg.YARD.all 0).map (fieldInBlock y) := by
  have hmap : (List.range 16).map (Reg.YARD.MAP y) = (List.range 16).map (fieldInBlock y ∘ Reg.YARD.MAP 0) :=
    List.map_congr_left fun i hi => map_eq_fieldInBlock y (List.mem_range.mp hi)
  have hmargin : (List.range 17).map (Reg.YARD.MARGIN y) = (List.range 17).map (fieldInBlock y ∘ Reg.YARD.MARGIN 0) :=
    List.map_congr_left fun i hi => margin_eq_fieldInBlock y (List.mem_range.mp hi)
  simp only [Reg.YARD.all, List.map_append, List.map_map, hmap, hmargin]
  rfl

/-- The word that a yard block's fields hold at block offset `o` at reset. -/
def yardWordReset (o : Nat) : Nat :=
  ((Reg.YARD.all 0).filter fun F => F.off % 256 == o).foldl (fun v F => if F.acc = .wo then v else v ||| (F.reset <<< F.lo)) 0

section Block

variable {y o : Nat} (hy : y < 64) (ho : o < 256)

include hy ho

theorem yardPage_block : yardPage ((yardBase y + o) / 4096) = true := by
  simp only [yardPage, yardBase_eq, Bool.and_eq_true, decide_eq_true_eq]
  omega

/-- A yard page is none of the pages 0, 1 and 2, whose tests come before it where the model asks for the page. -/
theorem page_block_ne : (yardBase y + o) / 4096 ≠ 0 ∧ (yardBase y + o) / 4096 ≠ 1 ∧ (yardBase y + o) / 4096 ≠ 2 := by
  rw [yardBase_eq]
  omega

theorem yardAt_block : yardAt (yardBase y + o) = y := by
  simp only [yardAt, yardBase_eq]
  omega

theorem blockOff_block : blockOff (yardBase y + o) = o := by
  rw [blockOff, if_pos (yardPage_block hy ho), yardBase_eq]
  omega

theorem pageAnswers_block : State.reset.pageAnswers ((yardBase y + o) / 4096) = true := by
  simp only [pageAnswers_reset, pageKnown, yardBase_eq, Bool.and_eq_true, decide_eq_true_eq, bne_iff_ne]
  omega

theorem pageKind_block : pageKind (yardBase y + o) = 0x400 + y := by
  obtain ⟨h0, -, -⟩ := page_block_ne hy ho
  simp only [pageKind, if_neg h0, yardPage_block hy ho, if_true, yardAt_block hy ho]

theorem pageFields_block : pageFields ((yardBase y + o) / 4096) y = Reg.YARD.all y := by
  obtain ⟨h0, h1, h2⟩ := page_block_ne hy ho
  simp only [pageFields, if_neg h0, if_neg h1, if_neg h2, yardPage_block hy ho, if_true]

theorem shown_block (s : State) : s.shown (yardBase y + o) = s.viewYard y o := by
  obtain ⟨h0, h1, h2⟩ := page_block_ne hy ho
  have hoff : (yardBase y + o) % 4096 % 256 = o := by
    rw [yardBase_eq]
    omega
  simp only [State.shown, if_neg h0, if_neg h1, if_neg h2, yardPage_block hy ho, if_true, yardAt_block hy ho, hoff]

/-- The fields of the register at `o` in block `y` are those at `o` in block 0, moved. -/
theorem fieldsAt_block :
    fieldsAt (yardBase y + o) = ((Reg.YARD.all 0).filter fun F => F.off % 256 == o).map (fieldInBlock y) := by
  have hoff (F : Field) : ((fieldInBlock y F).off == yardBase y + o) = (F.off % 256 == o) := by
    rw [Bool.eq_iff_iff, beq_iff_eq, beq_iff_eq]
    exact Nat.add_left_cancel_iff
  simp only [fieldsAt, yardAt_block hy ho, pageFields_block hy ho]
  rw [yard_all_eq_map, List.filter_map]
  simp only [Function.comp_def, hoff]

theorem heldWord_block : State.reset.heldWord (yardBase y + o) = yardWordReset o := by
  have hfield (v : Nat) (F : Field) :
      (if (fieldInBlock y F).acc = .wo then v else v ||| (State.reset.reg (fieldInBlock y F) <<< (fieldInBlock y F).lo))
        = if F.acc = .wo then v else v ||| (F.reset <<< F.lo) := by
    simp only [reg_reset, fieldInBlock]
  simp only [State.heldWord, fieldsAt_block hy ho, List.foldl_map, hfield, yardWordReset]

theorem view_block (hh : 0x24 ≤ o) :
    State.reset.view (yardBase y + o) = ((State.reset.viewYard 0 o).getD (yardWordReset o)) % 2 ^ 32 := by
  have hv : State.reset.viewYard y o = State.reset.viewYard 0 o := rfl
  have hlt : ¬ o < 0x24 := by omega
  simp only [State.view, pageAnswers_block hy ho, blockOff_block hy ho, shown_block hy ho, heldWord_block hy ho, hv, if_neg hlt,
    Bool.not_true, Bool.false_eq_true, if_false]

end Block

theorem view_block_kind {y : Nat} (hy : y < 64) : State.reset.view (yardBase y + 0) = 0x400 + y := by
  have ho : 0 < 256 := by decide
  simp only [State.view, pageAnswers_block hy ho, blockOff_block hy ho, pageKind_block hy ho, Hdr.word]
  rfl

/-- Table 4.6: what the registers above the header show of a yard of the reset state. -/
theorem yard_words : ∀ e ∈ [(0x40, 0x03020100), (0x4C, 0x0F0E0D0C), (0x50, 0x100000), (0x58, 0x28), (0x60, 0x03FF03FF), (0x7C, 0x03FF03FF), (0x80, 0x3FF)],
    0x24 ≤ e.1 ∧ e.1 < 256 ∧ ((State.reset.viewYard 0 e.1).getD (yardWordReset e.1)) % 2 ^ 32 = e.2 := by decide +kernel

theorem view_blocks (y : Nat) (hy : y < 64) :
    ∀ e ∈ [(0, 0x400 + y), (0x40, 0x03020100), (0x4C, 0x0F0E0D0C), (0x50, 0x100000), (0x58, 0x28), (0x60, 0x03FF03FF), (0x7C, 0x03FF03FF), (0x80, 0x3FF)],
      State.reset.view (0x4000 + 256 * y + e.1) = e.2 := by
  rw [← yardBase_eq]
  refine List.forall_mem_cons.mpr ⟨view_block_kind hy, fun e he => ?_⟩
  obtain ⟨hh, ho, hv⟩ := yard_words e he
  rw [view_block hy ho hh, hv]

/-- Settles O58: the register tables by evaluation, the yard blocks through the fields of block 0, and every other part of the
state from what `State.reset` leaves at its default. -/
theorem resetIsAsTheTablesSay : Obligations.ResetIsAsTheTablesSay := by
  unfold Obligations.ResetIsAsTheTablesSay
  refine ⟨reg_reset, view_resetWords, view_pageKinds, view_blocks, hd_reset, fun off h n => readValue_hi_reset off n h, ?_⟩
  exact ⟨rfl, rfl, rfl, rfl, rfl, rfl, rfl, -- the frame, the rig, admission, flights and Sheaves
    rfl, rfl, rfl, rfl, rfl, rfl, rfl, -- the memories, with WSEQ
    rfl, rfl, rfl, rfl, rfl, rfl, rfl, -- the units and the fault log
    rfl, rfl, rfl, rfl, -- before boot, as shipped
    rfl, rfl, rfl, wf_reset⟩

end Sys2Proof.Proofs.Reset
end
